-- ==== Sys2Proof/Word.lean ====
section
/-! DEFINITION. The word type of the sequencer and its plainest arithmetic (02, 06 R100). -/
namespace Sys2Proof

/-- A 64-bit scalar value or address. -/
abbrev Word := BitVec 64

/-- A byte. -/
abbrev Byte := BitVec 8

/-- A halfword of code: a head or a tail halfword (02 R35). -/
abbrev Half := BitVec 16

/-- A scalar, vector or loop register number as encoded (02 R43). -/
abbrev Reg := BitVec 5

/-- u(v) at width n (06 R100). -/
def uAt (n : Nat) (v : Word) : Nat := v.toNat % 2 ^ n

/-- A natural number below 2^n read as an n-bit two's-complement value. -/
def toSigned (n v : Nat) : Int := if v % 2 ^ n < 2 ^ (n - 1) then Int.ofNat (v % 2 ^ n) else Int.ofNat (v % 2 ^ n) - Int.ofNat (2 ^ n)

/-- s(v) at width n (06 R100). -/
def sAt (n : Nat) (v : Word) : Int := toSigned n v.toNat

/-- The n-bit pattern of an integer. -/
def ofIntAt (n : Nat) (x : Int) : Nat := (x % (2 ^ n : Int)).toNat

/-- The width n of a W-qualified form (06 R100). -/
def widthOf (w : Bool) : Nat := if w then 32 else 64

/-- Assignment of s(x) to a register: the 64-bit pattern of x wrapped at width n (06 R100). -/
def wrapAt (n : Nat) (x : Int) : Word := BitVec.ofInt 64 (toSigned n (ofIntAt n x))

/-- A Bool as one bit. -/
def bit1 (b : Bool) : BitVec 1 := BitVec.ofBool b

end Sys2Proof
end

