-- ==== Sys2Proof/Syntax.lean ====
section
/-! DEFINITION. The instructions: one constructor per row of spec/opcode_table.json, with the operand fields of its encoding
(02 and the chapter of each major) or, for an event of an engine or of an outside party, the choice that party makes. -/
namespace Sys2Proof

/-- An immediate of one or two tail halfwords, sign-extended (02 R39). -/
inductive Imm where
  | short (v : BitVec 16)
  | long (v : BitVec 32)
  deriving DecidableEq, Repr

/-- Sign-extension of an immediate to 64 bits (02 R39). -/
def Imm.word : Imm → Word
  | .short v => v.signExtend 64
  | .long v => v.signExtend 64

/-- Sign-extension of an optional 16-bit displacement, 0 when absent. -/
def dispWord : Option (BitVec 16) → Word
  | none => 0
  | some v => v.signExtend 64

/-- Register forms of majors 0x01 and 0x03 (06 R101, R102). -/
structure AluR where (w : Bool) (d b : Reg) (fb : Bool) (c : Reg) (fc : Bool)
  deriving DecidableEq, Repr
/-- Immediate forms of major 0x02 (06 R101). -/
structure AluI where (w : Bool) (d b : Reg) (fb : Bool) (imm : Imm)
  deriving DecidableEq, Repr
/-- Unary bit operations (06 R104). -/
structure BitU where (d b : Reg) (fb : Bool) (wc : BitVec 2)
  deriving DecidableEq, Repr
/-- SEL (06 R104). -/
structure SelOps where (d b : Reg) (fb : Bool) (c : Reg) (fc : Bool) (a : Reg) (fa : Bool)
  deriving DecidableEq, Repr
/-- EXT, EXTN and INS (06 R104). -/
structure ExtOps where (d b : Reg) (fb : Bool) (lenm1 pos : BitVec 6)
  deriving DecidableEq, Repr
/-- LEA without displacement (06 R107). -/
structure LeaOps where (d b : Reg) (fb : Bool) (c : Reg) (fc : Bool) (sc : BitVec 2)
  deriving DecidableEq, Repr
/-- LD and LDS (06 R109, R115); acq is false for LDS. -/
structure LdOps where (d b : Reg) (fb acq z : Bool) (sz : BitVec 2)
  deriving DecidableEq, Repr
/-- LDS (06 R115). -/
structure LdsOps where (d b : Reg) (fb z : Bool) (sz : BitVec 2)
  deriving DecidableEq, Repr
/-- ST and STS (06 R109). -/
structure StOps where (b : Reg) (fb : Bool) (c : Reg) (fc : Bool) (sz : BitVec 2)
  deriving DecidableEq, Repr
/-- PREF (06 R116). -/
structure PrefOps where (b : Reg) (fb : Bool) (lvl : BitVec 3)
  deriving DecidableEq, Repr
/-- AMO, CAS and APPEND (15 R266); szd: SZ = 3. -/
structure AmoOps where (d b : Reg) (fb : Bool) (c : Reg) (fc acq szd : Bool) (disp : Option (BitVec 16))
  deriving DecidableEq, Repr
/-- BCC (07 R120). -/
structure BccOps where (w : Bool) (b : Reg) (fb : Bool) (c : Reg) (fc : Bool) (off : Imm)
  deriving DecidableEq, Repr
/-- LOOP with a register count (07 R122). -/
structure LoopOps where (b : Reg) (fb ckv : Bool) (cki : BitVec 9) (off : BitVec 16)
  deriving DecidableEq, Repr
/-- LOOP with an immediate count (07 R122). -/
structure LoopImmOps where (ckv : Bool) (cki : BitVec 9) (off count : BitVec 16)
  deriving DecidableEq, Repr
/-- STRIP (07 R126). -/
structure StripOps where (n : Reg) (qm : BitVec 8) (off : BitVec 16)
  deriving DecidableEq, Repr
/-- TRAP (07 R128). -/
structure TrapOps where (b : Reg) (fb : Bool) (c : Reg) (fc : Bool) (code : BitVec 16)
  deriving DecidableEq, Repr
/-- A destination and one scalar source. -/
structure UnOps where (d b : Reg) (fb : Bool)
  deriving DecidableEq, Repr
/-- One scalar source. -/
structure SrcOps where (b : Reg) (fb : Bool)
  deriving DecidableEq, Repr
/-- A destination and two scalar sources. -/
structure BinOps where (d b : Reg) (fb : Bool) (c : Reg) (fc : Bool)
  deriving DecidableEq, Repr
/-- TURN and CACHE (14 R249). -/
structure TurnOps where (a l : Reg) (fl : Bool) (lvl : BitVec 3)
  deriving DecidableEq, Repr
/-- SNAP and CACHE.TINIT (14 R255, R258). -/
structure RegionOps where (a l : Reg) (fl : Bool)
  deriving DecidableEq, Repr
/-- WAITS (17 R297). -/
structure WaitsOps where (d p : Reg) (fp : Bool) (v : Reg) (fv szd : Bool)
  deriving DecidableEq, Repr
/-- SPAWN (17 R298). -/
structure SpawnOps where (d code : Reg) (fcode : Bool) (frame : Reg) (fframe : Bool) (pri : BitVec 2) (join : Reg) (fjoin : Bool)
  deriving DecidableEq, Repr
/-- WAITJ (17 R300). -/
structure WaitjOps where (b : Reg) (fb ckv : Bool) (cki : BitVec 9)
  deriving DecidableEq, Repr
/-- LAUNCH (17 R301). -/
structure LaunchOps where (w : Bool) (d b : Reg) (fb ckv : Bool) (cki : BitVec 9)
  deriving DecidableEq, Repr
/-- Two-source vector forms of the common encoding (09 R166, R167); s: Rc names a scalar. -/
structure V3 where (s : Bool) (d b : Reg) (fb : Bool) (c : Reg) (fc : Bool) (km : BitVec 3)
  deriving DecidableEq, Repr
/-- One-source vector forms. -/
structure V2 where (d b : Reg) (fb : Bool) (km : BitVec 3)
  deriving DecidableEq, Repr
/-- Fused multiply-add (09 R171). -/
structure V4 where (s : Bool) (d b : Reg) (fb : Bool) (c : Reg) (fc : Bool) (a : Reg) (fa : Bool) (km : BitVec 3)
  deriving DecidableEq, Repr
/-- VCMP (09 R174). -/
structure VCmpOps where (s : Bool) (d : BitVec 3) (b : Reg) (fb : Bool) (c : Reg) (fc : Bool) (km : BitVec 3)
  deriving DecidableEq, Repr
/-- Mask operations with two sources (09 R175). -/
structure K3 where (d b : BitVec 3) (fb : Bool) (c : BitVec 3) (fc : Bool)
  deriving DecidableEq, Repr
/-- Mask operations with one source. -/
structure K2 where (d b : BitVec 3) (fb : Bool)
  deriving DecidableEq, Repr
/-- kpopc and kfirst. -/
structure KS where (d : Reg) (b : BitVec 3) (fb : Bool)
  deriving DecidableEq, Repr
/-- VCVT (09 R176). -/
structure CvtOps where (d b : Reg) (fb : Bool) (mode km : BitVec 3)
  deriving DecidableEq, Repr
/-- VUNPK (09 R180). -/
structure UnpkOps where (d b : Reg) (fb : Bool) (k : BitVec 3) (sx : Bool) (km : BitVec 3)
  deriving DecidableEq, Repr
/-- Two-source vector forms without a scalar form (VLUT, VSEL, VPERM, VSLIDE). -/
structure VV where (d b : Reg) (fb : Bool) (c : Reg) (fc : Bool) (km : BitVec 3)
  deriving DecidableEq, Repr
/-- VRED (10 R209). -/
structure RedOps where (s : Bool) (d b : Reg) (fb : Bool) (c : Reg) (fc init : Bool) (km : BitVec 3)
  deriving DecidableEq, Repr
/-- VSCAN (10 R210). -/
structure ScanOps where (s : Bool) (d b : Reg) (fb : Bool) (c : Reg) (fc init excl : Bool) (km : BitVec 3)
  deriving DecidableEq, Repr
/-- VLD with a base register (10 R196); acq is false for VLDS. -/
structure VldOps where (acq : Bool) (d b : Reg) (fb : Bool) (km : BitVec 3) (disp : Option (BitVec 16))
  deriving DecidableEq, Repr
/-- VLD through a stream register. -/
structure VldqOps where (acq adv : Bool) (d : Reg) (q : BitVec 3) (km : BitVec 3)
  deriving DecidableEq, Repr
/-- VST and VSTS with a base register. -/
structure VstOps where (fd : Bool) (e b : Reg) (fb : Bool) (km : BitVec 3) (disp : Option (BitVec 16))
  deriving DecidableEq, Repr
/-- VST through a stream register. -/
structure VstqOps where (fd adv : Bool) (e : Reg) (q : BitVec 3) (km : BitVec 3)
  deriving DecidableEq, Repr
/-- VLDS (10 R199). -/
structure VldsOps where (d b : Reg) (fb : Bool) (km : BitVec 3) (disp : Option (BitVec 16))
  deriving DecidableEq, Repr
/-- VGATH and VLDSX (10 R198, R199); acq is false for VLDSX. -/
structure GathOps where (acq : Bool) (d b : Reg) (fb : Bool) (c : Reg) (fc : Bool) (km : BitVec 3) (sc : BitVec 2) (disp : Option (BitVec 16))
  deriving DecidableEq, Repr
/-- VLDSX. -/
structure LdsxOps where (d b : Reg) (fb : Bool) (c : Reg) (fc : Bool) (km : BitVec 3) (sc : BitVec 2) (disp : Option (BitVec 16))
  deriving DecidableEq, Repr
/-- VSCAT and VSTSX. -/
structure ScatOps where (fd : Bool) (e b : Reg) (fb : Bool) (c : Reg) (fc : Bool) (km : BitVec 3) (sc : BitVec 2) (disp : Option (BitVec 16))
  deriving DecidableEq, Repr
/-- STRM (10 R201). -/
structure StrmOps where (ui : Bool) (d : Reg) (q : BitVec 3) (esz : BitVec 2) (out : Bool) (c : Reg) (fc : Bool)
  deriving DecidableEq, Repr
/-- COPY (10 R207). -/
structure CopyOps where (ui : Bool) (d b : Reg) (fb : Bool) (c : Reg) (fc : Bool) (n : Reg) (fn : Bool)
  deriving DecidableEq, Repr
/-- QCFG (10 R195). -/
structure QcfgOps where (q : BitVec 3) (b : Reg) (fb : Bool) (w : BitVec 3)
  deriving DecidableEq, Repr
/-- Scratchpad tile access (12 R231). -/
structure TldOps where (t : BitVec 3) (b : Reg) (fb : Bool) (sw : BitVec 2) (disp : BitVec 16)
  deriving DecidableEq, Repr
/-- Scratchpad tile access without displacement. -/
structure TldOps0 where (t : BitVec 3) (b : Reg) (fb : Bool) (sw : BitVec 2)
  deriving DecidableEq, Repr
/-- Memory tile access. -/
structure TldmOps where (t q : BitVec 3) (adv : Bool)
  deriving DecidableEq, Repr
/-- TCBK (12 R237). -/
structure TcbkOps where (cb : BitVec 1) (b : Reg) (fb : Bool)
  deriving DecidableEq, Repr
/-- TMMA (12 R238). -/
structure TmmaOps where (a : BitVec 1) (t af : BitVec 3) (z : Bool)
  deriving DecidableEq, Repr
/-- TDRAIN (12 R239). -/
structure TdrainOps where (d : Reg) (a : BitVec 1) (c : Reg) (fc : Bool)
  deriving DecidableEq, Repr
/-- TACC (12 R239). -/
structure TaccOps where (fd : Bool) (d : Reg) (a : BitVec 1) (c : Reg) (fc : Bool)
  deriving DecidableEq, Repr
/-- BIND (19 R330). -/
structure BindOps where (r b : Reg) (fb : Bool) (c : Reg) (fc : Bool) (e : Reg)
  deriving DecidableEq, Repr
/-- MCAST (19 R331). -/
structure McastOps where (ui : Bool) (d b : Reg) (fb : Bool) (c : Reg) (fc : Bool) (n : Reg) (fn : Bool) (m : Reg) (fm : Bool) (bank : BitVec 2)
  deriving DecidableEq, Repr
/-- SKINS (20 R343). -/
structure SkinsOps where (d b : Reg) (fb : Bool) (c : Reg) (fc : Bool) (v : Reg) (fv : Bool)
  deriving DecidableEq, Repr
/-- SKLOOK (20 R343). -/
structure SklookOps where (d e b : Reg) (fb : Bool) (c : Reg) (fc : Bool)
  deriving DecidableEq, Repr
/-- RECON.DIFF (20 R345). -/
structure DiffOps where (d b : Reg) (fb : Bool) (c : Reg) (fc : Bool) (n : Reg) (fn : Bool) (m : Reg) (fm : Bool)
  deriving DecidableEq, Repr

/-- The whole result of one execution of a vector instruction (23 R370): the destination registers with their values, the KSAT
register's value, the flags raised, the FFIRST values and a scalar destination's value. -/
structure VResult where (dest : List (Nat × BitVec 16384)) (mask : List (Nat × BitVec 2048)) (flags : BitVec 6) (first : BitVec 96) (scalar : Option Word)
  deriving DecidableEq, Repr

/-- A Dexlink flit as the receiver sees it after FEC (19 R318); crcOk is the outcome of its CRC, room whether a buffer is free. -/
structure Flit where (seq ack : BitVec 12) (type : Byte) (vcc : BitVec 2) (crcOk room : Bool)
  deriving DecidableEq, Repr

/-- What a scrubber finds in one ECC granule (23 R378); a corrected error carries its corrected data, which the stored data already reads as. -/
inductive ScrubFinding where
  | clean
  | corrected
  | uncorrectable
  deriving DecidableEq, Repr

/-- What a master outside the strands writes (04 R407): plain data, or an atomic operation of 15 R268 to R270; CAS with the expected value. -/
inductive HostOp where
  | write
  | swap
  | add
  | band
  | bor
  | bxor
  | min
  | max
  | minu
  | maxu
  | cas (exp : BitVec 64)
  | append
  deriving DecidableEq, Repr

/-- A firmware image as the boot ROM reads it from the boot flash (24 R383): whether it can be read, its bytes, the public key and the signature that come
with it, and its security version. -/
structure BootImage where (readable : Bool) (bytes key signature : List Byte) (version : Nat)
  deriving DecidableEq, Repr

/-- What firmware loads when it releases the strands (24 R384): the boot values of TVEC, the access-table entries (target, endpoint,
entry), PGRP, PWAIT, the Hamper's backing slots (17 R408) and the measurement of its policy tables. -/
structure BootValues where (tvec : Word) (access : List (Nat × Nat × Word)) (pgrp : Word) (pwait slots : Nat) (meas4 : BitVec 384)
  deriving DecidableEq, Repr

/-- A policy setting of firmware (17 R287, 23 R379). -/
inductive Policy where
  | patrol (hours : Nat)
  | cethr (errors : Nat)
  | pwait (clk : Nat)
  deriving DecidableEq, Repr

/-- The instructions and events of the opcode table, one constructor a row. The rows without words of their own (what an engine,
another master or the device does by itself) come first, then the encoded instructions in the table's order. -/
inductive Instr where
  | atomicHomeEvent (k : Nat) (bad : Bool) | lqregWithdraw (o : SrcOps) | pgrpWrite (m : Nat) (v : Word) | idleWake (p : Nat)
  | publishSwap (frame : Nat) | catchupCopy (frame : Nat) | wcbDrain (core k : Nat) | wcbAgeTimeout (core k : Nat)
  | outboundSliceWriteback (cluster k : Nat) | homeWriteMerge (k : Nat) (bad : Bool) | adBitUpdate (k : Nat)
  | loadDataArrival (p k : Nat) (bad : Bool) | remoteScratchpadArrival (k : Nat) | barPhaseComplete (m grid lvl unit : Nat)
  | nextwRequest (k : Nat) | nextwReply (k : Nat) | yieldSave (p : Nat) | launchQueueRecord (m slot : Nat)
  | groupPlacement (m k : Nat) (strands : List Nat) | freshDispatch (p : Nat) | contextRestore (p : Nat) | pwaitExpiry (m k : Nat)
  | preemptionRequest (m k : Nat) (strands : List Nat) | listedSave (p : Nat) | checkpointWatchdogExpiry (p : Nat) | forcedSave (p : Nat)
  | savedStatusDelivery (k : Nat) | doorbellArrival (p : Nat) | ueDataReport (p : Nat) (qual : Byte) (addr : Word) | doorbell (p : Nat)
  | ueDataInterrupt (p : Nat) | userInterruptEntry (p : Nat) | vectorRecheck (core : Nat) (second third fourth : VResult)
  | squashReplay (core : Nat) | transferCompletion (p k : Nat) | codebookRowExpand (core : Nat)
  | codebookFill (core slot : Nat) (bad : Bool) | pushBufferPush (p r : Nat) | foldContribution (k pos : Nat)
  | resultGroupMulticast (k : Nat) | resultGroupFill (p r : Nat) | mcastTargetWrite (p k : Nat) | escapeChannelTimeout (k : Nat)
  | flitReceive (m port : Nat) (f : Flit) | nakReceive (m port : Nat) (seq : BitVec 12) | replayTimeout (m port : Nat)
  | laneTrainingFailure (m port : Nat) | hostWrite (ep pa n : Nat) (op : HostOp) (v : BitVec 512) | hostRead (ep pa n : Nat)
  | skclrTicket (m t : Nat) | reconciliation (m t : Nat) | peerSnapshot (m t : Nat) | reconApplyOp (m t : Nat)
  | parityDeltaFold (k : Nat) (bad : Bool) | degradedRead (p pa n : Nat) | degradedWrite (p pa n : Nat) (v : BitVec 512)
  | stripeRebuild (m g : Nat) | scrubRead (pa : Nat) (f : ScrubFinding) | reencodeRow (m bank row : Nat) | neighbourRefresh (m row : Nat)
  | pageMigration (leaf newFrame : Nat) | powerOnReset (m : Nat) (image : BootImage) | strandRelease (m : Nat) (boot : BootValues)
  | accessTableWrite (m target ep : Nat) (entry : Word) | mailboxDoorbell (m ep : Nat) | spdmMessage (m : Nat) | readErrorLog (m : Nat)
  | readHaltedState (m : Nat) | resumeHaltedStrand (m : Nat) | setPowerCap (m : Nat) | readSensors (m : Nat)
  | raiseSecurityVersion (m : Nat) | thermalThrottle (m : Nat) | thermalShutdown (m : Nat) | illegalOpcode (head tail0 : Half)
  | moduleNumberRedirect (lost to_ : Nat) | strandWithdrawal (m : Nat) (strands : List Nat) | reencodeEnable (m bank : Nat)
  | policyWrite (m : Nat) (p : Policy) | boundaryScan (m : Nat) | throttleRelease (m : Nat)
  | nop | add (o : AluR) | sub (o : AluR) | and (o : AluR) | or (o : AluR) | xor (o : AluR) | andn (o : AluR) | sll (o : AluR)
  | srl (o : AluR) | sra (o : AluR) | ror (o : AluR) | slt (o : AluR) | sltu (o : AluR) | min (o : AluR) | max (o : AluR)
  | minu (o : AluR) | maxu (o : AluR) | addImm (o : AluI) | rsbImm (o : AluI) | andImm (o : AluI) | orImm (o : AluI) | xorImm (o : AluI)
  | andnImm (o : AluI) | sllImm (o : AluI) | srlImm (o : AluI) | sraImm (o : AluI) | rorImm (o : AluI) | sltImm (o : AluI)
  | sltuImm (o : AluI) | minImm (o : AluI) | maxImm (o : AluI) | minuImm (o : AluI) | maxuImm (o : AluI) | mul (o : AluR)
  | mulh (o : AluR) | mulhu (o : AluR) | mulhsu (o : AluR) | div (o : AluR) | divu (o : AluR) | rem (o : AluR) | remu (o : AluR)
  | clz (o : BitU) | ctz (o : BitU) | popc (o : BitU) | brev (o : BitU) | bswap (o : BitU) | sel (o : SelOps) | ext (o : ExtOps)
  | extn (o : ExtOps) | ins (o : ExtOps) | li16 (z : Bool) (d : Reg) (i : BitVec 16) | li32 (z : Bool) (d : Reg) (i : BitVec 32)
  | li64 (d : Reg) (i : BitVec 64) | lea (o : LeaOps) | leaDisp (o : LeaOps) (disp : Imm) | addpc (d : Reg) (disp : Imm) | ld (o : LdOps)
  | ldDisp (o : LdOps) (disp : Imm) | st (o : StOps) | stDisp (o : StOps) (disp : Imm) | lds (o : LdsOps)
  | ldsDisp (o : LdsOps) (disp : Imm) | sts (o : StOps) | stsDisp (o : StOps) (disp : Imm) | pref (o : PrefOps)
  | prefDisp (o : PrefOps) (disp : Imm) | amoSwap (o : AmoOps) | amoAdd (o : AmoOps) | amoAnd (o : AmoOps) | amoOr (o : AmoOps)
  | amoXor (o : AmoOps) | amoMin (o : AmoOps) | amoMax (o : AmoOps) | amoMinu (o : AmoOps) | amoMaxu (o : AmoOps) | cas (o : AmoOps)
  | append (o : AmoOps) | br (off : BitVec 16) | brLong (off : BitVec 32) | beq (o : BccOps) | bne (o : BccOps) | blt (o : BccOps)
  | bge (o : BccOps) | bltu (o : BccOps) | bgeu (o : BccOps) | call (d : Reg) (off : BitVec 16) | callLong (d : Reg) (off : BitVec 32)
  | jmpr (o : UnOps) | ret (o : SrcOps) | loop (o : LoopOps) | loopImm (o : LoopImmOps) | lidx (d : Reg) (lv : BitVec 3)
  | lbrk (lv : BitVec 3) | strip (o : StripOps) | stripCk (o : StripOps) (cki : BitVec 9) | trapEq (o : TrapOps) | trapNe (o : TrapOps)
  | trapLt (o : TrapOps) | trapGe (o : TrapOps) | trapLtu (o : TrapOps) | trapGeu (o : TrapOps) | ecall (code : BitVec 16)
  | brk (code : BitVec 16) | eret | eretN | uiret | mfs (d : Reg) (num : BitVec 12) | mts (num : BitVec 12) (o : SrcOps)
  | vpartWrite (o : SrcOps) | matrixRegWrite (num : BitVec 12) (o : SrcOps) | dbellWrite (o : SrcOps) | lseedWrite (o : SrcOps)
  | lqregRegister (o : SrcOps) | tlbiAll (lvl : BitVec 3) | tlbiVa (o : SrcOps) (lvl : BitVec 3) | idle | halt | turn (o : TurnOps)
  | turnPub (o : TurnOps) | fenceO | fenceIo | fenceSurv | snapOpen (o : RegionOps) | snapClose (o : RegionOps) | cacheWb (o : TurnOps)
  | cacheInv (o : TurnOps) | cacheWbinv (o : TurnOps) | cacheTinit (o : RegionOps) | waits (o : WaitsOps) | bar (lvl : BitVec 3)
  | barArrive (lvl : BitVec 3) | barWait (lvl : BitVec 3) | spawn (o : SpawnOps) | done | doneCtr (o : SrcOps) | waitj (o : WaitjOps)
  | launch (o : LaunchOps) | nextw (o : BinOps) | getid (d : Reg) (sel : BitVec 4) | yield (ckv : Bool) (cki : BitVec 9)
  | vsetvl (o : UnOps) | vtag (d cntm1 : Reg) (tag : BitVec 4) | vcfg (o : SrcOps) | vadd (o : V3) | vsub (o : V3) | vmul (o : V3)
  | vdiv (o : V3) | vmin (o : V3) | vmax (o : V3) | vsqrt (o : V2) | vabs (o : V2) | vneg (o : V2) | vsgnj (o : V3) | vfma (o : V4)
  | vfms (o : V4) | vfnma (o : V4) | vfnms (o : V4) | vaddI (o : V3) | vsubI (o : V3) | vmulI (o : V3) | vmulh (o : V3) | vand (o : V3)
  | vor (o : V3) | vxor (o : V3) | vsll (o : V3) | vsrl (o : V3) | vsra (o : V3) | vminI (o : V3) | vmaxI (o : V3) | vadds (o : V3)
  | vsubs (o : V3) | vclz (o : V2) | vctz (o : V2) | vpopc (o : V2) | vffs (o : V2) | vbrev (o : V2) | vcmpEq (o : VCmpOps)
  | vcmpNe (o : VCmpOps) | vcmpLt (o : VCmpOps) | vcmpLe (o : VCmpOps) | vcmpGt (o : VCmpOps) | vcmpGe (o : VCmpOps)
  | vcmpUn (o : VCmpOps) | kand (o : K3) | kor (o : K3) | kxor (o : K3) | kandn (o : K3) | knot (o : K2) | kmov (o : K2)
  | kset (d : BitVec 3) | kclr (d : BitVec 3) | kpopc (o : KS) | kfirst (o : KS) | vcvt (o : CvtOps) | vscale (o : V3) | vqnt (o : V2)
  | vlut (o : VV) | vunpk (o : UnpkOps) | vsel (o : VV) | vmov (o : V2) | vbcast (o : V2) | vextr (o : BinOps) | vredSum (o : RedOps)
  | vredMin (o : RedOps) | vredMax (o : RedOps) | vredAnd (o : RedOps) | vredOr (o : RedOps) | vredXor (o : RedOps)
  | vscanSum (o : ScanOps) | vscanMin (o : ScanOps) | vscanMax (o : ScanOps) | vscanAnd (o : ScanOps) | vscanOr (o : ScanOps)
  | vscanXor (o : ScanOps) | vperm (o : VV) | vslideup (o : VV) | vslidedn (o : VV) | vrev (o : V2) | vcompress (o : V2)
  | vexpand (o : V2) | qcfg (o : QcfgOps) | qrd (d : Reg) (q w : BitVec 3) | qrst (q : BitVec 3) | vld (o : VldOps)
  | vldStream (o : VldqOps) | vst (o : VstOps) | vstStream (o : VstqOps) | vgath (o : GathOps) | vscat (o : ScatOps) | vlds (o : VldsOps)
  | vsts (o : VstOps) | vldsx (o : LdsxOps) | vstsx (o : ScatOps) | strmVector (o : StrmOps) | strmScratchpad (o : StrmOps)
  | strmFabric (o : StrmOps) | strmc (n : Reg) | strmq (d n : Reg) | copyIn (o : CopyOps) | copyOut (o : CopyOps)
  | tshape (t : BitVec 3) (o : SrcOps) | tld (o : TldOps0) | tldDisp (o : TldOps) | tldMem (o : TldmOps) | tst (o : TldOps0)
  | tstDisp (o : TldOps) | tstMem (o : TldmOps) | tzero (t : BitVec 3) | tzeroAcc (a : BitVec 1) | tmov (t b : BitVec 3)
  | twld (t wf : BitVec 3) | twldCb (t : BitVec 3) (cbm : BitVec 2) | twldSp (t tm wf : BitVec 3) | tcbk (o : TcbkOps)
  | tcbkDisp (o : TcbkOps) (disp : BitVec 16) | tcbkS (o : TcbkOps) | tcbkSDisp (o : TcbkOps) (disp : BitVec 16) | tmma (o : TmmaOps)
  | tmmaSp (o : TmmaOps) | tdrain (o : TdrainOps) | tdrainN (d : Reg) (a : BitVec 1) | taccSet (o : TaccOps) | taccAdd (o : TaccOps)
  | tstat (d : Reg) (t : BitVec 3) | tstatIdle (d : Reg) | bind (o : BindOps) | unbind (d r : Reg) | mcast (o : McastOps)
  | skins (o : SkinsOps) | skdel (o : BinOps) | skclr (o : BinOps) | sklook (o : SklookOps) | reconPull (o : BinOps)
  | reconPush (o : BinOps) | reconMerge (o : BinOps) | reconSave (o : BinOps) | reconDiff (o : DiffOps) | reconq (o : UnOps)
  | survq (o : UnOps) | survqGrp (o : UnOps) | survqSeal (o : UnOps)
  deriving DecidableEq, Repr

end Sys2Proof
end

