-- ==== Sys2Proof/WellFormed.lean ====
section
/-! DEFINITION. Which operand fields an instruction's encoding admits: the rules of each chapter that read only the fields of the
encoding (02 R36, R41 step 1). A term that is not well formed has no encoding; its words raise ILLEGAL_OPCODE. -/
namespace Sys2Proof

/-- The system register numbers that R85 assigns (05). -/
def sysAssigned (n : BitVec 12) : Bool :=
  let k := n.toNat
  (k ≤ 4) || (8 ≤ k && k ≤ 0xC) || (0x10 ≤ k && k ≤ 0x13) || (0x18 ≤ k && k ≤ 0x1A) || k == 0x1C || (0x20 ≤ k && k ≤ 0x22) || k == 0x24
    || k == 0x28 || k == 0x29 || (0x2C ≤ k && k ≤ 0x30) || k == 0x40 || (0x100 ≤ k && k ≤ 0x109) || k == 0x110 || k == 0x111
    || (0x120 ≤ k && k ≤ 0x122) || (0x140 ≤ k && k ≤ 0x15D) || (0x160 ≤ k && k ≤ 0x19F) || k == 0x200

/-- The numbers whose write has a row of its own in the opcode table. -/
def sysOwnWrite (n : BitVec 12) : Bool :=
  n == 0x004 || n == 0x00B || n == 0x018 || n == 0x019 || n == 0x01A || n == 0x120 || n == 0x122

/-- MCTL, MSTAT and MDRAIN (12 R222). -/
def sysMatrix (n : BitVec 12) : Bool := n == 0x018 || n == 0x019 || n == 0x01A

/-- A shift immediate lies in 0 to n-1 (06 R101). -/
def shiftImmOk (o : AluI) : Bool := o.imm.word.toNat < widthOf o.w

/-- CKV = 0 with a nonzero CKI is refused (07 R122, 17 R296). -/
def ckOk (ckv : Bool) (cki : BitVec 9) : Bool := ckv || cki == 0

/-- Number of stream registers that QM names (07 R126). -/
def qmCount (qm : BitVec 8) : Nat := (List.range 8).countP (fun j => qm.getLsbD j)

/-- The region operands of TURN, SNAP and CACHE: neither is s0 and they differ (14 R249). -/
def regionOk (a l : Reg) : Bool := a != 0 && l != 0 && a != l

/-- Unused fields of a reduction without an initial value are zero (10 R209). -/
def initOk (s init : Bool) (c : Reg) (fc : Bool) : Bool := init || (!s && c == 0 && !fc)

/-- Bytes of an element of a matrix format (12 R220). -/
def fmtBytes (f : BitVec 3) : Nat := match f.toNat with | 0 => 8 | 1 => 4 | 2 => 2 | 3 => 2 | _ => 1

/-- Consecutive tiles of a dense weight (12 R234). -/
def fmtTiles (f : BitVec 3) : Nat := match f.toNat with | 0 => 4 | 1 => 2 | _ => 1

/-- The field rules, instruction by instruction; an instruction without one is always well formed. -/
def Instr.wf : Instr → Bool
  | .sllImm o => shiftImmOk o
  | .srlImm o => shiftImmOk o
  | .sraImm o => shiftImmOk o
  | .rorImm o => shiftImmOk o
  | .ext o => o.pos.toNat + o.lenm1.toNat + 1 ≤ 64
  | .extn o => o.pos.toNat + o.lenm1.toNat + 1 ≤ 64
  | .ins o => o.pos.toNat + o.lenm1.toNat + 1 ≤ 64
  | .ld o => !(o.z && o.sz == 3)
  | .ldDisp o _ => !(o.z && o.sz == 3)
  | .lds o => !(o.z && o.sz == 3)
  | .ldsDisp o _ => !(o.z && o.sz == 3)
  | .pref o => o.lvl == 1 || o.lvl == 2
  | .prefDisp o _ => o.lvl == 1 || o.lvl == 2
  | .loop o => o.off != 0 && ckOk o.ckv o.cki
  | .loopImm o => o.off != 0 && ckOk o.ckv o.cki
  | .lidx _ lv => lv.toNat < 6
  | .lbrk lv => lv.toNat < 6
  | .strip o => qmCount o.qm ≤ 4
  | .stripCk o _ => qmCount o.qm ≤ 4
  | .mfs _ n => sysAssigned n
  | .mts n _ => sysAssigned n && !sysOwnWrite n
  | .matrixRegWrite n _ => sysMatrix n
  | .tlbiAll lvl => 1 ≤ lvl.toNat && lvl.toNat ≤ 4
  | .tlbiVa _ lvl => 1 ≤ lvl.toNat && lvl.toNat ≤ 4
  | .turn o => regionOk o.a o.l && o.lvl.toNat ≤ 5
  | .turnPub o => regionOk o.a o.l && o.lvl.toNat ≤ 5
  | .snapOpen o => regionOk o.a o.l
  | .snapClose o => regionOk o.a o.l
  | .cacheWb o => regionOk o.a o.l && o.lvl.toNat ≤ 5
  | .cacheInv o => regionOk o.a o.l && o.lvl.toNat ≤ 5
  | .cacheWbinv o => regionOk o.a o.l && o.lvl.toNat ≤ 5
  | .cacheTinit o => regionOk o.a o.l
  | .bar lvl => lvl.toNat ≤ 4
  | .barArrive lvl => lvl.toNat ≤ 4
  | .barWait lvl => lvl.toNat ≤ 4
  | .waitj o => ckOk o.ckv o.cki
  | .launch o => ckOk o.ckv o.cki && (o.w || !o.ckv)
  | .yield ckv cki => ckOk ckv cki
  | .getid _ g => g.toNat ≤ 10
  | .vtag d cntm1 _ => d.toNat + cntm1.toNat + 1 ≤ 32
  | .vcvt o => o.mode != 6
  | .vunpk o => o.k.toNat ≤ 4
  | .vredSum o => initOk o.s o.init o.c o.fc
  | .vredMin o => initOk o.s o.init o.c o.fc
  | .vredMax o => initOk o.s o.init o.c o.fc
  | .vredAnd o => initOk o.s o.init o.c o.fc
  | .vredOr o => initOk o.s o.init o.c o.fc
  | .vredXor o => initOk o.s o.init o.c o.fc
  | .vscanSum o => initOk o.s o.init o.c o.fc
  | .vscanMin o => initOk o.s o.init o.c o.fc
  | .vscanMax o => initOk o.s o.init o.c o.fc
  | .vscanAnd o => initOk o.s o.init o.c o.fc
  | .vscanOr o => initOk o.s o.init o.c o.fc
  | .vscanXor o => initOk o.s o.init o.c o.fc
  | .strmVector o => o.out || !o.fc
  | .qcfg o => o.w != 7
  | .twld t wf => t.toNat + fmtTiles wf ≤ 8
  | .twldCb _ cbm => cbm != 3
  | .twldSp _ _ wf => wf != 0 && wf != 1
  | .mcast o => o.bank != 3
  | .sklook o => o.d != o.e || o.d == 0
  | .illegalOpcode .. => false
  | _ => true

/-- Events: the rows that have no encoding of their own. LQREG_WITHDRAW shares the words of LQREG_REGISTER, since only the written
value tells them apart (17 R284). An event that is not due changes nothing.
(DESIGN CHOICE, safe: notes/assumptions/11.) -/
def Instr.isEvent : Instr → Bool
  | .atomicHomeEvent .. | .lqregWithdraw .. | .pgrpWrite .. | .idleWake .. | .publishSwap .. | .catchupCopy .. | .wcbDrain ..
  | .wcbAgeTimeout .. | .outboundSliceWriteback .. | .homeWriteMerge .. | .adBitUpdate .. | .loadDataArrival ..
  | .remoteScratchpadArrival .. | .barPhaseComplete .. | .nextwRequest .. | .nextwReply .. | .yieldSave .. | .launchQueueRecord ..
  | .groupPlacement .. | .freshDispatch .. | .contextRestore .. | .pwaitExpiry .. | .preemptionRequest .. | .listedSave ..
  | .checkpointWatchdogExpiry .. | .forcedSave .. | .savedStatusDelivery .. | .doorbellArrival .. | .ueDataReport .. | .doorbell ..
  | .ueDataInterrupt .. | .userInterruptEntry .. | .vectorRecheck .. | .squashReplay .. | .transferCompletion .. | .codebookRowExpand ..
  | .codebookFill .. | .pushBufferPush .. | .foldContribution .. | .resultGroupMulticast .. | .resultGroupFill .. | .mcastTargetWrite ..
  | .escapeChannelTimeout .. | .flitReceive .. | .nakReceive .. | .replayTimeout .. | .laneTrainingFailure .. | .hostWrite ..
  | .hostRead .. | .skclrTicket .. | .reconciliation .. | .peerSnapshot .. | .reconApplyOp .. | .parityDeltaFold .. | .degradedRead ..
  | .degradedWrite .. | .stripeRebuild .. | .scrubRead .. | .reencodeRow .. | .neighbourRefresh .. | .pageMigration ..
  | .powerOnReset .. | .strandRelease .. | .accessTableWrite .. | .mailboxDoorbell .. | .spdmMessage .. | .readErrorLog ..
  | .readHaltedState .. | .resumeHaltedStrand .. | .setPowerCap .. | .readSensors .. | .raiseSecurityVersion .. | .thermalThrottle ..
  | .thermalShutdown .. | .illegalOpcode .. | .moduleNumberRedirect .. | .strandWithdrawal .. | .reencodeEnable .. | .policyWrite ..
  | .boundaryScan .. | .throttleRelease .. => true
  | _ => false

end Sys2Proof
end

