-- ==== Sys2Proof/Decode.lean ====
section
/-! DEFINITION. The decoder and the encoder (02 R35 to R39 and the encoding tables of each chapter). An instruction is a head and its
tail halfwords 0, 1, ... The decoder reads the fields and then refuses, by name, whatever the encoding does not admit: every bit that
the instruction's encoding does not use must be zero (02 R36), so the words must be the encoder's own. -/
namespace Sys2Proof

/-- Why words are no instruction; each raises ILLEGAL_OPCODE (02 R36). -/
inductive DecodeError where
  | majorUnassigned
  | badLength
  | badMinor
  | badField
  | reservedBits
  deriving DecidableEq, Repr

/-! ## Fields -/

/-- Head: MAJ [15:9], TL [8:6], D[5], D[4:0] (02 R35). -/
def mkHead (maj tl : Nat) (q : Bool) (d : Reg) : Half := BitVec.ofNat 7 maj ++ BitVec.ofNat 3 tl ++ bit1 q ++ d
/-- MAJ of a head. -/
def headMaj (h : Half) : Nat := (h.extractLsb' 9 7).toNat
/-- TL of a head. -/
def headTl (h : Half) : Nat := (h.extractLsb' 6 3).toNat
/-- D[5] of a head. -/
def headQ (h : Half) : Bool := h.getLsbD 5
/-- D[4:0] of a head. -/
def headD (h : Half) : Reg := h.extractLsb' 0 5

/-- The operand halfword O: Rb, Fb, Rc, Fc and the low four bits (02 R38). -/
def mkO (b : Reg) (fb : Bool) (c : Reg) (fc : Bool) (m : BitVec 4) : Half := b ++ bit1 fb ++ c ++ bit1 fc ++ m
/-- Rb. -/
def oB (o : Half) : Reg := o.extractLsb' 11 5
/-- Fb. -/
def oFb (o : Half) : Bool := o.getLsbD 10
/-- Rc. -/
def oC (o : Half) : Reg := o.extractLsb' 5 5
/-- Fc. -/
def oFc (o : Half) : Bool := o.getLsbD 4
/-- The low four bits: MIN or the modifier bits. -/
def oM (o : Half) : BitVec 4 := o.extractLsb' 0 4
/-- The low nine bits: CKI (07 R122). -/
def oI (o : Half) : BitVec 9 := o.extractLsb' 0 9
/-- Bits [9:7]: a level or a word number (14 R249, 10 R195). -/
def oLvl (o : Half) : BitVec 3 := o.extractLsb' 7 3
/-- Bits [10:8]: a matrix format (12 R234). -/
def oFmt (o : Half) : BitVec 3 := o.extractLsb' 8 3
/-- Bits [15:13]: a mask or stream register (09 R166, 10 R201). -/
def oTop3 (o : Half) : BitVec 3 := o.extractLsb' 13 3

/-- sB, Fb, CKV and CKI (07 R122, 17 R296). -/
def mkCk (b : Reg) (fb ckv : Bool) (cki : BitVec 9) : Half := b ++ bit1 fb ++ bit1 ckv ++ cki
/-- sL, Fl, LVL, zero and MIN (14 R249). -/
def mkLvl (l : Reg) (fl : Bool) (lvl : BitVec 3) (m : BitVec 4) : Half := l ++ bit1 fl ++ lvl ++ 0#3 ++ m
/-- The X halfword: KM, vA, Fa and XF (09 R166). -/
def mkX (km : BitVec 3) (a : Reg) (fa : Bool) (xf : BitVec 7) : Half := km ++ a ++ bit1 fa ++ xf
/-- vA of the X halfword. -/
def xA (x : Half) : Reg := x.extractLsb' 8 5
/-- Fa of the X halfword. -/
def xFa (x : Half) : Bool := x.getLsbD 7
/-- XF of the X halfword. -/
def xXf (x : Half) : BitVec 7 := x.extractLsb' 0 7
/-- Tail 1 of the vector memory forms: KM, ADV and SC (10 R196). -/
def mkV (km : BitVec 3) (adv : Bool) (sc : BitVec 2) : Half := km ++ bit1 adv ++ sc ++ 0#10
/-- ADV. -/
def vAdv (x : Half) : Bool := x.getLsbD 12
/-- SC. -/
def vSc (x : Half) : BitVec 2 := x.extractLsb' 10 2
/-- A three-bit register number in a five-bit field. -/
def r3 (x : BitVec 3) : Reg := 0#2 ++ x
/-- A one-bit register number in a five-bit field. -/
def r1 (x : BitVec 1) : Reg := 0#4 ++ x
/-- The low three bits of a register field. -/
def lo3 (x : Reg) : BitVec 3 := x.extractLsb' 0 3
/-- The low bit of a register field. -/
def lo1 (x : Reg) : BitVec 1 := x.extractLsb' 0 1

/-- The tail halfwords of an immediate (02 R39). -/
def immHalves : Imm → List Half
  | .short v => [v]
  | .long v => [v.extractLsb' 0 16, v.extractLsb' 16 16]
/-- Number of those halfwords. -/
def immLen : Imm → Nat
  | .short _ => 1
  | .long _ => 2
/-- An immediate read from one or two halfwords. -/
def parseImm : List Half → Option Imm
  | [a] => some (.short a)
  | [a, b] => some (.long (b ++ a))
  | _ => none
/-- The tail halfwords of an optional displacement. -/
def dispHalves : Option (BitVec 16) → List Half
  | none => []
  | some v => [v]
/-- Number of those halfwords. -/
def dispLen : Option (BitVec 16) → Nat
  | none => 0
  | some _ => 1
/-- An optional displacement. -/
def parseDisp : List Half → Option (Option (BitVec 16))
  | [] => some none
  | [a] => some (some a)
  | _ => none

/-! ## The encoder -/

def encAluR (maj : Nat) (m : BitVec 4) (o : AluR) : List Half := [mkHead maj 1 o.w o.d, mkO o.b o.fb o.c o.fc m]
def encAluI (m : BitVec 4) (o : AluI) : List Half := mkHead 0x02 (1 + immLen o.imm) o.w o.d :: mkO o.b o.fb 0 false m :: immHalves o.imm
def encBitU (m : BitVec 4) (o : BitU) : List Half := [mkHead 0x04 1 false o.d, mkO o.b o.fb (0#3 ++ o.wc) false m]
def encExt (m : BitVec 4) (o : ExtOps) : List Half := [mkHead 0x04 2 false o.d, mkO o.b o.fb 0 false m, 0#4 ++ o.lenm1 ++ o.pos]
def encMem (maj : Nat) (d b : Reg) (fb : Bool) (c : Reg) (fc : Bool) (m : BitVec 4) (disp : Option Imm) : List Half :=
  match disp with
  | none => [mkHead maj 1 false d, mkO b fb c fc m]
  | some i => mkHead maj (1 + immLen i) false d :: mkO b fb c fc m :: immHalves i
def encAmo (maj : Nat) (m : BitVec 4) (o : AmoOps) : List Half :=
  mkHead maj (2 + dispLen o.disp) false o.d :: mkO o.b o.fb o.c o.fc m :: (0#13 ++ bit1 o.acq ++ 1#1 ++ bit1 o.szd) :: dispHalves o.disp
def encBcc (m : BitVec 4) (o : BccOps) : List Half := mkHead 0x21 (1 + immLen o.off) o.w 0 :: mkO o.b o.fb o.c o.fc m :: immHalves o.off
def encTrap (m : BitVec 4) (o : TrapOps) : List Half := [mkHead 0x27 2 false 0, mkO o.b o.fb o.c o.fc m, o.code]
def encMts (num : BitVec 12) (o : SrcOps) : List Half := [mkHead 0x78 2 false 0, num ++ 1#4, o.b ++ bit1 o.fb ++ 0#10]
def encTurn (maj : Nat) (p : Bool) (m : BitVec 4) (o : TurnOps) : List Half := [mkHead maj 1 p o.a, mkLvl o.l o.fl o.lvl m]
def encRegion (maj : Nat) (m : BitVec 4) (o : RegionOps) : List Half := [mkHead maj 1 false o.a, mkLvl o.l o.fl 0 m]
def encBin (maj : Nat) (m : BitVec 4) (o : BinOps) : List Half := [mkHead maj 1 false o.d, mkO o.b o.fb o.c o.fc m]
def encUn (maj : Nat) (m : BitVec 4) (o : UnOps) : List Half := [mkHead maj 1 false o.d, mkO o.b o.fb 0 false m]
def encV3 (maj : Nat) (m : BitVec 4) (o : V3) : List Half := [mkHead maj 2 o.s o.d, mkO o.b o.fb o.c o.fc m, mkX o.km 0 false 0]
def encV2 (maj : Nat) (m : BitVec 4) (xf : BitVec 7) (o : V2) : List Half := [mkHead maj 2 false o.d, mkO o.b o.fb 0 false m, mkX o.km 0 false xf]
def encV4 (m : BitVec 4) (o : V4) : List Half := [mkHead 0x42 2 o.s o.d, mkO o.b o.fb o.c o.fc m, mkX o.km o.a o.fa 0]
def encVCmp (m : BitVec 4) (o : VCmpOps) : List Half := [mkHead 0x44 2 o.s (r3 o.d), mkO o.b o.fb o.c o.fc m, mkX o.km 0 false 0]
def encK3 (m : BitVec 4) (o : K3) : List Half := [mkHead 0x45 1 false (r3 o.d), mkO (r3 o.b) o.fb (r3 o.c) o.fc m]
def encK2 (m : BitVec 4) (o : K2) : List Half := [mkHead 0x45 1 false (r3 o.d), mkO (r3 o.b) o.fb 0 false m]
def encKS (m : BitVec 4) (o : KS) : List Half := [mkHead 0x45 1 false o.d, mkO (r3 o.b) o.fb 0 false m]
def encVV (maj : Nat) (s : Bool) (m : BitVec 4) (o : VV) : List Half := [mkHead maj 2 s o.d, mkO o.b o.fb o.c o.fc m, mkX o.km 0 false 0]
def encRed (m : BitVec 4) (o : RedOps) : List Half := [mkHead 0x4A 2 o.s o.d, mkO o.b o.fb o.c o.fc m, mkX o.km 0 false (0#6 ++ bit1 o.init)]
def encScan (m : BitVec 4) (o : ScanOps) : List Half :=
  [mkHead 0x4B 2 o.s o.d, mkO o.b o.fb o.c o.fc m, mkX o.km 0 false (0#5 ++ bit1 o.excl ++ bit1 o.init)]
def encVmem (maj : Nat) (q : Bool) (d b : Reg) (fb : Bool) (c : Reg) (fc : Bool) (m : BitVec 4) (km : BitVec 3) (sc : BitVec 2)
    (disp : Option (BitVec 16)) : List Half :=
  mkHead maj (2 + dispLen disp) q d :: mkO b fb c fc m :: mkV km false sc :: dispHalves disp
def encVmemq (q adv : Bool) (d : Reg) (qb : BitVec 3) (m : BitVec 4) (km : BitVec 3) : List Half :=
  [mkHead 0x51 2 q d, mkO (r3 qb) false 0 false m, mkV km adv 0]
def encStrm (m : BitVec 4) (o : StrmOps) : List Half :=
  [mkHead 0x54 1 o.ui o.d, o.q ++ o.esz ++ bit1 o.out ++ o.c ++ bit1 o.fc ++ m]
def encCopy (m : BitVec 4) (o : CopyOps) : List Half :=
  [mkHead 0x55 2 o.ui o.d, mkO o.b o.fb o.c o.fc m, o.n ++ bit1 o.fn ++ 0#10]
def mkTile (b : Reg) (fb : Bool) (sw : BitVec 2) (mem adv : Bool) (m : BitVec 4) : Half :=
  b ++ bit1 fb ++ sw ++ bit1 mem ++ bit1 adv ++ 0#2 ++ m
def mkWl (t : Reg) (f : BitVec 3) (z : Bool) (c : BitVec 2) (m : BitVec 4) : Half := t ++ f ++ bit1 z ++ 0#1 ++ c ++ m
def encTcbk (m : BitVec 4) (o : TcbkOps) (disp : Option (BitVec 16)) : List Half :=
  mkHead 0x64 (1 + dispLen disp) false (r1 o.cb) :: mkO o.b o.fb 0 false m :: dispHalves disp
def encRecon (m : BitVec 4) (o : BinOps) : List Half := [mkHead 0x72 2 false o.d, mkO o.b o.fb o.c o.fc m, 0]

/-- The words of an instruction, head first, then tail halfwords 0, 1, ...; none for an event. -/
def encode : Instr → Option (List Half)
  | .nop => some [0]
  | .add o => some (encAluR 0x01 0 o)
  | .sub o => some (encAluR 0x01 1 o)
  | .and o => some (encAluR 0x01 2 o)
  | .or o => some (encAluR 0x01 3 o)
  | .xor o => some (encAluR 0x01 4 o)
  | .andn o => some (encAluR 0x01 5 o)
  | .sll o => some (encAluR 0x01 6 o)
  | .srl o => some (encAluR 0x01 7 o)
  | .sra o => some (encAluR 0x01 8 o)
  | .ror o => some (encAluR 0x01 9 o)
  | .slt o => some (encAluR 0x01 10 o)
  | .sltu o => some (encAluR 0x01 11 o)
  | .min o => some (encAluR 0x01 12 o)
  | .max o => some (encAluR 0x01 13 o)
  | .minu o => some (encAluR 0x01 14 o)
  | .maxu o => some (encAluR 0x01 15 o)
  | .addImm o => some (encAluI 0 o)
  | .rsbImm o => some (encAluI 1 o)
  | .andImm o => some (encAluI 2 o)
  | .orImm o => some (encAluI 3 o)
  | .xorImm o => some (encAluI 4 o)
  | .andnImm o => some (encAluI 5 o)
  | .sllImm o => some (encAluI 6 o)
  | .srlImm o => some (encAluI 7 o)
  | .sraImm o => some (encAluI 8 o)
  | .rorImm o => some (encAluI 9 o)
  | .sltImm o => some (encAluI 10 o)
  | .sltuImm o => some (encAluI 11 o)
  | .minImm o => some (encAluI 12 o)
  | .maxImm o => some (encAluI 13 o)
  | .minuImm o => some (encAluI 14 o)
  | .maxuImm o => some (encAluI 15 o)
  | .mul o => some (encAluR 0x03 0 o)
  | .mulh o => some (encAluR 0x03 1 o)
  | .mulhu o => some (encAluR 0x03 2 o)
  | .mulhsu o => some (encAluR 0x03 3 o)
  | .div o => some (encAluR 0x03 4 o)
  | .divu o => some (encAluR 0x03 5 o)
  | .rem o => some (encAluR 0x03 6 o)
  | .remu o => some (encAluR 0x03 7 o)
  | .clz o => some (encBitU 0 o)
  | .ctz o => some (encBitU 1 o)
  | .popc o => some (encBitU 2 o)
  | .brev o => some (encBitU 3 o)
  | .bswap o => some (encBitU 4 o)
  | .sel o => some [mkHead 0x04 2 false o.d, mkO o.b o.fb o.c o.fc 5, o.a ++ bit1 o.fa ++ 0#10]
  | .ext o => some (encExt 6 o)
  | .extn o => some (encExt 7 o)
  | .ins o => some (encExt 8 o)
  | .li16 z d i => some [mkHead 0x05 1 z d, i]
  | .li32 z d i => some [mkHead 0x05 2 z d, i.extractLsb' 0 16, i.extractLsb' 16 16]
  | .li64 d i => some [mkHead 0x05 4 false d, i.extractLsb' 0 16, i.extractLsb' 16 16, i.extractLsb' 32 16, i.extractLsb' 48 16]
  | .lea o => some (encMem 0x07 o.d o.b o.fb o.c o.fc (0#2 ++ o.sc) none)
  | .leaDisp o i => some (encMem 0x07 o.d o.b o.fb o.c o.fc (0#2 ++ o.sc) (some i))
  | .addpc d i => some (encMem 0x07 d 0 false 0 false 4 (some i))
  | .ld o => some (encMem 0x10 o.d o.b o.fb 0 false (bit1 o.acq ++ bit1 o.z ++ o.sz) none)
  | .ldDisp o i => some (encMem 0x10 o.d o.b o.fb 0 false (bit1 o.acq ++ bit1 o.z ++ o.sz) (some i))
  | .st o => some (encMem 0x11 0 o.b o.fb o.c o.fc (0#2 ++ o.sz) none)
  | .stDisp o i => some (encMem 0x11 0 o.b o.fb o.c o.fc (0#2 ++ o.sz) (some i))
  | .lds o => some (encMem 0x12 o.d o.b o.fb 0 false (0#1 ++ bit1 o.z ++ o.sz) none)
  | .ldsDisp o i => some (encMem 0x12 o.d o.b o.fb 0 false (0#1 ++ bit1 o.z ++ o.sz) (some i))
  | .sts o => some (encMem 0x13 0 o.b o.fb o.c o.fc (0#2 ++ o.sz) none)
  | .stsDisp o i => some (encMem 0x13 0 o.b o.fb o.c o.fc (0#2 ++ o.sz) (some i))
  | .pref o => some (encMem 0x14 0 o.b o.fb 0 false (0#1 ++ o.lvl) none)
  | .prefDisp o i => some (encMem 0x14 0 o.b o.fb 0 false (0#1 ++ o.lvl) (some i))
  | .amoSwap o => some (encAmo 0x18 0 o)
  | .amoAdd o => some (encAmo 0x18 1 o)
  | .amoAnd o => some (encAmo 0x18 2 o)
  | .amoOr o => some (encAmo 0x18 3 o)
  | .amoXor o => some (encAmo 0x18 4 o)
  | .amoMin o => some (encAmo 0x18 5 o)
  | .amoMax o => some (encAmo 0x18 6 o)
  | .amoMinu o => some (encAmo 0x18 7 o)
  | .amoMaxu o => some (encAmo 0x18 8 o)
  | .cas o => some (encAmo 0x19 0 o)
  | .append o => some (encAmo 0x1A 0 o)
  | .br off => some [mkHead 0x20 1 false 0, off]
  | .brLong off => some [mkHead 0x20 2 false 0, off.extractLsb' 0 16, off.extractLsb' 16 16]
  | .beq o => some (encBcc 0 o)
  | .bne o => some (encBcc 1 o)
  | .blt o => some (encBcc 2 o)
  | .bge o => some (encBcc 3 o)
  | .bltu o => some (encBcc 4 o)
  | .bgeu o => some (encBcc 5 o)
  | .call d off => some [mkHead 0x22 1 false d, off]
  | .callLong d off => some [mkHead 0x22 2 false d, off.extractLsb' 0 16, off.extractLsb' 16 16]
  | .jmpr o => some (encUn 0x23 0 o)
  | .ret o => some (encUn 0x23 1 ⟨0, o.b, o.fb⟩)
  | .loop o => some [mkHead 0x24 2 false 0, mkCk o.b o.fb o.ckv o.cki, o.off]
  | .loopImm o => some [mkHead 0x24 3 true 0, mkCk 0 false o.ckv o.cki, o.off, o.count]
  | .lidx d lv => some [mkHead 0x25 1 false d, 0#8 ++ lv ++ 0#1 ++ 0#4]
  | .lbrk lv => some [mkHead 0x25 1 false 0, 0#8 ++ lv ++ 0#1 ++ 1#4]
  | .strip o => some [mkHead 0x26 2 false o.n, o.qm ++ 0#8, o.off]
  | .stripCk o cki => some [mkHead 0x26 3 false o.n, o.qm ++ 0#8, o.off, 0#7 ++ cki]
  | .trapEq o => some (encTrap 0 o)
  | .trapNe o => some (encTrap 1 o)
  | .trapLt o => some (encTrap 2 o)
  | .trapGe o => some (encTrap 3 o)
  | .trapLtu o => some (encTrap 4 o)
  | .trapGeu o => some (encTrap 5 o)
  | .ecall code => some (encTrap 8 ⟨0, false, 0, false, code⟩)
  | .brk code => some (encTrap 9 ⟨0, false, 0, false, code⟩)
  | .eret => some [mkHead 0x28 1 false 0, 0]
  | .eretN => some [mkHead 0x28 1 false 0, 1]
  | .uiret => some [mkHead 0x28 1 false 0, 2]
  | .mfs d num => some [mkHead 0x78 1 false d, num ++ 0#4]
  | .mts num o => some (encMts num o)
  | .vpartWrite o => some (encMts 0x00B o)
  | .matrixRegWrite num o => some (encMts num o)
  | .dbellWrite o => some (encMts 0x122 o)
  | .lseedWrite o => some (encMts 0x004 o)
  | .lqregRegister o => some (encMts 0x120 o)
  | .tlbiAll lvl => some [mkHead 0x79 1 false 0, mkLvl 0 false lvl 0]
  | .tlbiVa o lvl => some [mkHead 0x79 1 false 0, mkLvl o.b o.fb lvl 1]
  | .idle => some [mkHead 0x7A 1 false 0, 0]
  | .halt => some [mkHead 0x7A 1 false 0, 1]
  | .turn o => some (encTurn 0x30 false 0 o)
  | .turnPub o => some (encTurn 0x30 true 0 o)
  | .fenceO => some [mkHead 0x31 1 false 0, 0]
  | .fenceIo => some [mkHead 0x31 1 false 0, 1]
  | .fenceSurv => some [mkHead 0x31 1 false 0, 2]
  | .snapOpen o => some (encRegion 0x32 0 o)
  | .snapClose o => some (encRegion 0x32 1 o)
  | .cacheWb o => some (encTurn 0x7C false 0 o)
  | .cacheInv o => some (encTurn 0x7C false 1 o)
  | .cacheWbinv o => some (encTurn 0x7C false 2 o)
  | .cacheTinit o => some (encRegion 0x7C 3 o)
  | .waits o => some [mkHead 0x33 1 false o.d, mkO o.p o.fp o.v o.fv (0#3 ++ bit1 o.szd)]
  | .bar lvl => some [mkHead 0x34 1 false 0, mkLvl 0 false lvl 0]
  | .barArrive lvl => some [mkHead 0x34 1 false 0, mkLvl 0 false lvl 1]
  | .barWait lvl => some [mkHead 0x34 1 false 0, mkLvl 0 false lvl 2]
  | .spawn o => some [mkHead 0x38 2 false o.d, mkO o.code o.fcode o.frame o.fframe (0#2 ++ o.pri), o.join ++ bit1 o.fjoin ++ 0#10]
  | .done => some [mkHead 0x39 0 false 0]
  | .doneCtr o => some [mkHead 0x39 1 false 0, mkO o.b o.fb 0 false 0]
  | .waitj o => some [mkHead 0x3A 1 false 0, mkCk o.b o.fb o.ckv o.cki]
  | .launch o => some [mkHead 0x3B 1 o.w o.d, mkCk o.b o.fb o.ckv o.cki]
  | .nextw o => some (encBin 0x3C 0 o)
  | .getid d sel => some [mkHead 0x3D 1 false d, 0#12 ++ sel]
  | .yield ckv cki => some [mkHead 0x3E 1 false 0, mkCk 0 false ckv cki]
  | .vsetvl o => some (encUn 0x40 0 o)
  | .vtag d cntm1 tag => some [mkHead 0x40 1 false d, cntm1 ++ tag ++ 0#3 ++ 1#4]
  | .vcfg o => some (encUn 0x40 2 ⟨0, o.b, o.fb⟩)
  | .vadd o => some (encV3 0x41 0 o)
  | .vsub o => some (encV3 0x41 1 o)
  | .vmul o => some (encV3 0x41 2 o)
  | .vdiv o => some (encV3 0x41 3 o)
  | .vmin o => some (encV3 0x41 4 o)
  | .vmax o => some (encV3 0x41 5 o)
  | .vsgnj o => some (encV3 0x41 9 o)
  | .vsqrt o => some (encV2 0x41 6 0 o)
  | .vabs o => some (encV2 0x41 7 0 o)
  | .vneg o => some (encV2 0x41 8 0 o)
  | .vfma o => some (encV4 0 o)
  | .vfms o => some (encV4 1 o)
  | .vfnma o => some (encV4 2 o)
  | .vfnms o => some (encV4 3 o)
  | .vaddI o => some (encV3 0x43 0 o)
  | .vsubI o => some (encV3 0x43 1 o)
  | .vmulI o => some (encV3 0x43 2 o)
  | .vmulh o => some (encV3 0x43 3 o)
  | .vand o => some (encV3 0x43 4 o)
  | .vor o => some (encV3 0x43 5 o)
  | .vxor o => some (encV3 0x43 6 o)
  | .vsll o => some (encV3 0x43 7 o)
  | .vsrl o => some (encV3 0x43 8 o)
  | .vsra o => some (encV3 0x43 9 o)
  | .vminI o => some (encV3 0x43 10 o)
  | .vmaxI o => some (encV3 0x43 11 o)
  | .vadds o => some (encV3 0x43 12 o)
  | .vsubs o => some (encV3 0x43 13 o)
  | .vclz o => some (encV2 0x43 14 0 o)
  | .vctz o => some (encV2 0x43 14 1 o)
  | .vpopc o => some (encV2 0x43 14 2 o)
  | .vffs o => some (encV2 0x43 14 3 o)
  | .vbrev o => some (encV2 0x43 14 4 o)
  | .vcmpEq o => some (encVCmp 0 o)
  | .vcmpNe o => some (encVCmp 1 o)
  | .vcmpLt o => some (encVCmp 2 o)
  | .vcmpLe o => some (encVCmp 3 o)
  | .vcmpGt o => some (encVCmp 4 o)
  | .vcmpGe o => some (encVCmp 5 o)
  | .vcmpUn o => some (encVCmp 6 o)
  | .kand o => some (encK3 0 o)
  | .kor o => some (encK3 1 o)
  | .kxor o => some (encK3 2 o)
  | .kandn o => some (encK3 3 o)
  | .knot o => some (encK2 4 o)
  | .kmov o => some (encK2 5 o)
  | .kset d => some (encK2 6 ⟨d, 0, false⟩)
  | .kclr d => some (encK2 7 ⟨d, 0, false⟩)
  | .kpopc o => some (encKS 8 o)
  | .kfirst o => some (encKS 9 o)
  | .vcvt o => some (encV2 0x46 (0#1 ++ o.mode) 0 ⟨o.d, o.b, o.fb, o.km⟩)
  | .vscale o => some (encV3 0x47 0 o)
  | .vqnt o => some (encV2 0x47 1 0 o)
  | .vlut o => some (encVV 0x48 false 0 o)
  | .vunpk o => some (encV2 0x48 1 (0#3 ++ bit1 o.sx ++ o.k) ⟨o.d, o.b, o.fb, o.km⟩)
  | .vsel o => some (encVV 0x49 false 0 o)
  | .vmov o => some (encV2 0x49 1 0 o)
  | .vbcast o => some (encV2 0x49 2 0 o)
  | .vextr o => some (encVV 0x49 false 3 ⟨o.d, o.b, o.fb, o.c, o.fc, 0⟩)
  | .vredSum o => some (encRed 0 o)
  | .vredMin o => some (encRed 1 o)
  | .vredMax o => some (encRed 2 o)
  | .vredAnd o => some (encRed 3 o)
  | .vredOr o => some (encRed 4 o)
  | .vredXor o => some (encRed 5 o)
  | .vscanSum o => some (encScan 0 o)
  | .vscanMin o => some (encScan 1 o)
  | .vscanMax o => some (encScan 2 o)
  | .vscanAnd o => some (encScan 3 o)
  | .vscanOr o => some (encScan 4 o)
  | .vscanXor o => some (encScan 5 o)
  | .vperm o => some (encVV 0x4C false 0 o)
  | .vslideup o => some (encVV 0x4C true 1 o)
  | .vslidedn o => some (encVV 0x4C true 2 o)
  | .vrev o => some (encV2 0x4C 3 0 o)
  | .vcompress o => some (encV2 0x4C 4 0 o)
  | .vexpand o => some (encV2 0x4C 5 0 o)
  | .qcfg o => some [mkHead 0x50 1 false (r3 o.q), mkLvl o.b o.fb o.w 0]
  | .qrd d q wd => some [mkHead 0x50 1 false d, mkLvl (r3 q) false wd 1]
  | .qrst q => some [mkHead 0x50 1 false (r3 q), mkLvl 0 false 0 2]
  | .vld o => some (encVmem 0x51 o.acq o.d o.b o.fb 0 false 0 o.km 0 o.disp)
  | .vldStream o => some (encVmemq o.acq o.adv o.d o.q 1 o.km)
  | .vst o => some (encVmem 0x51 o.fd o.e o.b o.fb 0 false 2 o.km 0 o.disp)
  | .vstStream o => some (encVmemq o.fd o.adv o.e o.q 3 o.km)
  | .vgath o => some (encVmem 0x52 o.acq o.d o.b o.fb o.c o.fc 0 o.km o.sc o.disp)
  | .vscat o => some (encVmem 0x52 o.fd o.e o.b o.fb o.c o.fc 1 o.km o.sc o.disp)
  | .vlds o => some (encVmem 0x53 false o.d o.b o.fb 0 false 0 o.km 0 o.disp)
  | .vsts o => some (encVmem 0x53 o.fd o.e o.b o.fb 0 false 1 o.km 0 o.disp)
  | .vldsx o => some (encVmem 0x53 false o.d o.b o.fb o.c o.fc 2 o.km o.sc o.disp)
  | .vstsx o => some (encVmem 0x53 o.fd o.e o.b o.fb o.c o.fc 3 o.km o.sc o.disp)
  | .strmVector o => some (encStrm 0 o)
  | .strmScratchpad o => some (encStrm 1 o)
  | .strmFabric o => some (encStrm 2 o)
  | .strmc n => some (encStrm 3 ⟨false, 0, 0, 0, false, n, false⟩)
  | .strmq d n => some (encStrm 4 ⟨false, d, 0, 0, false, n, false⟩)
  | .copyIn o => some (encCopy 0 o)
  | .copyOut o => some (encCopy 1 o)
  | .tshape t o => some [mkHead 0x60 1 false (r3 t), mkO o.b o.fb 0 false 0]
  | .tld o => some [mkHead 0x61 1 false (r3 o.t), mkTile o.b o.fb o.sw false false 0]
  | .tldDisp o => some [mkHead 0x61 2 false (r3 o.t), mkTile o.b o.fb o.sw false false 0, o.disp]
  | .tldMem o => some [mkHead 0x61 1 false (r3 o.t), mkTile (r3 o.q) false 0 true o.adv 0]
  | .tst o => some [mkHead 0x61 1 false (r3 o.t), mkTile o.b o.fb o.sw false false 1]
  | .tstDisp o => some [mkHead 0x61 2 false (r3 o.t), mkTile o.b o.fb o.sw false false 1, o.disp]
  | .tstMem o => some [mkHead 0x61 1 false (r3 o.t), mkTile (r3 o.q) false 0 true o.adv 1]
  | .tzero t => some [mkHead 0x62 1 false (r3 t), mkO 0 false 0 false 0]
  | .tzeroAcc a => some [mkHead 0x62 1 false (r1 a), mkO 0 false 0 false 1]
  | .tmov t b => some [mkHead 0x62 1 false (r3 t), mkO (r3 b) false 0 false 2]
  | .twld t wf => some [mkHead 0x63 1 false (r3 t), mkWl 0 wf false 0 0]
  | .twldCb t cbm => some [mkHead 0x63 1 false (r3 t), mkWl 0 2 false cbm 1]
  | .twldSp t tm wf => some [mkHead 0x63 1 false (r3 t), mkWl (r3 tm) wf false 0 2]
  | .tcbk o => some (encTcbk 1 o none)
  | .tcbkDisp o disp => some (encTcbk 1 o (some disp))
  | .tcbkS o => some (encTcbk 0 o none)
  | .tcbkSDisp o disp => some (encTcbk 0 o (some disp))
  | .tmma o => some [mkHead 0x65 1 false (r1 o.a), mkWl (r3 o.t) o.af o.z 0 0]
  | .tmmaSp o => some [mkHead 0x65 1 false (r1 o.a), mkWl (r3 o.t) o.af o.z 0 1]
  | .tdrain o => some [mkHead 0x66 1 false o.d, mkO (r1 o.a) false o.c o.fc 0]
  | .tdrainN d a => some [mkHead 0x66 1 false d, mkO (r1 a) false 0 false 1]
  | .taccSet o => some [mkHead 0x66 1 o.fd o.d, mkO (r1 o.a) false o.c o.fc 2]
  | .taccAdd o => some [mkHead 0x66 1 o.fd o.d, mkO (r1 o.a) false o.c o.fc 3]
  | .tstat d t => some [mkHead 0x67 1 false d, mkO (r3 t) false 0 false 0]
  | .tstatIdle d => some [mkHead 0x67 1 false d, mkO 0 false 0 false 1]
  | .bind o => some [mkHead 0x6C 2 false o.r, mkO o.b o.fb o.c o.fc 0, mkO o.e false 0 false 0]
  | .unbind d r => some [mkHead 0x6C 1 false d, mkO r false 0 false 1]
  | .mcast o => some [mkHead 0x6D 2 o.ui o.d, mkO o.b o.fb o.c o.fc 0, mkO o.n o.fn o.m o.fm (o.bank ++ 0#2)]
  | .skins o => some [mkHead 0x70 2 false o.d, mkO o.b o.fb o.c o.fc 0, mkO o.v o.fv 0 false 0]
  | .skdel o => some (encBin 0x70 1 o)
  | .skclr o => some (encBin 0x70 2 o)
  | .sklook o => some [mkHead 0x71 2 false o.d, mkO o.b o.fb o.c o.fc 0, mkO o.e false 0 false 0]
  | .reconPull o => some (encRecon 0 o)
  | .reconPush o => some (encRecon 1 o)
  | .reconMerge o => some (encRecon 2 o)
  | .reconSave o => some (encRecon 3 o)
  | .reconDiff o => some [mkHead 0x72 2 false o.d, mkO o.b o.fb o.c o.fc 4, mkO o.n o.fn o.m o.fm 0]
  | .reconq o => some (encUn 0x72 8 o)
  | .survq o => some (encUn 0x74 0 o)
  | .survqGrp o => some (encUn 0x74 1 o)
  | .survqSeal o => some (encUn 0x74 2 o)
  | _ => none

/-! ## Reading the fields, family by family -/

abbrev Parsed := Except DecodeError Instr

/-- 06 R101, register forms. -/
def pickAluR (m : BitVec 4) (o : AluR) : Parsed :=
  match m.toNat with
  | 0 => .ok (.add o)
  | 1 => .ok (.sub o)
  | 2 => .ok (.and o)
  | 3 => .ok (.or o)
  | 4 => .ok (.xor o)
  | 5 => .ok (.andn o)
  | 6 => .ok (.sll o)
  | 7 => .ok (.srl o)
  | 8 => .ok (.sra o)
  | 9 => .ok (.ror o)
  | 10 => .ok (.slt o)
  | 11 => .ok (.sltu o)
  | 12 => .ok (.min o)
  | 13 => .ok (.max o)
  | 14 => .ok (.minu o)
  | _ => .ok (.maxu o)

/-- 06 R101, immediate forms. -/
def pickAluI (m : BitVec 4) (o : AluI) : Parsed :=
  match m.toNat with
  | 0 => .ok (.addImm o)
  | 1 => .ok (.rsbImm o)
  | 2 => .ok (.andImm o)
  | 3 => .ok (.orImm o)
  | 4 => .ok (.xorImm o)
  | 5 => .ok (.andnImm o)
  | 6 => .ok (.sllImm o)
  | 7 => .ok (.srlImm o)
  | 8 => .ok (.sraImm o)
  | 9 => .ok (.rorImm o)
  | 10 => .ok (.sltImm o)
  | 11 => .ok (.sltuImm o)
  | 12 => .ok (.minImm o)
  | 13 => .ok (.maxImm o)
  | 14 => .ok (.minuImm o)
  | _ => .ok (.maxuImm o)

/-- 06 R102. -/
def pickMul (m : BitVec 4) (o : AluR) : Parsed :=
  match m.toNat with
  | 0 => .ok (.mul o)
  | 1 => .ok (.mulh o)
  | 2 => .ok (.mulhu o)
  | 3 => .ok (.mulhsu o)
  | 4 => .ok (.div o)
  | 5 => .ok (.divu o)
  | 6 => .ok (.rem o)
  | 7 => .ok (.remu o)
  | _ => .error .badMinor

/-- 06 R104, one halfword of tail. -/
def pickBitU (m : BitVec 4) (o : BitU) : Parsed :=
  match m.toNat with
  | 0 => .ok (.clz o)
  | 1 => .ok (.ctz o)
  | 2 => .ok (.popc o)
  | 3 => .ok (.brev o)
  | 4 => .ok (.bswap o)
  | _ => .error .badMinor

/-- 06 R104, bit fields. -/
def pickExt (m : BitVec 4) (o : ExtOps) : Parsed :=
  match m.toNat with
  | 6 => .ok (.ext o)
  | 7 => .ok (.extn o)
  | 8 => .ok (.ins o)
  | _ => .error .badMinor

/-- 15 R268. -/
def pickAmo (m : BitVec 4) (o : AmoOps) : Parsed :=
  match m.toNat with
  | 0 => .ok (.amoSwap o)
  | 1 => .ok (.amoAdd o)
  | 2 => .ok (.amoAnd o)
  | 3 => .ok (.amoOr o)
  | 4 => .ok (.amoXor o)
  | 5 => .ok (.amoMin o)
  | 6 => .ok (.amoMax o)
  | 7 => .ok (.amoMinu o)
  | 8 => .ok (.amoMaxu o)
  | _ => .error .badMinor

/-- 07 R120. -/
def pickBcc (m : BitVec 4) (o : BccOps) : Parsed :=
  match m.toNat with
  | 0 => .ok (.beq o)
  | 1 => .ok (.bne o)
  | 2 => .ok (.blt o)
  | 3 => .ok (.bge o)
  | 4 => .ok (.bltu o)
  | 5 => .ok (.bgeu o)
  | _ => .error .badMinor

/-- 07 R128. -/
def pickTrap (m : BitVec 4) (o : TrapOps) : Parsed :=
  match m.toNat with
  | 0 => .ok (.trapEq o)
  | 1 => .ok (.trapNe o)
  | 2 => .ok (.trapLt o)
  | 3 => .ok (.trapGe o)
  | 4 => .ok (.trapLtu o)
  | 5 => .ok (.trapGeu o)
  | _ => .error .badMinor

/-- 09 R171. -/
def pickVfm (m : BitVec 4) (o : V4) : Parsed :=
  match m.toNat with
  | 0 => .ok (.vfma o)
  | 1 => .ok (.vfms o)
  | 2 => .ok (.vfnma o)
  | 3 => .ok (.vfnms o)
  | _ => .error .badMinor

/-- 09 R172. -/
noncomputable def pickVi (m : BitVec 4) (o : V3) : Parsed :=
  match m.toNat with
  | 0 => .ok (.vaddI o)
  | 1 => .ok (.vsubI o)
  | 2 => .ok (.vmulI o)
  | 3 => .ok (.vmulh o)
  | 4 => .ok (.vand o)
  | 5 => .ok (.vor o)
  | 6 => .ok (.vxor o)
  | 7 => .ok (.vsll o)
  | 8 => .ok (.vsrl o)
  | 9 => .ok (.vsra o)
  | 10 => .ok (.vminI o)
  | 11 => .ok (.vmaxI o)
  | 12 => .ok (.vadds o)
  | 13 => .ok (.vsubs o)
  | _ => .error .badMinor

/-- 09 R174. -/
noncomputable def pickVcmp (m : BitVec 4) (o : VCmpOps) : Parsed :=
  match m.toNat with
  | 0 => .ok (.vcmpEq o)
  | 1 => .ok (.vcmpNe o)
  | 2 => .ok (.vcmpLt o)
  | 3 => .ok (.vcmpLe o)
  | 4 => .ok (.vcmpGt o)
  | 5 => .ok (.vcmpGe o)
  | 6 => .ok (.vcmpUn o)
  | _ => .error .badMinor

/-- 10 R209. -/
noncomputable def pickRed (m : BitVec 4) (o : RedOps) : Parsed :=
  match m.toNat with
  | 0 => .ok (.vredSum o)
  | 1 => .ok (.vredMin o)
  | 2 => .ok (.vredMax o)
  | 3 => .ok (.vredAnd o)
  | 4 => .ok (.vredOr o)
  | 5 => .ok (.vredXor o)
  | _ => .error .badMinor

/-- 10 R210. -/
noncomputable def pickScan (m : BitVec 4) (o : ScanOps) : Parsed :=
  match m.toNat with
  | 0 => .ok (.vscanSum o)
  | 1 => .ok (.vscanMin o)
  | 2 => .ok (.vscanMax o)
  | 3 => .ok (.vscanAnd o)
  | 4 => .ok (.vscanOr o)
  | 5 => .ok (.vscanXor o)
  | _ => .error .badMinor

/-- 09 R170, two sources. -/
def pickVf3 (m : BitVec 4) (o : V3) : Parsed :=
  match m.toNat with
  | 0 => .ok (.vadd o)
  | 1 => .ok (.vsub o)
  | 2 => .ok (.vmul o)
  | 3 => .ok (.vdiv o)
  | 4 => .ok (.vmin o)
  | 5 => .ok (.vmax o)
  | 9 => .ok (.vsgnj o)
  | _ => .error .badMinor

/-- 09 R170. -/
def parseVf (q : Bool) (d : Reg) (o x : Half) : Parsed :=
  let v2 : V2 := ⟨d, oB o, oFb o, oTop3 x⟩
  match (oM o).toNat with
  | 6 => .ok (.vsqrt v2)
  | 7 => .ok (.vabs v2)
  | 8 => .ok (.vneg v2)
  | _ => pickVf3 (oM o) ⟨q, d, oB o, oFb o, oC o, oFc o, oTop3 x⟩

/-- 09 R172, R173. -/
noncomputable def parseVi (q : Bool) (d : Reg) (o x : Half) : Parsed :=
  let v2 : V2 := ⟨d, oB o, oFb o, oTop3 x⟩
  if (oM o).toNat = 14 then
    match (xXf x).toNat with
    | 0 => .ok (.vclz v2)
    | 1 => .ok (.vctz v2)
    | 2 => .ok (.vpopc v2)
    | 3 => .ok (.vffs v2)
    | 4 => .ok (.vbrev v2)
    | _ => .error .badMinor
  else pickVi (oM o) ⟨q, d, oB o, oFb o, oC o, oFc o, oTop3 x⟩

/-- 09 R175. -/
noncomputable def parseK (d : Reg) (o : Half) : Parsed :=
  let k3 : K3 := ⟨lo3 d, lo3 (oB o), oFb o, lo3 (oC o), oFc o⟩
  let k2 : K2 := ⟨lo3 d, lo3 (oB o), oFb o⟩
  match (oM o).toNat with
  | 0 => .ok (.kand k3)
  | 1 => .ok (.kor k3)
  | 2 => .ok (.kxor k3)
  | 3 => .ok (.kandn k3)
  | 4 => .ok (.knot k2)
  | 5 => .ok (.kmov k2)
  | 6 => .ok (.kset (lo3 d))
  | 7 => .ok (.kclr (lo3 d))
  | 8 => .ok (.kpopc ⟨d, lo3 (oB o), oFb o⟩)
  | 9 => .ok (.kfirst ⟨d, lo3 (oB o), oFb o⟩)
  | _ => .error .badMinor

/-- 09 R176 to R181 and 10 R212: majors 0x46 to 0x49 and 0x4C. -/
noncomputable def parseVx (maj : Nat) (q : Bool) (d : Reg) (o x : Half) : Parsed :=
  let v2 : V2 := ⟨d, oB o, oFb o, oTop3 x⟩
  let vv : VV := ⟨d, oB o, oFb o, oC o, oFc o, oTop3 x⟩
  match maj, (oM o).toNat with
  | 0x46, m => if m < 8 then .ok (.vcvt ⟨d, oB o, oFb o, BitVec.ofNat 3 m, oTop3 x⟩) else .error .badMinor
  | 0x47, 0 => .ok (.vscale ⟨q, d, oB o, oFb o, oC o, oFc o, oTop3 x⟩)
  | 0x47, 1 => .ok (.vqnt v2)
  | 0x48, 0 => .ok (.vlut vv)
  | 0x48, 1 => .ok (.vunpk ⟨d, oB o, oFb o, (xXf x).extractLsb' 0 3, (xXf x).getLsbD 3, oTop3 x⟩)
  | 0x49, 0 => .ok (.vsel vv)
  | 0x49, 1 => .ok (.vmov v2)
  | 0x49, 2 => .ok (.vbcast v2)
  | 0x49, 3 => .ok (.vextr ⟨d, oB o, oFb o, oC o, oFc o⟩)
  | 0x4C, 0 => .ok (.vperm vv)
  | 0x4C, 1 => .ok (.vslideup vv)
  | 0x4C, 2 => .ok (.vslidedn vv)
  | 0x4C, 3 => .ok (.vrev v2)
  | 0x4C, 4 => .ok (.vcompress v2)
  | 0x4C, 5 => .ok (.vexpand v2)
  | _, _ => .error .badMinor

/-- 09 R166: the majors of the common vector encoding. -/
noncomputable def parseVec (maj : Nat) (q : Bool) (d : Reg) (o x : Half) : Parsed :=
  match maj with
  | 0x41 => parseVf q d o x
  | 0x42 => pickVfm (oM o) ⟨q, d, oB o, oFb o, oC o, oFc o, xA x, xFa x, oTop3 x⟩
  | 0x43 => parseVi q d o x
  | 0x44 => pickVcmp (oM o) ⟨q, lo3 d, oB o, oFb o, oC o, oFc o, oTop3 x⟩
  | 0x4A => pickRed (oM o) ⟨q, d, oB o, oFb o, oC o, oFc o, (xXf x).getLsbD 0, oTop3 x⟩
  | 0x4B => pickScan (oM o) ⟨q, d, oB o, oFb o, oC o, oFc o, (xXf x).getLsbD 0, (xXf x).getLsbD 1, oTop3 x⟩
  | _ => parseVx maj q d o x

/-- 10 R196, R198, R199: majors 0x51 to 0x53; r is the tail after tail 1. -/
noncomputable def parseVmem (maj : Nat) (q : Bool) (d : Reg) (o x : Half) (r : List Half) : Parsed :=
  match parseDisp r with
  | none => .error .badLength
  | some disp =>
    match maj, (oM o).toNat with
    | 0x51, 0 => .ok (.vld ⟨q, d, oB o, oFb o, oTop3 x, disp⟩)
    | 0x51, 1 => .ok (.vldStream ⟨q, vAdv x, d, lo3 (oB o), oTop3 x⟩)
    | 0x51, 2 => .ok (.vst ⟨q, d, oB o, oFb o, oTop3 x, disp⟩)
    | 0x51, 3 => .ok (.vstStream ⟨q, vAdv x, d, lo3 (oB o), oTop3 x⟩)
    | 0x52, 0 => .ok (.vgath ⟨q, d, oB o, oFb o, oC o, oFc o, oTop3 x, vSc x, disp⟩)
    | 0x52, 1 => .ok (.vscat ⟨q, d, oB o, oFb o, oC o, oFc o, oTop3 x, vSc x, disp⟩)
    | 0x53, 0 => .ok (.vlds ⟨d, oB o, oFb o, oTop3 x, disp⟩)
    | 0x53, 1 => .ok (.vsts ⟨q, d, oB o, oFb o, oTop3 x, disp⟩)
    | 0x53, 2 => .ok (.vldsx ⟨d, oB o, oFb o, oC o, oFc o, oTop3 x, vSc x, disp⟩)
    | 0x53, 3 => .ok (.vstsx ⟨q, d, oB o, oFb o, oC o, oFc o, oTop3 x, vSc x, disp⟩)
    | _, _ => .error .badMinor

/-- Scalar memory and LEA: 06 R107, R109, R115, R116. -/
def parseMem (maj : Nat) (d : Reg) (o : Half) (disp : Option Imm) : Parsed :=
  let sz := (oM o).extractLsb' 0 2
  let z := (oM o).getLsbD 2
  let acq := (oM o).getLsbD 3
  match maj, disp with
  | 0x07, none => .ok (.lea ⟨d, oB o, oFb o, oC o, oFc o, sz⟩)
  | 0x07, some i =>
    match ((oM o).extractLsb' 2 2).toNat with
    | 0 => .ok (.leaDisp ⟨d, oB o, oFb o, oC o, oFc o, sz⟩ i)
    | 1 => .ok (.addpc d i)
    | _ => .error .badMinor
  | 0x10, none => .ok (.ld ⟨d, oB o, oFb o, acq, z, sz⟩)
  | 0x10, some i => .ok (.ldDisp ⟨d, oB o, oFb o, acq, z, sz⟩ i)
  | 0x11, none => .ok (.st ⟨oB o, oFb o, oC o, oFc o, sz⟩)
  | 0x11, some i => .ok (.stDisp ⟨oB o, oFb o, oC o, oFc o, sz⟩ i)
  | 0x12, none => .ok (.lds ⟨d, oB o, oFb o, z, sz⟩)
  | 0x12, some i => .ok (.ldsDisp ⟨d, oB o, oFb o, z, sz⟩ i)
  | 0x13, none => .ok (.sts ⟨oB o, oFb o, oC o, oFc o, sz⟩)
  | 0x13, some i => .ok (.stsDisp ⟨oB o, oFb o, oC o, oFc o, sz⟩ i)
  | 0x14, none => .ok (.pref ⟨oB o, oFb o, (oM o).extractLsb' 0 3⟩)
  | 0x14, some i => .ok (.prefDisp ⟨oB o, oFb o, (oM o).extractLsb' 0 3⟩ i)
  | _, _ => .error .badLength

/-- Majors 0x01 to 0x05. -/
def parseInt (maj : Nat) (q : Bool) (d : Reg) (t : List Half) : Parsed :=
  match maj, t with
  | 0x01, [o] => pickAluR (oM o) ⟨q, d, oB o, oFb o, oC o, oFc o⟩
  | 0x02, o :: r => match parseImm r with
    | some i => pickAluI (oM o) ⟨q, d, oB o, oFb o, i⟩
    | none => .error .badLength
  | 0x03, [o] => pickMul (oM o) ⟨q, d, oB o, oFb o, oC o, oFc o⟩
  | 0x04, [o] => pickBitU (oM o) ⟨d, oB o, oFb o, (oC o).extractLsb' 0 2⟩
  | 0x04, [o, x] =>
    if (oM o).toNat = 5 then .ok (.sel ⟨d, oB o, oFb o, oC o, oFc o, oB x, oFb x⟩)
    else pickExt (oM o) ⟨d, oB o, oFb o, x.extractLsb' 6 6, x.extractLsb' 0 6⟩
  | 0x05, [a] => .ok (.li16 q d a)
  | 0x05, [a, b] => .ok (.li32 q d (b ++ a))
  | 0x05, [a, b, c, e] => .ok (.li64 d (e ++ c ++ b ++ a))
  | _, _ => .error .badLength

/-- Majors 0x18 to 0x1A (15 R266). -/
def parseAmo (maj : Nat) (d : Reg) (t : List Half) : Parsed :=
  match t with
  | o :: x :: r =>
    match parseDisp r with
    | none => .error .badLength
    | some disp =>
      let a : AmoOps := ⟨d, oB o, oFb o, oC o, oFc o, x.getLsbD 2, x.getLsbD 0, disp⟩
      match maj with
      | 0x18 => pickAmo (oM o) a
      | 0x19 => .ok (.cas a)
      | _ => .ok (.append a)
  | _ => .error .badLength

/-- The write of a system register, whose row of the opcode table its number selects. -/
def parseMts (num : BitVec 12) (o : SrcOps) : Instr :=
  if num = 0x004 then .lseedWrite o
  else if num = 0x00B then .vpartWrite o
  else if num = 0x120 then .lqregRegister o
  else if num = 0x122 then .dbellWrite o
  else if sysMatrix num then .matrixRegWrite num o
  else .mts num o

/-- Majors 0x20 to 0x28 and 0x78 to 0x7A (07). -/
def parseCtl (maj : Nat) (q : Bool) (d : Reg) (t : List Half) : Parsed :=
  match maj, t with
  | 0x20, [a] => .ok (.br a)
  | 0x20, [a, b] => .ok (.brLong (b ++ a))
  | 0x21, o :: r => match parseImm r with
    | some i => pickBcc (oM o) ⟨q, oB o, oFb o, oC o, oFc o, i⟩
    | none => .error .badLength
  | 0x22, [a] => .ok (.call d a)
  | 0x22, [a, b] => .ok (.callLong d (b ++ a))
  | 0x23, [o] => match (oM o).toNat with
    | 0 => .ok (.jmpr ⟨d, oB o, oFb o⟩)
    | 1 => .ok (.ret ⟨oB o, oFb o⟩)
    | _ => .error .badMinor
  | 0x24, [o, a] => .ok (.loop ⟨oB o, oFb o, o.getLsbD 9, oI o, a⟩)
  | 0x24, [o, a, c] => .ok (.loopImm ⟨o.getLsbD 9, oI o, a, c⟩)
  | 0x25, [o] => match (oM o).toNat with
    | 0 => .ok (.lidx d (o.extractLsb' 5 3))
    | 1 => .ok (.lbrk (o.extractLsb' 5 3))
    | _ => .error .badMinor
  | 0x26, [o, a] => .ok (.strip ⟨d, o.extractLsb' 8 8, a⟩)
  | 0x26, [o, a, c] => .ok (.stripCk ⟨d, o.extractLsb' 8 8, a⟩ (oI c))
  | 0x27, [o, a] => match (oM o).toNat with
    | 8 => .ok (.ecall a)
    | 9 => .ok (.brk a)
    | _ => pickTrap (oM o) ⟨oB o, oFb o, oC o, oFc o, a⟩
  | 0x28, [o] => match (oM o).toNat with
    | 0 => .ok .eret
    | 1 => .ok .eretN
    | 2 => .ok .uiret
    | _ => .error .badMinor
  | 0x78, [o] => if oM o = 0 then .ok (.mfs d (o.extractLsb' 4 12)) else .error .badMinor
  | 0x78, [o, x] => if oM o = 1 then .ok (parseMts (o.extractLsb' 4 12) ⟨oB x, oFb x⟩) else .error .badMinor
  | 0x79, [o] => match (oM o).toNat with
    | 0 => .ok (.tlbiAll (oLvl o))
    | 1 => .ok (.tlbiVa ⟨oB o, oFb o⟩ (oLvl o))
    | _ => .error .badMinor
  | 0x7A, [o] => match (oM o).toNat with
    | 0 => .ok .idle
    | 1 => .ok .halt
    | _ => .error .badMinor
  | _, _ => .error .badLength

/-- Majors 0x30 to 0x34 and 0x7C (14, 17 R295 to R297). -/
def parseTurn (maj : Nat) (q : Bool) (d : Reg) (o : Half) : Parsed :=
  let t : TurnOps := ⟨d, oB o, oFb o, oLvl o⟩
  let r : RegionOps := ⟨d, oB o, oFb o⟩
  match maj, (oM o).toNat with
  | 0x30, 0 => .ok (if q then .turnPub t else .turn t)
  | 0x31, 0 => .ok .fenceO
  | 0x31, 1 => .ok .fenceIo
  | 0x31, 2 => .ok .fenceSurv
  | 0x32, 0 => .ok (.snapOpen r)
  | 0x32, 1 => .ok (.snapClose r)
  | 0x33, _ => .ok (.waits ⟨d, oB o, oFb o, oC o, oFc o, (oM o).getLsbD 0⟩)
  | 0x34, 0 => .ok (.bar (oLvl o))
  | 0x34, 1 => .ok (.barArrive (oLvl o))
  | 0x34, 2 => .ok (.barWait (oLvl o))
  | 0x7C, 0 => .ok (.cacheWb t)
  | 0x7C, 1 => .ok (.cacheInv t)
  | 0x7C, 2 => .ok (.cacheWbinv t)
  | 0x7C, 3 => .ok (.cacheTinit r)
  | _, _ => .error .badMinor

/-- Majors 0x38 to 0x3E (17 R296). -/
def parseSched (maj : Nat) (q : Bool) (d : Reg) (t : List Half) : Parsed :=
  match maj, t with
  | 0x38, [o, x] => .ok (.spawn ⟨d, oB o, oFb o, oC o, oFc o, (oM o).extractLsb' 0 2, oB x, oFb x⟩)
  | 0x39, [] => .ok .done
  | 0x39, [o] => .ok (.doneCtr ⟨oB o, oFb o⟩)
  | 0x3A, [o] => .ok (.waitj ⟨oB o, oFb o, o.getLsbD 9, oI o⟩)
  | 0x3B, [o] => .ok (.launch ⟨q, d, oB o, oFb o, o.getLsbD 9, oI o⟩)
  | 0x3C, [o] => .ok (.nextw ⟨d, oB o, oFb o, oC o, oFc o⟩)
  | 0x3D, [o] => .ok (.getid d (oM o))
  | 0x3E, [o] => .ok (.yield (o.getLsbD 9) (oI o))
  | _, _ => .error .badLength

/-- Majors 0x40, 0x50, 0x54 and 0x55 (09 R169, 10 R195, R201, R207). -/
noncomputable def parseCfg (maj : Nat) (q : Bool) (d : Reg) (t : List Half) : Parsed :=
  match maj, t with
  | 0x40, [o] => match (oM o).toNat with
    | 0 => .ok (.vsetvl ⟨d, oB o, oFb o⟩)
    | 1 => .ok (.vtag d (oB o) (o.extractLsb' 7 4))
    | 2 => .ok (.vcfg ⟨oB o, oFb o⟩)
    | _ => .error .badMinor
  | 0x50, [o] => match (oM o).toNat with
    | 0 => .ok (.qcfg ⟨lo3 d, oB o, oFb o, oLvl o⟩)
    | 1 => .ok (.qrd d (lo3 (oB o)) (oLvl o))
    | 2 => .ok (.qrst (lo3 d))
    | _ => .error .badMinor
  | 0x54, [o] =>
    let s : StrmOps := ⟨q, d, oTop3 o, o.extractLsb' 11 2, o.getLsbD 10, oC o, oFc o⟩
    match (oM o).toNat with
    | 0 => .ok (.strmVector s)
    | 1 => .ok (.strmScratchpad s)
    | 2 => .ok (.strmFabric s)
    | 3 => .ok (.strmc (oC o))
    | 4 => .ok (.strmq d (oC o))
    | _ => .error .badMinor
  | 0x55, [o, x] =>
    let c : CopyOps := ⟨q, d, oB o, oFb o, oC o, oFc o, oB x, oFb x⟩
    match (oM o).toNat with
    | 0 => .ok (.copyIn c)
    | 1 => .ok (.copyOut c)
    | _ => .error .badMinor
  | _, _ => .error .badLength

/-- Majors 0x60 to 0x67 (12). -/
noncomputable def parseMat (maj : Nat) (q : Bool) (d : Reg) (t : List Half) : Parsed :=
  match maj, t with
  | 0x60, [o] => .ok (.tshape (lo3 d) ⟨oB o, oFb o⟩)
  | 0x61, [o] => match (oM o).toNat, o.getLsbD 7 with
    | 0, false => .ok (.tld ⟨lo3 d, oB o, oFb o, o.extractLsb' 8 2⟩)
    | 0, true => .ok (.tldMem ⟨lo3 d, lo3 (oB o), o.getLsbD 6⟩)
    | 1, false => .ok (.tst ⟨lo3 d, oB o, oFb o, o.extractLsb' 8 2⟩)
    | 1, true => .ok (.tstMem ⟨lo3 d, lo3 (oB o), o.getLsbD 6⟩)
    | _, _ => .error .badMinor
  | 0x61, [o, a] => match (oM o).toNat with
    | 0 => .ok (.tldDisp ⟨lo3 d, oB o, oFb o, o.extractLsb' 8 2, a⟩)
    | 1 => .ok (.tstDisp ⟨lo3 d, oB o, oFb o, o.extractLsb' 8 2, a⟩)
    | _ => .error .badMinor
  | 0x62, [o] => match (oM o).toNat with
    | 0 => .ok (.tzero (lo3 d))
    | 1 => .ok (.tzeroAcc (lo1 d))
    | 2 => .ok (.tmov (lo3 d) (lo3 (oB o)))
    | _ => .error .badMinor
  | 0x63, [o] => match (oM o).toNat with
    | 0 => .ok (.twld (lo3 d) (oFmt o))
    | 1 => .ok (.twldCb (lo3 d) (o.extractLsb' 4 2))
    | 2 => .ok (.twldSp (lo3 d) (lo3 (oB o)) (oFmt o))
    | _ => .error .badMinor
  | 0x64, [o] => match (oM o).toNat with
    | 0 => .ok (.tcbkS ⟨lo1 d, oB o, oFb o⟩)
    | 1 => .ok (.tcbk ⟨lo1 d, oB o, oFb o⟩)
    | _ => .error .badMinor
  | 0x64, [o, a] => match (oM o).toNat with
    | 0 => .ok (.tcbkSDisp ⟨lo1 d, oB o, oFb o⟩ a)
    | 1 => .ok (.tcbkDisp ⟨lo1 d, oB o, oFb o⟩ a)
    | _ => .error .badMinor
  | 0x65, [o] => match (oM o).toNat with
    | 0 => .ok (.tmma ⟨lo1 d, lo3 (oB o), oFmt o, o.getLsbD 7⟩)
    | 1 => .ok (.tmmaSp ⟨lo1 d, lo3 (oB o), oFmt o, o.getLsbD 7⟩)
    | _ => .error .badMinor
  | 0x66, [o] => match (oM o).toNat with
    | 0 => .ok (.tdrain ⟨d, lo1 (oB o), oC o, oFc o⟩)
    | 1 => .ok (.tdrainN d (lo1 (oB o)))
    | 2 => .ok (.taccSet ⟨q, d, lo1 (oB o), oC o, oFc o⟩)
    | 3 => .ok (.taccAdd ⟨q, d, lo1 (oB o), oC o, oFc o⟩)
    | _ => .error .badMinor
  | 0x67, [o] => match (oM o).toNat with
    | 0 => .ok (.tstat d (lo3 (oB o)))
    | 1 => .ok (.tstatIdle d)
    | _ => .error .badMinor
  | _, _ => .error .badLength

/-- Majors 0x6C, 0x6D, 0x70 to 0x72 and 0x74 (19 R330, R331, 20 R343 to R347, 22 R367). -/
noncomputable def parseFab (maj : Nat) (q : Bool) (d : Reg) (t : List Half) : Parsed :=
  match maj, t with
  | 0x6C, [o, x] => if oM o = 0 then .ok (.bind ⟨d, oB o, oFb o, oC o, oFc o, oB x⟩) else .error .badMinor
  | 0x6C, [o] => if oM o = 1 then .ok (.unbind d (oB o)) else .error .badMinor
  | 0x6D, [o, x] =>
    if oM o = 0 then .ok (.mcast ⟨q, d, oB o, oFb o, oC o, oFc o, oB x, oFb x, oC x, oFc x, (oM x).extractLsb' 2 2⟩) else .error .badMinor
  | 0x70, [o, x] => if oM o = 0 then .ok (.skins ⟨d, oB o, oFb o, oC o, oFc o, oB x, oFb x⟩) else .error .badMinor
  | 0x70, [o] => match (oM o).toNat with
    | 1 => .ok (.skdel ⟨d, oB o, oFb o, oC o, oFc o⟩)
    | 2 => .ok (.skclr ⟨d, oB o, oFb o, oC o, oFc o⟩)
    | _ => .error .badMinor
  | 0x71, [o, x] => if oM o = 0 then .ok (.sklook ⟨d, oB x, oB o, oFb o, oC o, oFc o⟩) else .error .badMinor
  | 0x72, [o, x] =>
    let b : BinOps := ⟨d, oB o, oFb o, oC o, oFc o⟩
    match (oM o).toNat with
    | 0 => .ok (.reconPull b)
    | 1 => .ok (.reconPush b)
    | 2 => .ok (.reconMerge b)
    | 3 => .ok (.reconSave b)
    | 4 => .ok (.reconDiff ⟨d, oB o, oFb o, oC o, oFc o, oB x, oFb x, oC x, oFc x⟩)
    | _ => .error .badMinor
  | 0x72, [o] => if oM o = 8 then .ok (.reconq ⟨d, oB o, oFb o⟩) else .error .badMinor
  | 0x74, [o] => match (oM o).toNat with
    | 0 => .ok (.survq ⟨d, oB o, oFb o⟩)
    | 1 => .ok (.survqGrp ⟨d, oB o, oFb o⟩)
    | 2 => .ok (.survqSeal ⟨d, oB o, oFb o⟩)
    | _ => .error .badMinor
  | _, _ => .error .badLength

/-- The fields of an instruction by its major opcode (02 R42). -/
noncomputable def parse (maj : Nat) (q : Bool) (d : Reg) (t : List Half) : Parsed :=
  match maj with
  | 0x00 => if t = [] then .ok .nop else .error .badLength
  | 0x01 | 0x02 | 0x03 | 0x04 | 0x05 => parseInt maj q d t
  | 0x07 | 0x10 | 0x11 | 0x12 | 0x13 | 0x14 => match t with
    | [o] => parseMem maj d o none
    | o :: r => match parseImm r with
      | some i => parseMem maj d o (some i)
      | none => .error .badLength
    | [] => .error .badLength
  | 0x18 | 0x19 | 0x1A => parseAmo maj d t
  | 0x20 | 0x21 | 0x22 | 0x23 | 0x24 | 0x25 | 0x26 | 0x27 | 0x28 | 0x78 | 0x79 | 0x7A => parseCtl maj q d t
  | 0x30 | 0x31 | 0x32 | 0x33 | 0x34 | 0x7C => match t with
    | [o] => parseTurn maj q d o
    | _ => .error .badLength
  | 0x38 | 0x39 | 0x3A | 0x3B | 0x3C | 0x3D | 0x3E => parseSched maj q d t
  | 0x40 | 0x50 | 0x54 | 0x55 => parseCfg maj q d t
  | 0x41 | 0x42 | 0x43 | 0x44 | 0x46 | 0x47 | 0x48 | 0x49 | 0x4A | 0x4B | 0x4C => match t with
    | [o, x] => parseVec maj q d o x
    | _ => .error .badLength
  | 0x45 => match t with
    | [o] => parseK d o
    | _ => .error .badLength
  | 0x51 | 0x52 | 0x53 => match t with
    | o :: x :: r => parseVmem maj q d o x r
    | _ => .error .badLength
  | 0x60 | 0x61 | 0x62 | 0x63 | 0x64 | 0x65 | 0x66 | 0x67 => parseMat maj q d t
  | 0x6C | 0x6D | 0x70 | 0x71 | 0x72 | 0x74 => parseFab maj q d t
  | _ => .error .majorUnassigned

/-- An instruction read from its head and its tail halfwords: the fields, then the field rules, then every other bit zero (02 R36). -/
noncomputable def decode (h : Half) (t : List Half) : Except DecodeError Instr :=
  if headTl h ≠ t.length then .error .badLength
  else match parse (headMaj h) (headQ h) (headD h) t with
    | .error e => .error e
    | .ok i =>
      if !i.wf then .error .badField
      else if encode i = some (h :: t) then .ok i
      else .error .reservedBits

/-- Halfword k, counted from the top, of a number of n halfwords. -/
def halfFromTop (n w k : Nat) : Half := BitVec.ofNat 16 (w / 2 ^ (16 * (n - 1 - k)))

/-- The instruction of a table word. spec/opcode_table.json puts the head in the most significant halfword and the tail halfwords
below it in ascending order (ADD is 0x0240_0000: head 0x0240, tail 0 0x0000); tail halfwords the word does not give are zero.
(DEDUCED, safe: notes/assumptions/10.) -/
noncomputable def decodeTableWord (nbits w : Nat) : Option Instr :=
  let n := nbits / 16
  let h := halfFromTop n w 0
  let t := (List.range (headTl h)).map (fun k => if k + 1 < n then halfFromTop n w (k + 1) else 0)
  match decode h t with
  | .ok i => some i
  | .error _ => none

end Sys2Proof
end

