-- ==== Sys2Proof/Config.lean ====
section
/-! DEFINITION. What an implementation of the device fixes, and the free values: constants without a body for what the spec leaves
open. -/
namespace Sys2Proof

/-- A fresh free number for each value of a plain counter of State: a choice or a value the spec leaves open.
(DESIGN CHOICE, safe: notes/assumptions/50.) -/
opaque Config.freeNat : Nat → Nat

/-- The bank that holds an offset of a module's memory, the row within its bank, and how many rows a bank has beyond its first: the HBM4E
geometry, which the spec leaves to the part (23 R380, R381).
(DESIGN CHOICE, safe: notes/assumptions/39.) -/
opaque Config.bankOf : Nat → Nat
opaque Config.rowOf : Nat → Nat
opaque Config.moreRows : Nat
/-- The frames of a module, by number, that lie in the highest 1/32 of a bank's rows, of which every bank has one and the frames beside it; and the form in
which a record of the error log names frames (23 R380, R382). -/
opaque Config.retiredFrame : Nat → BitVec 28
opaque Config.moreRetired : Nat → List Nat
def Config.retiredFrames (bank : Nat) : List Nat := (Config.retiredFrame bank).toNat :: Config.moreRetired bank
opaque Config.namedFrames : List Nat → BitVec 64
/-- The rows of a bank. -/
def Config.bankRows : Nat := Config.moreRows + 1
/-- THR: a row's disturbance limit, loaded from the stack's configuration (23 R381). -/
opaque Config.rowLimit : Nat
/-- The router at which the memory controllers of a die take packets for a granule of their own die, which the spec does not place (19 R314).
(DESIGN CHOICE, safe: notes/assumptions/52.) -/
opaque Config.ctrlRouter : Nat → Nat
/-- The hub boot ROM; the signature that a key's holder makes of an image by SLH-DSA-SHAKE-256s, and which others verify by key, image and signature (FIPS 205);
the hash of a public key that the fuses hold; SHA3-384 (FIPS 202); the identity key pair derived from the fused secret and a measurement; and the bytes after the header of an SPDM response, by response code, identity,
request and a fresh number (24 R383, R385).
(DESIGN CHOICE, safe: notes/assumptions/59.) -/
opaque Config.bootRom : List Byte
opaque Config.slhDsaSign : List Byte → List Byte → List Byte
opaque Config.slhDsaAlso : List Byte → List Byte → List Byte → Bool
opaque Config.keyHash : List Byte → Nat
opaque Config.sha3 : List Byte → BitVec 384
opaque Config.identity : Nat → BitVec 384 → Nat
opaque Config.spdmBody : Nat → Nat → List Nat → Nat → List Nat
/-- An SLH-DSA-SHAKE-256s signature verifies (24 R383). -/
def Config.slhDsaVerify (key image signature : List Byte) : Bool :=
  signature == Config.slhDsaSign key image || Config.slhDsaAlso key image signature
/-- Bytes of a scratchpad (01 R12). -/
def Config.scratchBytes : Nat := 1572864
/-- Write-combining buffers of a core (14 R244). -/
def Config.wcbCount : Nat := 32
/-- Turn granules an inbound L1 holds: 128 KiB (01 R12). -/
def Config.l1Granules : Nat := 512
/-- Turn granules an inbound slice holds: 4 MiB (01 R12). -/
def Config.sliceGranules : Nat := 16384
/-- Granules an outbound slice holds: 2 MiB (01 R12). -/
def Config.outGranules : Nat := 8192
/-- Atomics a strand may have outstanding (15 R262). -/
def Config.maxAtomics : Nat := 8
/-- Age at which a write-combining buffer drains, in clk (14 R244). -/
def Config.wcbAge : Nat := 4096
/-- The checkpoint watchdog's limit in clk (05 R96). -/
def Config.watchdog : Nat := 1048576
/-- Entries of the pending-launch store (17 R408). -/
def Config.launchStore : Nat := 4096

end Sys2Proof
end

