-- ==== Sys2Proof/Machine/State.lean ====
section
/-! DEFINITION. The state of a Dexlink domain of Serryn PX4 modules: plain data, one record per strand, core and module and the
queues between them. Strands are numbered domain-wide, 384 m + p for physical strand p of module m (01 R11), cores 192 m + c. -/
namespace Sys2Proof.Machine

/-- A finite map from numbers, kept in ascending order; a number it does not list has the default its reader names. -/
abbrev Map (α : Type) := List (Nat × α)

/-- Memory and scratchpads: (address, byte) in strictly ascending order, no listed byte 0. An unlisted byte reads as 0. -/
abbrev Memory := List Host.Cell

/-! ## A strand -/

/-- What a scalar register carries beside its value: poison with the producing access's address (06 R113), or the mark of a failed
reconciliation with its TVAL (20 R347). -/
inductive Mark where
  | clean
  | poison (ea : Word)
  | peel (tval : Word)
  deriving DecidableEq, Repr

/-- A scalar register: value, full/empty bit, mark, and the token of the producer that fills it (0: none outstanding). -/
structure SReg where
  val : Word
  full : Bool
  mark : Mark
  tok : Nat
  deriving DecidableEq, Repr

/-- A loop-stack entry (05 R83). -/
structure Loop where
  idx : Word
  cnt : Word
  beg : Word
  fin : Word
  ck : Bool
  cki : BitVec 9
  deriving DecidableEq, Repr

/-- STATUS (05 R86); INTUE is "a report is held" and has no bit of its own. -/
structure Status where
  prv : Bool
  pprv : Bool
  ie : Bool
  pie : Bool
  nest : Bool
  preq : Bool
  uiact : Bool
  intdb : Bool
  deriving DecidableEq, Repr

/-- CAUSE, EPC and TVAL (05 R86). -/
structure TrapRegs where
  int : Bool
  svf : Bool
  qual : Byte
  code : Byte
  epc : Word
  tval : Word
  deriving DecidableEq, Repr

/-- The user-level interrupt registers (05 R86, R92). -/
structure UserInt where
  vec : Word
  epc : Word
  uie : Bool
  cur : BitVec 5
  pend : BitVec 32
  deriving DecidableEq, Repr

/-- The per-strand vector and float registers (05 R85; 08, 09, 10). -/
structure VecRegs where
  fflags : BitVec 6
  ffirst : BitVec 96
  lfsr : Word
  lseed : Word
  vl : Word
  vstart : Word
  vcfg : Word
  vslip : Word
  vtag : BitVec 128
  spmode : Word
  deriving DecidableEq, Repr

/-- Why a strand is not fetching, or that it is. -/
inductive Run where
  /-- held in reset (24 R383) -/
  | held
  /-- released, running nothing -/
  | idle
  /-- running -/
  | active
  /-- an instruction waits; it is executed again (02 R40) -/
  | waiting
  /-- stopped by HALT (07 R134) -/
  | halted
  /-- stopped by a MACHINE_CHECK reported to firmware (05 R88, 02 R34) -/
  | mcheck
  /-- stopped by a thermal shutdown of its die (24 R390) -/
  | off
  deriving DecidableEq, Repr

/-- A code line as fetched at its entry (02 R28). -/
structure CodeLine where
  addr : Word
  data : BitVec 512
  deriving DecidableEq, Repr

/-- A cached translation: virtual page base, 512 MiB or 64 KiB, its leaf, the leaf's physical address and, for a versioned page,
the partner's leaf (10 R186, 15 R271). -/
structure Tlb where
  base : Nat
  big : Bool
  leaf : Word
  leafPa : Nat
  partner : Word
  deriving DecidableEq, Repr

/-- An outstanding load: where its data goes when it arrives. A scalar destination is register n while it carries token tok;
vector destinations are whole registers of the strand's core. -/
structure Prod where
  tok : Nat
  sdest : Option Nat
  sval : Word
  smark : Mark
  vdest : List (Nat × BitVec 16384 × BitVec 32)
  ea : Word
  /-- the message that carries its request and its data, 0 for none -/
  msg : Nat := 0
  /-- a checked load by DIR that the home has still to read: physical address, length, DIR, extension with zeros (14 R256) -/
  late : Option (Nat × Nat × Bool × Bool) := none
  /-- the physical address to whose home msg carries the request; none once the answer is on its way, or when no request travels (19 R309) -/
  home : Option Nat := none
  /-- the ECC granules of memory that a vector load reads, each with a register and a chunk of it that receives its bytes (23 R374) -/
  srcs : List (Nat × Nat × Nat) := []
  /-- vector registers whose bytes already stand in place: they become full with the last answer of the token (10 R192, R194) -/
  regs : List Nat := []
  deriving DecidableEq, Repr

/-- The continuation a strand runs (17 R281, R286). -/
structure Cont where
  grid : Nat
  vsi : Nat
  group : Nat
  rank : Nat
  gsize : Nat
  gcore : Nat
  glvl : Nat
  pri : Nat
  join : Word
  spc : Bool
  /-- the group's physical strands by rank, domain-wide numbers -/
  members : List Nat
  /-- order of dispatch, for the youngest-first rule of R288 -/
  order : Nat
  /-- phase, plus one, of the strand's last arrival at each barrier level (R295) -/
  arrived : Map Nat
  /-- the head of a BAR that has arrived and waits (R288, R295) -/
  barIn : Option Word
  deriving DecidableEq, Repr

/-- Where a continuation record stands: ready in a queue; parked on the counter at a physical address (17 R292); parked until a launch
finds room (17 R290); parked until a versioned page, by its even frame, lets a publish or a snapshot go on (14 R254, R255). -/
inductive Place where
  | device
  | cluster (c : Nat)
  | parked (ctr : Nat)
  | store
  | page (frame : Nat)
  deriving DecidableEq, Repr

/-- What a save record holds beside its fixed part (05 R93, R95, R96): listed vector registers, mask registers, tiles, banks and codebook
slots, the matrix and codebook blocks, and scratchpad ranges (start, length). The record itself does not say it: the Hamper's copy does. -/
structure Live where
  v : BitVec 32
  k : BitVec 8
  t : BitVec 8
  a : BitVec 2
  cb : BitVec 2
  mblock : Bool
  cblock : Bool
  ranges : List (Nat × Nat)
  deriving DecidableEq, Repr

/-- A store to a protected page not yet covered by an acknowledged fold (04 R74). -/
structure ProtStore where
  va : Word
  pa : Nat
  len : Nat
  deriving DecidableEq, Repr

/-- A continuation record in Hamper backing memory (17 R285). A group not yet dispatched is one record, of its first virtual strand; the
members of a group that has run have a record each. -/
structure Rec where
  code : Word
  frame : Word
  join : Word
  vsi : Nat
  grid : Nat
  res : Bool
  glvl : Nat
  pri : Nat
  /-- a reserved field is nonzero -/
  bad : Bool
  place : Place
  /-- arrival order and clk of arrival in its queue -/
  seq : Nat
  clk : Nat
  /-- the context left by a pre-emption, not by a yield (17 R288) -/
  evicted : Bool
  /-- what the save record holds -/
  live : Live
  /-- the context as it ran last, with what it had written and not turned or made survivable -/
  cont : Option Cont
  unturned : List Nat
  turned : List (Word × Nat)
  prot : List ProtStore
  /-- the strand it ran on last, and the cell of each status register of its in-flight transfers stays with the transfer -/
  last : Nat
  /-- the context left by a YIELD: it goes on at seqnext of the instruction that its record names (17 R304) -/
  after : Bool
  deriving DecidableEq, Repr

/-- A yield that is under way (17 R290): the table's index, where the record goes (device: to its queue, ready), and whether the resumed
strand goes on after the instruction (YIELD) or at it. -/
structure Yield where
  ck : Option (BitVec 9)
  place : Place
  after : Bool
  deriving DecidableEq, Repr

/-- An asynchronous UE_DATA report (05 R90). -/
structure Report where
  qual : Byte
  addr : Word
  deriving DecidableEq, Repr

/-- A body held in the replay buffer: first head, last head and the lines it was captured from (07 R127). -/
structure Replay where
  first : Word
  last : Word
  lines : List CodeLine
  deriving DecidableEq, Repr

/-- A register held bound to a collective record (19 R323, R324, R326): the record's use and the member, W, the push buffer with its
poison, buffers waiting to be pushed, pushes made, result groups sent to the register that it has not taken, each with the message that brings it, and how many
have been sent. -/
structure Binding where
  reg : Nat
  coll : Nat
  member : Nat
  w : Nat
  buf : BitVec 16384
  bad : BitVec 32
  pend : List (BitVec 16384 × BitVec 32)
  pushed : Nat
  groups : List (BitVec 16384 × BitVec 32 × Nat)
  got : Nat
  deriving DecidableEq, Repr

/-- A later load checked before older ones (06 R112): its address and length, the access, what it read, and its poison. -/
structure Early where
  va : Word
  len : Nat
  gran : Nat
  val : Nat
  bad : Bool
  deriving DecidableEq, Repr

/-- A strand (05). -/
structure Strand where
  run : Run
  pc : Word
  line : Option CodeLine
  sregs : Map SReg
  loops : Map Loop
  loopd : Nat
  status : Status
  trap : TrapRegs
  tvec : Word
  hsave : Word
  saveptr : Word
  cktab : Word
  vstate : BitVec 2
  vdirty : BitVec 52
  ptroot : Word
  ui : UserInt
  vec : VecRegs
  sksz : Word
  skrnd : Word
  skmax : Word
  sktab : Word
  lqroot : Word
  lqcode : Byte
  qregs : Map Word
  reports : List Report
  /-- clk at which PREQ was set (05 R96) -/
  preqClk : Nat
  tlb : List Tlb
  /-- pages of tlb, by base, that the walk-ahead of a stream register alone has translated (10 R191) -/
  walked : List (Nat × Nat)
  prods : List Prod
  bindings : List Binding
  replay : Option Replay
  prot : List ProtStore
  /-- granules the strand has written and not turned (03 R49) -/
  unturned : List Nat
  /-- granules that a TURN of the strand, by its address, has processed and that count as turned once it completes (03 R49, R50) -/
  turned : List (Word × Nat)
  cont : Option Cont
  /-- reconciliation tickets the context holds (20 R409) -/
  tickets : List Nat
  /-- atomics outstanding (15 R262) -/
  atomics : Nat
  /-- tile stores that stood in the queue at the last FENCE.O and have not executed (04 R69) -/
  ordered : Nat
  /-- a forced save is due (05 R96), or a full save at a BAR (17 R288) -/
  saveDue : Option Byte
  /-- a checkpoint with this table index has landed a pre-emption request (05 R94) -/
  landed : Option (BitVec 9)
  /-- a yield under way (17 R290) -/
  yielded : Option Yield
  /-- the continuation record that the Hamper has placed on the strand and that has not started -/
  start : Option Rec
  /-- loads checked before older loads of the strand (06 R112) -/
  early : List Early
  /-- the model's input: the strand's next load by DIR reads when its request arrives at the home, not when it is checked (14 R256) -/
  late : Bool
  /-- the head whose operand test has been made and which waits for its sources (02 R40) -/
  tested : Option Word
  /-- the request of a TURN for its current granule that is on its way to the home (14 R250, 19 R309) -/
  asked : Option Nat
  /-- the stripe of a SURVQ.SEAL under way, by its parity holder and frame number, whose writes its hold keeps waiting (22 R368) -/
  sealing : Option (Nat × Nat)
  /-- the model's input: the next vector instruction stops after this many elements, at an interruptible point (05 R89, 09 R160) -/
  cut : Option Nat
  deriving DecidableEq, Repr

/-! ## A core -/

/-- A vector register: 512 lanes of 32 bits, full/empty, poison per 64-byte chunk, token of its producer. -/
structure VReg where
  val : BitVec 16384
  full : Bool
  poison : BitVec 32
  tok : Nat
  deriving DecidableEq, Repr

/-- A mask register. -/
structure KReg where
  val : BitVec 2048
  full : Bool
  poison : BitVec 4
  tok : Nat
  deriving DecidableEq, Repr

/-- A contributor to buffered bytes: strand, physical address and the strand's own address of the lowest byte that it wrote in an ECC granule
(14 R260). -/
structure Writer where
  strand : Nat
  pa : Nat
  va : Word
  deriving DecidableEq, Repr

/-- A write-combining buffer: a turn granule of physical memory, its valid bytes as (address, byte) ascending, who wrote them with
the lowest address each wrote per ECC granule, and when it was opened (14 R244, R260). -/
structure Wcb where
  gran : Nat
  cells : List Host.Cell
  writers : List Writer
  opened : Nat
  deriving DecidableEq, Repr

/-! ## The matrix engine of a core (12) -/

/-- A tile register: 32 KiB, poison by row (R217, 23 R373). -/
structure Tile where
  data : BitVec 262144
  poison : BitVec 128
  deriving DecidableEq, Repr

/-- An accumulator bank: element (i, j) of the f32 view in bits 32 (128 i + j) and up; poison by row (R221, 23 R373). -/
structure Bank where
  data : BitVec 524288
  poison : BitVec 128
  deriving DecidableEq, Repr

/-- A codebook slot: st 0 empty, 1 filling, 2 full (R225). -/
structure Slot where
  st : Nat
  table : BitVec 128
  bad : Bool
  deriving DecidableEq, Repr

/-- What is latched in the array: WVALID, WF, K, WSP, WCB of MSTAT (R222). -/
structure Latch where
  valid : Bool
  wf : Nat
  k : Nat
  sp : Bool
  cb : Bool
  deriving DecidableEq, Repr

/-- Part of a memory row of a TST whose checks have passed: row, first byte in it, length. -/
structure MRow where
  row : Nat
  off : Nat
  len : Nat
  va : Word
  pa : Nat
  leaf : Word
  tlb : Tlb
  deriving DecidableEq, Repr

/-- A matrix instruction that has issued, with what its issue fixed (R219). -/
inductive MOp where
  | zeroTile (t : Nat)
  | zeroBank (a : Nat)
  | mov (t b : Nat)
  /-- rows read at their checks: row, bytes, poison -/
  | load (t rb : Nat) (rows : List (Nat × BitVec 2048 × Bool))
  | store (strand t rb : Nat) (rows : List MRow)
  | latch (t n k wf : Nat)
  /-- TWLD.CB of a tile with rows of rb bytes: weight rows below row are expanded into w -/
  | latchCb (t rb k cbm row : Nat) (w : Map Nat) (bad : BitVec 128)
  | latchSp (t tm k wf : Nat)
  | mma (a t af nr rb k : Nat) (z : Bool)
  /-- elements vs to n - 1 of the group at d, which the token empties; the row that TDRAIN.N leaves in DROW -/
  | drain (strand a row0 vs n : Nat) (f64 : Bool) (d tok : Nat) (next : Option (BitVec 7))
  /-- TCBK's place, until its slot, which fills from its issue on, is full (R225) -/
  | fill (slot : Nat)
  /-- TSHAPE's place: its descriptor is what later instructions find from its issue on (R230) -/
  | shape (t : Nat)
  | acc (a row0 vs : Nat) (add f64 : Bool) (elems : List Nat)
  | reg (num : Nat) (v : Word)
  deriving DecidableEq, Repr

/-- The matrix engine. desc, iLatch, iMctl and iDrow are what the instructions that have issued leave (R219); the other fields are what
the executed ones left. queue is in engine order. -/
structure Matrix where
  tiles : Map Tile
  banks : Map Bank
  slots : Map Slot
  weights : Map Nat
  wbad : BitVec 128
  latch : Latch
  mctl : BitVec 2
  flags : BitVec 6
  drow : BitVec 7
  desc : Map (BitVec 32)
  iLatch : Latch
  iMctl : BitVec 2
  iDrow : BitVec 7
  queue : List MOp
  deriving DecidableEq, Repr

/-! ## Memory -/

/-- A turn tag (14 R246): gl is the level of G, 6 reserved and 7 empty; t 6 reserved and 7 none. -/
structure Tag where
  t : Nat
  gl : Nat
  fx : Bool
  md : Nat
  gid : Nat
  deriving DecidableEq, Repr

/-- A read copy of a turn granule in an inbound L1 (cluster false) or an inbound slice, with its copy of the tag; held: it has bytes merged by a
TURN or an atomic that their home has not acknowledged (14 R244, R245). -/
structure Inbound where
  cluster : Bool
  unit : Nat
  gran : Nat
  data : BitVec 2048
  poison : BitVec 4
  tag : Tag
  held : Bool
  deriving DecidableEq, Repr

/-- A granule of an outbound slice; merged: a TURN at SELF, CORE or CLUSTER has merged it, so it goes home at once (14 R244). -/
structure Outbound where
  cluster : Nat
  gran : Nat
  cells : List Host.Cell
  writers : List Writer
  merged : Bool
  deriving DecidableEq, Repr

/-- A drain of one ECC granule on its way to its home or waiting there to be merged (14 R260): the cluster that it comes from, and the Dexlink
message that carries it, 0 for none; dir: a store through the direct aperture (14 R256), which no buffer holds. -/
structure Merge where
  cells : List Host.Cell
  writers : List Writer
  cluster : Nat
  msg : Nat
  dir : Bool := false
  deriving DecidableEq, Repr

/-- The version state of a page pair (15 R272). -/
structure Vers where
  front : Bool
  pend : Bool
  snaps : Nat
  wr : BitVec 256
  cu : BitVec 256
  back : Nat
  share : Nat
  /-- strands and contexts whose SNAP.OPEN (false) or TURN.PUB (true) waits, in order of arrival (15 R274) -/
  waiting : List (Nat × Bool)
  deriving DecidableEq, Repr

/-- A pending update of A, D and ONCE in a leaf (10 R190): bits to set, of which ONCE only together with A, and to clear; the strand whose access it
is, and the message that carries it. -/
structure AdUpdate where
  leafPa : Nat
  set : Word
  clr : Word
  strand : Nat
  msg : Nat
  deriving DecidableEq, Repr

/-- An atomic on its way to its home (15 R262, R267): the requester, its destination register and token, the operation (0 to 8 of
R268, 9 CAS, 10 APPEND; 11 SKINS, 12 SKDEL, 13 SKLOOK of 20 R342, whose value is exp and whose second destination is dest2), the width in
bytes and the operands. -/
structure HomeReq where
  strand : Nat
  tok : Nat
  dest : Option Nat
  dest2 : Option Nat
  op : Nat
  sz : Nat
  ea : Word
  pa : Nat
  lastPa : Nat
  share : Nat
  dir : Bool
  acq : Bool
  arg : Word
  exp : Word
  /-- the message that carries it, 0 for none -/
  msg : Nat
  deriving DecidableEq, Repr

/-- A scratchpad access travelling to another core (06 R115, 10 R199, 19 R332): writes as (offset, bytes); or a scalar read of len bytes
at off for register cell dest; or a vector read of elements (e, offset) of width w into the group of n elements at register vd. untag: the
units written take swizzle tag 0. mc: token of the MCAST that the write belongs to, 0 for none. -/
structure Remote where
  strand : Nat
  core : Nat
  write : List (Nat × List Byte)
  untag : Bool
  mc : Nat
  tok : Nat
  dest : Option Nat
  off : Nat
  len : Nat
  zext : Bool
  ea : Word
  vd : Option Nat
  w : Nat
  elems : List (Nat × Nat)
  /-- the message that carries it (19 R309) -/
  msg : Nat
  deriving DecidableEq, Repr

/-- A write of a vector store whose element has passed its checks: of memory, of the own core's scratchpad, whose units take swizzle tag 0, or of
another's (10 R192, R199, 23 R371). -/
inductive VWrite where
  | mem (pa : Nat) (leaf : Word) (tlb : Tlb) (va : Word) (n v : Nat)
  | near (off n v : Nat)
  | far (r : Remote)
  deriving DecidableEq, Repr

/-- An instruction of the vector window that has executed and not retired (23 R371): its result, which the register file does not hold
yet, with the poison of each register, and what a squash restores. -/
structure VEntry where
  strand : Nat
  pc : Word
  dest : List (Nat × BitVec 16384 × BitVec 32)
  mask : List (Nat × BitVec 2048 × BitVec 4)
  flags : BitVec 6
  first : BitVec 96
  setsFirst : Bool
  lfsr : Word
  vstart : Word
  squashes : Nat
  /-- the instruction completed; false when it stopped at an element -/
  ends : Bool
  /-- a scalar destination: its cell, the value that it has been given, and what it held (09 R175, R181) -/
  scalar : Option (Nat × Word × SReg)
  /-- registers consumed, and the loop stack and VDIRTY of before, which a MACHINE_CHECK takes back (23 R370) -/
  took : List Nat
  loops : Map Loop
  loopd : Nat
  vdirty : BitVec 52
  vstate : BitVec 2
  /-- the token of the producer that a load is, whose registers fill when their data arrive, 0 for none; and those registers as they were before -/
  vtok : Nat
  before : List (Nat × VReg)
  /-- what a store has still to write, once it has retired (23 R371) -/
  writes : List VWrite
  deriving DecidableEq, Repr

/-! ## Transfers and collectives (10 R201 to R207, 19 R321 to R332) -/

/-- The port of a transfer (10 R204, 19 R328, R331). -/
inductive Port where
  | vec (core base : Nat)
  | sp (core off len : Nat)
  | fab (strand reg : Nat)
  deriving DecidableEq, Repr

/-- What a transfer is: the kinds of a save record, and MCAST. -/
inductive XKind where
  | strm
  | copy
  | mcast
  deriving DecidableEq, Repr

/-- An outstanding STRM, COPY or MCAST: strand, or the saved context that holds it (grid and VSI); status register with its cell and
token; stream words at issue; element size; direction; count and elements performed; data an .out transfer has read; token of the vector
group an .in transfer fills; the code and qualifier that stopped it; privilege and root of its accesses. -/
structure Xfer where
  strand : Nat
  saved : Option (Nat × Nat)
  kind : XKind
  num : Nat
  dest : Option Nat
  tok : Nat
  ui : Bool
  port : Port
  q : List Word
  unit : Bool
  esz : Nat
  out : Bool
  count : Nat
  done : Nat
  data : List (Nat × Bool)
  vtok : Nat
  stop : Option (Nat × Nat)
  prv : Bool
  root : Word
  /-- the translations that its issue has taken, which a later TLBI does not touch (07 R133) -/
  pages : List Tlb
  deriving DecidableEq, Repr

/-- A member's contribution to a position, on its way to the fold unit (19 R325). -/
structure Contrib where
  member : Nat
  pos : Nat
  bits : Nat
  bad : Bool
  strand : Nat
  /-- the message that carries it -/
  msg : Nat
  deriving DecidableEq, Repr

/-- A use of a collective record: its own number, the physical address of position 0, positions as (physical, virtual) address and DIR, members as
(strand, register), the members that have bound, by position the member whose fold is next, contributions on their way and results with
their poison (19 R321, R325, R326). -/
structure Coll where
  key : Nat
  pa : Nat
  nmem : Nat
  tot : Nat
  op : Nat
  tag : Nat
  lvl : Nat
  place : List (Nat × Word × Bool)
  members : List (Nat × Nat)
  joined : List Nat
  next : Map Nat
  wait : List Contrib
  results : Map (Nat × Bool)
  deriving DecidableEq, Repr

/-! ## The Hamper (17) -/

/-- A live grid (17 R280 to R282). -/
structure Grid where
  id : Nat
  code : Word
  frame : Word
  sjoin : Word
  savebase : Word
  tx : Nat
  ty : Nat
  pri : Nat
  spc : Bool
  gcore : Nat
  glvl : Nat
  ngrp : Nat
  savesz : Nat
  spq : Nat
  vp : Word
  root : Word
  /-- continuations spawned so far -/
  spawned : Nat
  /-- continuations that have not executed DONE -/
  live : Nat
  /-- groups not yet dispatched once -/
  undispatched : Nat
  /-- next tile index (R294) -/
  nextTile : Nat
  /-- virtual strands that have executed DONE -/
  finished : List Nat
  deriving DecidableEq, Repr

/-- A launch queue registration (17 R284). -/
structure Registration where
  frame : Nat
  root : Word
  deriving DecidableEq, Repr

/-- A NEXTW on its way: strand or saved context, status register with its cell and token, grid asked for, core and scratchpad offset of
its word, and the token the distributor has handed out (17 R302); arrive: the clk at which it reaches the distributor (18 R306). -/
structure NextW where
  strand : Nat
  saved : Option (Nat × Nat)
  grid : Word
  core : Nat
  off : Nat
  num : Nat
  dest : Option Nat
  tok : Nat
  arrive : Nat
  reply : Option Word
  deriving DecidableEq, Repr

/-- A barrier of a group: level, VSI of its lowest member, VSIs of its members and of those that have arrived, completed phases (17 R295). -/
structure Barrier where
  grid : Nat
  lvl : Nat
  unit : Nat
  members : List Nat
  arrived : List Nat
  phase : Nat
  deriving DecidableEq, Repr

/-- The Hamper of a module. -/
structure Hamper where
  grids : List Grid
  recs : List Rec
  lastGrid : Nat
  regs : Map Registration
  slots : Nat
  pwait : Nat
  withdrawn : List Nat
  bars : List Barrier
  nextw : List NextW
  seq : Nat
  /-- strands kept for a member that has left its strand: strand, grid, VSI (R290) -/
  reserved : List (Nat × Nat × Nat)
  deriving DecidableEq, Repr

/-! ## Modules -/

/-- An entry of an access table (24 R386): target 0 to 3 a compute die, 4 the hub, 5 the mailbox; endpoint; the 64-bit entry. -/
structure Access where
  target : Nat
  ep : Nat
  entry : Word
  deriving DecidableEq, Repr

/-- A record of the error log (23 R382). -/
structure LogRec where
  type : Byte
  src : Byte
  unit : Nat
  count : Nat
  addr : Nat
  time : Nat
  detail : Word
  deriving DecidableEq, Repr

/-- A parity group descriptor as validated at the last write of PGRP (22 R358). -/
structure PGroup where
  members : List Nat
  k : Nat
  state : Nat
  lostix : Nat
  repl : Nat
  base : Nat
  size : Nat
  done : Nat
  deriving DecidableEq, Repr

/-- A parity delta on its way to the stripe's holder (22 R361): group, stripe, offset in the frame, the XOR, the module whose group it
is and the strands whose stores made it. -/
structure Delta where
  home : Nat
  group : Nat
  stripe : Nat
  off : Nat
  data : BitVec 512
  writers : List Nat
  /-- the message that carries it, 0 for none -/
  msg : Nat
  deriving DecidableEq, Repr

/-- A cell of a sketch (20 R338). -/
structure Cell where
  count : BitVec 32
  check : BitVec 32
  key : Word
  val : Word
  deriving DecidableEq, Repr

/-- A set class that the Unpick engine holds (20 R334, R337, R338, R344): physical address of the header, the frames of its region, N,
LOG2M, hash tables, fingerprint, SHARE, sketch, whether it is being cleared, and a number that a fresh SKCLR changes. -/
structure SkClass where
  cls : Nat
  base : Nat
  frames : List Nat
  log2n : Nat
  log2m : Nat
  hash : List Word
  fprint : Word
  share : Nat
  cells : Map Cell
  clearing : Bool
  gen : Nat
  deriving DecidableEq, Repr

/-- A ticket of the Unpick engine (20 R344 to R349): mode 0 to 4 of RECON, 5 SKCLR; the issuing strand with the root of its accesses; class and
the use of it; fold size, round, buffer or SKTAB, list and its capacity; translations that the issue checks took; stage 0 accepted, 1 local
sketch taken, 2 both sketches taken, 3 applying, 4 complete; the sketches; the peel list (key, value, sign is plus) with the entry in work, its
phase and what the lookups found; the code that ends it (0: none), a failed peel, TFULL met, the list too short, EST, the status word. -/
structure Ticket where
  num : Nat
  strand : Nat
  /-- the context that issued it: grid and VSI -/
  who : Option (Nat × Nat)
  root : Word
  mode : Nat
  cls : Nat
  gen : Nat
  peer : Nat
  f : Nat
  round : Nat
  buf : Word
  list : Word
  cap : Nat
  pages : List Tlb
  header : Word
  stage : Nat
  loc : Map Cell
  oth : Map Cell
  peel : List (Word × Word × Bool)
  ix : Nat
  phase : Nat
  opA : Option Word
  opB : Option Word
  stop : Nat
  failed : Bool
  apfull : Bool
  short : Bool
  est : Nat
  status : Word
  deriving DecidableEq, Repr

/-- What a Dexlink port keeps for a peer (19 R319): next sequence number to send and to receive, the replay buffer as (sequence number,
resends, message), messages that find no room in it, clk of the last new ACK, NAKs sent and flits accepted. -/
structure DexLink where
  tx : Nat
  rx : Nat
  replay : List (Nat × Nat × Nat)
  queue : List Nat
  ackClk : Nat
  naks : List Nat
  got : Nat
  deriving DecidableEq, Repr

/-- One of the 24 Dexlink ports of a module (19 R317): lanes that have trained, up, and what it keeps for each peer. -/
structure DexPort where
  lanes : Nat
  up : Bool
  links : Map DexLink
  deriving DecidableEq, Repr

/-- The fuses beside the minimum security version: the public-key hash, the secret of the device identity, and the configuration (24 R383, R385). -/
structure Fuses where
  keyHash : Nat
  secret : Nat
  config : List Byte
  deriving DecidableEq, Repr

/-- The management controller (24): boot 0 before the ROM has run, 1 recovery, 2 firmware; security version of the running image and the
fused minimum; measurement slots; strands released; TAP; power cap in watts; throttle and shutdown; the mailbox request under way. -/
structure Mgmt where
  boot : Nat
  fuses : Fuses
  /-- the device identity key pair of this boot (24 R385) -/
  identity : Nat
  version : Nat
  minVersion : Nat
  meas : List (BitVec 384)
  released : Bool
  tap : Bool
  cap : Nat
  throttled : Bool
  down : Bool
  cmd : Option Nat
  asker : Nat
  /-- strands that have reported a HALT (07 R134) -/
  halts : List Nat
  deriving DecidableEq, Repr

/-- The re-encoding of a bank (23 R380): 1 requested, 2 enabled, 3 done; SRC of its stack in the error log; the rows rewritten. -/
structure Reenc where
  state : Nat
  src : Byte
  rows : List Nat
  deriving DecidableEq, Repr
/-- No re-encoding. -/
def Reenc.none : Reenc := ⟨0, 0, []⟩

/-- Rinse (23 R378 to R381): patrol hours, error threshold, corrected errors by bank with the clk the count began, re-encoding of a bank (1
requested, 2 under way, 3 done) with the rows rewritten, activations of rows and the listed rows. -/
structure Rinse where
  patrol : Nat
  cethr : Nat
  errors : Map (Nat × Nat)
  reenc : Map Reenc
  acts : Map Nat
  listed : List Nat
  deriving DecidableEq, Repr

/-- A core (03 R53). -/
structure Core where
  /-- scratchpad words and registers that a strand with accesses outstanding has written: word, or 2^21 + register; strand; the token counter when
  the instruction issued (03 R58) -/
  hand : List (Nat × Nat × Nat)
  vpart : Word
  v : Map VReg
  k : Map KReg
  scratch : Memory
  /-- poisoned 8-byte words of the scratchpad, by word number (23 R373) -/
  spoison : List Nat
  wcb : List Wcb
  window : List VEntry
  /-- swizzle tags of the 64-byte units of the scratchpad (12 R218) -/
  swz : Map Nat
  mx : Matrix
  deriving DecidableEq, Repr

/-- A module. -/
structure Module where
  /-- clk of the domain at the module's last power-on reset: CLKCNT counts from it (05 R86) -/
  clk0 : Nat
  hamper : Hamper
  access : List Access
  log : List LogRec
  /-- records dropped because the ring was full -/
  logDrops : Nat
  /-- MACHINE_CHECK reports to firmware: strand (or 1024 for an engine) and TVAL (05 R88) -/
  firmware : List (Nat × Word)
  pgrp : Word
  groups : Map PGroup
  /-- stripes marked UNSURV at their holder: group, stripe (22 R362) -/
  unsurv : List (Nat × Nat)
  /-- modules that no port of this one reaches (19 R319) -/
  unreach : List Nat
  classes : List SkClass
  tickets : List Ticket
  ports : Map DexPort
  mgmt : Mgmt
  rinse : Rinse
  deriving DecidableEq, Repr

/-- The response sent to a master outside the strands (04 R407, 24 R387): endpoint, address, an error response, the value read or replaced and
its poison. -/
structure HostReply where
  ep : Nat
  pa : Nat
  err : Bool
  val : Nat
  bad : Bool
  deriving DecidableEq, Repr

/-- Where an uncorrectable error in scratchpad or register storage is found: a unit of poison (23 R373), a scratchpad word or a 64-byte chunk, row or slot
of a core's registers, or a scalar register cell of a strand. -/
inductive Flaw where
  | scratch (core word : Nat)
  | scalar (p cell : Nat)
  | vector (core j chunk : Nat)
  | mask (core j chunk : Nat)
  | tile (core t row : Nat)
  | bank (core a row : Nat)
  | slot (core n : Nat)
  deriving DecidableEq, Repr

/-- What happens next, where several agents could act: a strand runs its next instruction, or an event takes place. -/
inductive Turn where
  /-- an uncorrectable error is found in scratchpad or register storage (23 R374) -/
  | flaw (f : Flaw)
  | strand (p : Nat)
  | event (i : Instr)
  /-- a later load of strand p, of n bytes at va, is checked before older ones (06 R112) -/
  | ahead (p : Nat) (va : Word) (n : Nat)
  /-- the next load of strand p, when it goes by DIR, reads when its request arrives at the home (14 R256) -/
  | late (p : Nat)
  /-- the k-th transfer of strand p goes on by up to n elements (10 R202) -/
  | move (p k n : Nat)
  /-- strand p runs its next instruction, which, when it is elementwise, stops after n elements at an interruptible point (05 R89, 09 R160) -/
  | cut (p n : Nat)
  deriving DecidableEq, Repr

/-! ## Packets (19 R309 to R314) -/

/-- The classes of packets (19 R309). -/
inductive PClass where
  | request
  | response
  | multicast
  deriving DecidableEq, Repr

/-- A channel of a link: the two virtual channels of a class, and its escape channel (19 R309). -/
inductive Chan where
  | vc0
  | vc1
  | esc
  deriving DecidableEq, Repr

/-- A direction on the torus. -/
inductive Dir where
  | xp
  | xm
  | yp
  | ym
  deriving DecidableEq, Repr

/-- A link that a packet takes: domain-wide die, router 8 y + x it leaves, direction, channel (19 R310). -/
structure Hop where
  die : Nat
  router : Nat
  dir : Dir
  chan : Chan
  deriving DecidableEq, Repr

/-- A packet in flight: the number of the message it carries, class, source and destination router, numbered as cores are, the links it has still to
take, the clk since which its head waits at its router, that it has moved to the escape channel (19 R309 to R311), and the multicast that it is a copy
of, 0 for none (R315). -/
structure Packet where
  msg : Nat
  cls : PClass
  src : Nat
  dst : Nat
  path : List Hop
  since : Nat
  esc : Bool
  cast : Nat := 0
  deriving DecidableEq, Repr

/-- The state of the domain.
(DESIGN CHOICE, unsafe: notes/assumptions/51.) -/
structure State where
  /-- clk since reset -/
  clk : Nat
  /-- the model's counter of free values drawn -/
  fresh : Nat
  /-- the model's counter of producer tokens -/
  tokens : Nat
  /-- the strand whose turn it is -/
  cur : Nat
  /-- the model's input: what happens next, in order -/
  sched : List Turn
  /-- with sched empty: the next turn is the agenda's, not a strand's -/
  evTurn : Bool
  /-- the model's input: the vector sequencer captures a STRIP body into the replay buffer (07 R127: it may) -/
  capture : Bool
  /-- events that instructions have set going, oldest first -/
  agenda : List Instr
  mem : Memory
  /-- poisoned ECC granules, by address / 64 (23 R373) -/
  poison : List Nat
  /-- turn tags by granule number; an unlisted granule has G empty and T = DOMAIN -/
  tags : Map Tag
  inbound : List Inbound
  outbound : List Outbound
  merges : List Merge
  vers : Map Vers
  adq : List AdUpdate
  homeq : List HomeReq
  remote : List Remote
  deltas : List Delta
  xfers : List Xfer
  colls : List Coll
  /-- atomics' queues: events on a granule since its last atomic, while others wait (15 R262) -/
  gap : Map Nat
  /-- packets in flight on the dies (19 R309) -/
  net : List Packet
  /-- messages on their way over Dexlink, and messages that no port could deliver (19 R319) -/
  transit : List Nat
  lost : List Nat
  /-- lost module numbers and the modules that answer to them (22 R363, R366) -/
  redirect : Map Nat
  /-- responses to masters outside the strands, oldest first -/
  replies : List HostReply
  strands : Map Strand
  cores : Map Core
  mods : Map Module
  deriving DecidableEq, Repr

/-- Why the machine stops. No rule of the spec stops the machine: every failure of an instruction is a trap, which is a next state. -/
inductive Fault where
  /-- raised by nothing: safe -/
  | none
  deriving DecidableEq, Repr

/-- Why an instruction has no meaning. -/
inductive Refusal where
  /-- an instruction that the model does not give a meaning; safe -/
  | notModelled (mnemonic : String)
  deriving DecidableEq, Repr

/-! ## Reset (05 R86, 24 R383) -/

/-- A scalar register at reset: the spec gives no value; 0, full (DESIGN CHOICE, notes/assumptions/1). -/
def SReg.zero : SReg := ⟨0, true, .clean, 0⟩
/-- A loop-stack entry at reset (05 R86). -/
def Loop.zero : Loop := ⟨0, 0, 0, 0, false, 0⟩
/-- STATUS at reset: PRV = 1, every other bit 0 (05 R86). -/
def Status.reset : Status := ⟨true, false, false, false, false, false, false, false⟩
/-- CAUSE, EPC, TVAL at reset. -/
def TrapRegs.reset : TrapRegs := ⟨false, false, 0, 0, 0, 0⟩
/-- UIVEC, UIEPC, UISTAT at reset. -/
def UserInt.reset : UserInt := ⟨0, 0, false, 0, 0⟩
/-- The vector and float registers at reset (08 R148, R150, 09 R157): every FFIRST field 0xFFFF, LFSR and LSEED 1, EWMAX 2, SLIP 7, every
tag f32, SPMODE.INTLV 2. -/
def VecRegs.reset : VecRegs :=
  ⟨0, 0xFFFFFFFFFFFFFFFFFFFFFFFF, 1, 1, 0, 0, 0x2000000, 7, 0xDDDDDDDDDDDDDDDDDDDDDDDDDDDDDDDD, 2⟩
/-- A strand at reset. -/
def Strand.reset : Strand :=
  { run := .held, pc := 0, line := none, sregs := [], loops := [], loopd := 0, status := .reset, trap := .reset, tvec := 0, hsave := 0
    saveptr := 0, cktab := 0, vstate := 0, vdirty := 0, ptroot := 0, ui := .reset, vec := .reset, sksz := 2, skrnd := 4, skmax := 8
    sktab := 0, lqroot := 0, lqcode := 0, qregs := [], reports := [], preqClk := 0, tlb := [], walked := [], prods := [], bindings := []
    replay := none, prot := [], unturned := [], turned := [], cont := none, tickets := [], atomics := 0, ordered := 0, saveDue := none, landed := none, yielded := none, start := none
    early := [], late := false, tested := none, asked := none, sealing := none, cut := none }
/-- A vector register at reset: no value is given; 0, full. -/
def VReg.zero : VReg := ⟨0, true, 0, 0⟩
/-- A mask register at reset. -/
def KReg.zero : KReg := ⟨0, true, 0, 0⟩
/-- A tile at reset: the spec gives no contents; zero. -/
def Tile.zero : Tile := ⟨0, 0⟩
/-- An accumulator bank at reset: the spec gives no contents; zero. -/
def Bank.zero : Bank := ⟨0, 0⟩
/-- A codebook slot at reset: empty (12 R225). -/
def Slot.empty : Slot := ⟨0, 0, false⟩
/-- Nothing latched. -/
def Latch.none : Latch := ⟨false, 0, 1, false, false⟩
/-- The reset descriptor of a tile (12 R217). -/
def tileDescReset : BitVec 32 := 0x00010F7F
/-- The matrix engine at reset (12 R217, R222, R225). -/
def Matrix.reset : Matrix :=
  { tiles := [], banks := [], slots := [], weights := [], wbad := 0, latch := .none, mctl := 0, flags := 0, drow := 0, desc := []
    iLatch := .none, iMctl := 0, iDrow := 0, queue := [] }
/-- A core at reset: VPART.BND = 16 (03 R54). -/
def Core.reset : Core :=
  { hand := [], vpart := 16, v := [], k := [], scratch := [], spoison := [], wcb := [], window := [], swz := [], mx := .reset }
/-- The Hamper at reset: nothing launched; slots and PWAIT are firmware's, set at STRAND_RELEASE.
(DESIGN CHOICE, unsafe: notes/assumptions/44.) -/
def Hamper.reset : Hamper :=
  { grids := [], recs := [], lastGrid := 0, regs := [], slots := 65536, pwait := 1024, withdrawn := [], bars := [], nextw := [], seq := 0
    reserved := [] }
/-- The management controller at reset: the boot ROM has not run; the TAP is enabled (24 R389). The spec gives the power cap and the fuses no
value at reset. -/
def Mgmt.reset : Mgmt :=
  { boot := 0, fuses := ⟨0, 0, []⟩, identity := 0, version := 0, minVersion := 0, meas := [0, 0, 0, 0], released := false, tap := true, cap := 3300, throttled := false, down := false
    cmd := none, asker := 0, halts := [] }
/-- Rinse at reset (23 R379). -/
def Rinse.reset : Rinse := { patrol := 24, cethr := 256, errors := [], reenc := [], acts := [], listed := [] }
/-- A Dexlink port at reset: all eight lanes, nothing sent.
(DESIGN CHOICE, unsafe: notes/assumptions/41.) -/
def DexPort.reset : DexPort := { lanes := 8, up := true, links := [] }
/-- What a port keeps for a peer at reset: nothing sent, nothing received. -/
def DexLink.reset : DexLink := { tx := 0, rx := 0, replay := [], queue := [], ackClk := 0, naks := [], got := 0 }
/-- A module at reset. -/
def Module.reset : Module := { clk0 := 0, hamper := .reset, access := [], log := [], logDrops := 0, firmware := [], pgrp := 0, groups := [], unsurv := [], unreach := [], classes := [], tickets := [], ports := [], mgmt := .reset, rinse := .reset }
/-- The machine right after reset. -/
def State.reset : State :=
  { clk := 0, fresh := 0, tokens := 0, cur := 0, sched := [], evTurn := false, capture := false, agenda := [], mem := [], poison := [], tags := [], inbound := []
    outbound := [], merges := [], vers := [], adq := [], homeq := [], remote := [], deltas := [], xfers := [], colls := [], gap := [], net := [], transit := [], lost := [], redirect := [], replies := [], strands := [], cores := [], mods := [] }

end Sys2Proof.Machine
end

