-- ==== Sys2Proof/Machine/Base.lean ====
section
/-! DEFINITION. Maps, memories, the accessors of State and the geometry of the device (01 R11 to R17). -/
namespace Sys2Proof.Machine

/-! ## Maps and memories -/

/-- The entry of k, or d. -/
def mget {α : Type} (d : α) : Map α → Nat → α
  | [], _ => d
  | (a, x) :: m, k => if k = a then x else mget d m k

/-- The map with entry x at k. -/
def mset {α : Type} (k : Nat) (x : α) : Map α → Map α
  | [] => [(k, x)]
  | (a, y) :: m => if k < a then (k, x) :: (a, y) :: m else if k = a then (k, x) :: m else (a, y) :: mset k x m

/-- The map without k. -/
def mdel {α : Type} (k : Nat) (m : Map α) : Map α := m.filter (fun e => e.1 ≠ k)

/-- The byte at an address; an unlisted address reads as 0 (DESIGN CHOICE, notes/assumptions/2). -/
def Memory.byte : Memory → Nat → Byte
  | [], _ => 0
  | (a, x) :: m, k => if k = a then x else Memory.byte m k

/-- Memory with byte b at address a, in the canonical form. -/
def Memory.put (a : Nat) (b : Byte) : Memory → Memory
  | [] => if b = 0 then [] else [(a, b)]
  | (k, x) :: m =>
    if a < k then (if b = 0 then (k, x) :: m else (a, b) :: (k, x) :: m)
    else if a = k then (if b = 0 then m else (a, b) :: m)
    else (k, x) :: Memory.put a b m

/-- Strictly ascending addresses, each above lo, no byte 0. -/
def Memory.wfFrom (lo : Nat) : Memory → Bool
  | [] => true
  | (a, b) :: m => decide (lo ≤ a) && decide (b ≠ 0) && Memory.wfFrom (a + 1) m

/-- The canonical form of memory. -/
def Memory.wf (m : Memory) : Bool := Memory.wfFrom 0 m

/-- The n bytes at a as a little-endian number (R3). -/
def Memory.readN (m : Memory) (a n : Nat) : Nat :=
  m.foldr (fun c acc => if a ≤ c.1 ∧ c.1 < a + n then acc + c.2.toNat * 256 ^ (c.1 - a) else acc) 0

/-- The n cells of a little-endian number from address a. -/
def cellsOf (a n v : Nat) : List Host.Cell := (List.range n).map (fun i => (a + i, BitVec.ofNat 8 (v / 256 ^ i)))

/-- Writes each cell. -/
def Memory.writeCells (m : Memory) (cs : List Host.Cell) : Memory := cs.foldl (fun m c => Memory.put c.1 c.2 m) m

/-- Writes a little-endian number of n bytes at a. -/
def Memory.writeN (m : Memory) (a n v : Nat) : Memory := Memory.writeCells m (cellsOf a n v)

/-! ## Geometry (01 R11, R13, R15) -/

/-- The core of a strand. -/
def coreOf (p : Nat) : Nat := p / 2
/-- The module of a strand. -/
def moduleOf (p : Nat) : Nat := p / 384
/-- The cluster of a core within its module, 0 to 47. -/
def clusterOfCore (c : Nat) : Nat :=
  let l := c % 192
  l / 48 * 12 + l % 48 / 8 / 2 * 4 + l % 8 / 2
/-- The domain-wide cluster number of a core. -/
def gclusterOfCore (c : Nat) : Nat := c / 192 * 48 + clusterOfCore c
/-- The domain-wide cluster number of a strand. -/
def clusterOf (p : Nat) : Nat := gclusterOfCore (coreOf p)
/-- The domain-wide die number of a strand. -/
def dieOf (p : Nat) : Nat := moduleOf p * 4 + p % 384 / 96

/-- The number of the level-L group that contains strand p, domain-wide. -/
def unitOf (l p : Nat) : Nat :=
  match l with
  | 0 => p
  | 1 => coreOf p
  | 2 => clusterOf p
  | 3 => dieOf p
  | 4 => moduleOf p
  | _ => 0

/-- The same number within its module, as a tag's GID (14 R246). -/
def gidOf (l p : Nat) : Nat :=
  match l with
  | 0 => p % 384
  | 1 => coreOf p % 192
  | 2 => clusterOfCore (coreOf p)
  | 3 => p % 384 / 96
  | _ => 0

/-- lvl(X, Y) (01 R15). -/
def lvl (x y : Nat) : Nat :=
  if x = y then 0 else if coreOf x = coreOf y then 1 else if clusterOf x = clusterOf y then 2
  else if dieOf x = dieOf y then 3 else if moduleOf x = moduleOf y then 4 else 5

/-- A strand of the group numbered gid at level gl of module m. -/
def repOf (gl m gid : Nat) : Nat :=
  m * 384 + (match gl with
    | 0 => gid
    | 1 => gid * 2
    | 2 => (gid / 12 * 48 + gid % 12 / 4 * 2 * 8 + gid % 4 * 2) * 2
    | 3 => gid * 96
    | _ => 0)

/-- What an offset of a module holds (01 R17). -/
inductive Area where
  | die (d : Nat)
  | tier2
  | mailbox
  | nothing
  deriving DecidableEq, Repr

/-- The area of a physical address. -/
def areaOf (pa : Nat) : Area :=
  let o := pa % 2 ^ 44
  if o < 0x8000000000 then .die (o / 0x2000000000)
  else if 0x20000000000 ≤ o ∧ o < 0x38000000000 then .tier2
  else if 0xF0000000000 ≤ o ∧ o < 0xF0000010000 then .mailbox
  else .nothing

/-- The module field of a physical address (19 R320). -/
def paModule (pa : Nat) : Nat := pa / 2 ^ 44 % 256

/-! ## State accessors -/

/-- Strand p. -/
def State.strand (s : State) (p : Nat) : Strand := mget Strand.reset s.strands p
/-- Core c. -/
def State.core (s : State) (c : Nat) : Core := mget Core.reset s.cores c
/-- Module m. -/
def State.modl (s : State) (m : Nat) : Module := mget Module.reset s.mods m
/-- The running strand. -/
def State.me (s : State) : Strand := s.strand s.cur
/-- The running strand's core. -/
def State.mycore (s : State) : Core := s.core (coreOf s.cur)
/-- The running strand's module. -/
def State.mymod (s : State) : Module := s.modl (moduleOf s.cur)
/-- s with strand p replaced. -/
def State.setStrand (s : State) (p : Nat) (x : Strand) : State := { s with strands := mset p x s.strands }
/-- s with core c replaced. -/
def State.setCore (s : State) (c : Nat) (x : Core) : State := { s with cores := mset c x s.cores }
/-- s with module m replaced. -/
def State.setMod (s : State) (m : Nat) (x : Module) : State := { s with mods := mset m x s.mods }
/-- s with strand p changed by f. -/
def State.updStrand (s : State) (p : Nat) (f : Strand → Strand) : State := s.setStrand p (f (s.strand p))
/-- s with core c changed by f. -/
def State.updCore (s : State) (c : Nat) (f : Core → Core) : State := s.setCore c (f (s.core c))
/-- s with module m changed by f. -/
def State.updMod (s : State) (m : Nat) (f : Module → Module) : State := s.setMod m (f (s.modl m))
/-- s with the running strand changed by f. -/
def State.updMe (s : State) (f : Strand → Strand) : State := s.updStrand s.cur f
/-- s with the running strand's core changed by f. -/
def State.updMycore (s : State) (f : Core → Core) : State := s.updCore (coreOf s.cur) f
/-- s with an event set going.
(DESIGN CHOICE, safe: notes/assumptions/7.) -/
def State.post (s : State) (i : Instr) : State := { s with agenda := s.agenda ++ [i] }
/-- A free number and the state that has drawn it. -/
def State.draw (s : State) : Nat × State := (Config.freeNat s.fresh, { s with fresh := s.fresh + 1 })
/-- A new producer token and the state that has given it. -/
def State.token (s : State) : Nat × State := (s.tokens + 1, { s with tokens := s.tokens + 1 })

/-- CLKCNT of module m: clk since its last power-on reset (05 R86). -/
def State.clkcnt (s : State) (m : Nat) : Nat := s.clk - (s.modl m).clk0
/-- SRC of a memory address in the error log: the HBM4E stack, by 4 KiB within its die (01 R17), or the second tier. -/
def srcOf (pa : Nat) : Byte := match areaOf pa with | .tier2 => 8 | .die d => BitVec.ofNat 8 (2 * d + pa % 2 ^ 36 / 4096 % 2) | _ => 0
/-- Appends a record to the error log of module m (23 R382). -/
def State.logWith (s : State) (m : Nat) (type src : Byte) (unit addr : Nat) (detail : Word) : State :=
  s.updMod m (fun x =>
    if x.log.length < 4096 then { x with log := x.log ++ [⟨type, src, unit, 1, addr, s.clkcnt m, detail⟩] }
    else { x with logDrops := x.logDrops + 1 })
/-- Appends a record whose DETAIL, a syndrome or digests of a form that the spec leaves open, is a free value. -/
def State.logRec (s : State) (m : Nat) (type src : Byte) (unit addr : Nat) : State :=
  s.draw.2.logWith m type src unit addr (BitVec.ofNat 64 s.draw.1)

/-- Changes Rinse's registers of module m. -/
def State.updRinse (s : State) (m : Nat) (f : Rinse → Rinse) : State := s.updMod m (fun x => { x with rinse := f x.rinse })
/-- A record of an error in memory (23 R382). -/
def State.logMem (s : State) (m : Nat) (type : Byte) (pa : Nat) : State := s.logRec m type (srcOf pa) (Config.bankOf (pa % 2 ^ 44)) pa
/-- The number of the row of a bank that holds an address. -/
def rowKey (pa : Nat) : Nat := Config.bankOf (pa % 2 ^ 44) * Config.bankRows + Config.rowOf (pa % 2 ^ 44)
/-- An access at a module's memory controllers activates its row; at half its limit the row is listed and its neighbours' refresh goes out (23 R381). The
limit is free, so each field that follows it is decided by itself: all else of the state is known without it.
(DESIGN CHOICE, safe: notes/assumptions/39.) -/
def activate (s : State) (m pa : Nat) : State :=
  let row := rowKey pa
  let x := s.modl m
  let n := mget 0 x.rinse.acts row + 1
  let lists := decide (Config.rowLimit / 2 ≤ n) && !x.rinse.listed.contains row
  let t := (s.logMem m 0x06 pa).post (.neighbourRefresh m row)
  { s with
    fresh := if lists then t.fresh else s.fresh
    agenda := if lists then t.agenda else s.agenda
    mods := mset m { x with
      rinse := { x.rinse with acts := mset row n x.rinse.acts, listed := if lists then x.rinse.listed ++ [row] else x.rinse.listed }
      log := if lists then (t.modl m).log else x.log
      logDrops := if lists then (t.modl m).logDrops else x.logDrops } s.mods }

/-- Sends a MACHINE_CHECK report to firmware (05 R88). -/
def State.toFirmware (s : State) (m who : Nat) (tval : Word) : State :=
  s.updMod m (fun x => { x with firmware := x.firmware ++ [(who, tval)] })

/-! ## Scalar registers (05 R81) -/

/-- The register that number n names, 0 to 31 and 32 to 35 for the shadow s28 to s31. -/
def physReg (uiact : Bool) (n : Nat) : Nat := if uiact && decide (28 ≤ n) then n + 4 else n
/-- Register cell k of a strand; s0 is zero and full. -/
def Strand.cell (st : Strand) (k : Nat) : SReg := if k = 0 then .zero else mget SReg.zero st.sregs k
/-- The cell of register number n in the bank in use. -/
def Strand.sreg (st : Strand) (n : Nat) : SReg := st.cell (physReg st.status.uiact n)
/-- The value of register number n. -/
def Strand.sval (st : Strand) (n : Nat) : Word := (st.sreg n).val
/-- Replaces cell k; a write to s0 is discarded. -/
def Strand.setCell (st : Strand) (k : Nat) (c : SReg) : Strand := if k = 0 then st else { st with sregs := mset k c st.sregs }
/-- Writes register number n: value, full, clean, no producer outstanding. -/
def Strand.setS (st : Strand) (n : Nat) (v : Word) : Strand := st.setCell (physReg st.status.uiact n) ⟨v, true, .clean, 0⟩
/-- Marks register number n empty for the producer with the token. -/
def Strand.markEmpty (st : Strand) (n tok : Nat) : Strand :=
  st.setCell (physReg st.status.uiact n) { st.sreg n with full := false, tok := tok }
/-- A producer fills cell k if it still is the register's latest writer (03 R47). -/
def Strand.fill (st : Strand) (k tok : Nat) (v : Word) (m : Mark) : Strand :=
  if (st.cell k).tok = tok ∧ tok ≠ 0 then st.setCell k ⟨v, true, m, 0⟩ else st
/-- Writes a scalar register of the running strand. -/
def State.setS (s : State) (n : Reg) (v : Word) : State := s.updMe (fun st => st.setS n.toNat v)

end Sys2Proof.Machine
end

