-- ==== Sys2Proof/Machine/Network.lean ====
section
/-! DEFINITION. The on-die network (19 R309 to R315): routers, routes with their channels, hub ports, the snake order of a multicast; packets in
flight; and the Dexlink ports with the messages that they carry (19 R317 to R319). -/
namespace Sys2Proof.Machine

/-! ## Routes (19 R309 to R311, R314) -/

/-- x and y of a router of a die (01 R11). -/
def routerX (r : Nat) : Nat := r % 8
def routerY (r : Nat) : Nat := r / 8
/-- The way round a ring of n from a to b: steps, and whether in the positive direction, which a tie takes (R310). -/
def ringWay (n a b : Nat) : Nat × Bool :=
  let fwd := (b + n - a) % n
  if 2 * fwd ≤ n then (fwd, true) else (n - fwd, false)
/-- The positions on a ring from a, k steps in a direction; each with the channel of the link that leaves it: VC0 up to the wrap link, VC1 from
the wrap link on (R310). -/
def ringHops (n : Nat) (pos : Bool) : Nat → Nat → Bool → List (Nat × Chan)
  | 0, _, _ => []
  | k + 1, a, crossed =>
    let wrap := if pos then a + 1 == n else a == 0
    let c := crossed || wrap
    (a, if c then .vc1 else .vc0) :: ringHops n pos k (if pos then (a + 1) % n else (a + n - 1) % n) c
/-- The router that a link leads to. -/
def Hop.leads (h : Hop) : Nat :=
  match h.dir with
  | .xp => 8 * routerY h.router + (routerX h.router + 1) % 8
  | .xm => 8 * routerY h.router + (routerX h.router + 7) % 8
  | .yp => 8 * ((routerY h.router + 1) % 6) + routerX h.router
  | .ym => 8 * ((routerY h.router + 5) % 6) + routerX h.router
/-- The links from router a to router b of a die: x first, then y, each ring entered on VC0 (R310). -/
def dieRoute (die a b : Nat) : List Hop :=
  let wx := ringWay 8 (routerX a) (routerX b)
  let wy := ringWay 6 (routerY a) (routerY b)
  (ringHops 8 wx.2 wx.1 (routerX a) false).map (fun h => ⟨die, 8 * routerY a + h.1, if wx.2 then .xp else .xm, h.2⟩)
    ++ (ringHops 6 wy.2 wy.1 (routerY a) false).map (fun h => ⟨die, 8 * h.1 + routerX b, if wy.2 then .yp else .ym, h.2⟩)
/-- The links from a to b on the escape channel: dimension order over the mesh, never a wrap link (R311). -/
def escapeRoute (die a b : Nat) : List Hop :=
  let ax := routerX a
  let bx := routerX b
  let ay := routerY a
  let by_ := routerY b
  (List.range (if ax ≤ bx then bx - ax else ax - bx)).map (fun i =>
      ⟨die, 8 * ay + (if ax ≤ bx then ax + i else ax - i), if ax ≤ bx then .xp else .xm, .esc⟩)
    ++ (List.range (if ay ≤ by_ then by_ - ay else ay - by_)).map (fun i =>
      ⟨die, 8 * (if ay ≤ by_ then ay + i else ay - i) + bx, if ay ≤ by_ then .yp else .ym, .esc⟩)
/-- The router of hub port i of a die: (1,0), (5,0), (2,5), (6,5) (R314). -/
def hubRouter (i : Nat) : Nat := match i with | 0 => 1 | 1 => 5 | 2 => 42 | _ => 46
/-- The hub port of a packet: by its physical address, or, when it carries none, by its source router (R314). -/
def hubPort (src : Nat) (pa : Option Nat) : Nat :=
  match pa with
  | some a => a / 256 % 4
  | none => routerX (src % 48) / 4 + 2 * (routerY (src % 48) / 3)
/-- The number that stands for the hub die of a module, beyond all routers: what has no router of a compute die is there. -/
def hubOf (m : Nat) : Nat := 49152 + m
/-- A number names a hub die. -/
def isHub (r : Nat) : Bool := decide (49152 ≤ r)
/-- The module of a router or hub. -/
def routerModule (r : Nat) : Nat := if isHub r then r - 49152 else r / 192
/-- The links from one router to another: on its own die, or through the hub, which passes the packet to the same port of the other die; what comes
from the hub or stays there has links on one die alone (R314). -/
def coreRoute (src dst : Nat) (pa : Option Nat) : List Hop :=
  if src / 48 = dst / 48 ∧ isHub src = false then dieRoute (src / 48) (src % 48) (dst % 48)
  else
    let h := hubRouter (hubPort src pa)
    (if isHub src then [] else dieRoute (src / 48) (src % 48) h) ++ (if isHub dst then [] else dieRoute (dst / 48) h (dst % 48))
/-- The router where an offset of a module has its home: one of the controllers of its die, which the spec does not place, or the hub (01 R17, R314).
(DESIGN CHOICE, safe: notes/assumptions/52.) -/
def homeRouter (m pa : Nat) : Nat :=
  match areaOf pa with
  | .die d => (m * 4 + d) * 48 + Config.ctrlRouter (pa / 256) % 48
  | _ => hubOf m
/-- The snake index of a router (R315). -/
def snakeIx (r : Nat) : Nat := 8 * routerY r + (if routerY r % 2 = 0 then routerX r else 7 - routerX r)
/-- The cores of a multicast in the order in which it visits them: dies in ascending number, on each the snake (R315). -/
def snakeOrder (cores : List Nat) : List Nat :=
  cores.mergeSort (fun a b => decide (a / 48 < b / 48) || (a / 48 == b / 48 && decide (snakeIx (a % 48) ≤ snakeIx (b % 48))))

/-- The module that answers to a module number (22 R363, R366). -/
def State.answers (s : State) (m : Nat) : Nat := mget m s.redirect m

/-! ## Dexlink ports (19 R317 to R319) -/

/-- Port i of module m. -/
def portAt (s : State) (m i : Nat) : DexPort := mget DexPort.reset (s.modl m).ports i
/-- Port i of module m replaced. -/
def setPort (s : State) (m i : Nat) (x : DexPort) : State := s.updMod m (fun y => { y with ports := mset i x y.ports })
/-- What a port keeps for peer q. -/
def DexPort.link (x : DexPort) (q : Nat) : DexLink := mget DexLink.reset x.links q
/-- What port i of module m keeps for peer q. -/
def linkAt (s : State) (m i q : Nat) : DexLink := (portAt s m i).link q
/-- It, replaced. -/
def setLink (s : State) (m i q : Nat) (l : DexLink) : State :=
  setPort s m i { portAt s m i with links := mset q l (portAt s m i).links }
/-- Both ends of port i between two modules are up. -/
def portJoins (s : State) (a b i : Nat) : Bool := (portAt s a i).up && (portAt s b i).up
/-- VCC of a message: the class of the packet that it goes on from or will be (R309, R318). -/
def vccOf (s : State) (msg : Nat) : BitVec 2 :=
  match s.net.find? (fun x => x.msg = msg) with
  | some x => match x.cls with | .request => 0 | .response => 1 | .multicast => 2
  | none => 0
/-- The flit of a link's replay entry as it arrives undisturbed: its sequence number and the number last received in order. -/
def dataFlit (s : State) (l : DexLink) (seq msg : Nat) : Flit := ⟨BitVec.ofNat 12 seq, BitVec.ofNat 12 (l.rx + 4095), 1, vccOf s msg, true, true⟩
/-- A message leaves on port i of module m for peer q in a data flit, which is kept for replay; with 512 flits kept it waits for room (R319). -/
def queueFlit (s : State) (m i q msg : Nat) : State :=
  let l := linkAt s m i q
  if 512 ≤ l.replay.length then setLink s m i q { l with queue := l.queue ++ [msg] }
  else
    (setLink s m i q { l with tx := (l.tx + 1) % 4096, replay := l.replay ++ [(l.tx, 0, msg)], ackClk := if l.replay.isEmpty then s.clk else l.ackClk }).post
      (.flitReceive q (m * 24 + i) (dataFlit s l l.tx msg))
/-- A message, 0 for one that nothing waits for, leaves module m for module peer on the lowest port that joins them; with none left it is lost
(R319). -/
def sendMsg (s : State) (m peer msg : Nat) : State :=
  if m = peer then s
  else match (List.range 24).find? (fun i => portJoins s m peer i) with
    | none => if msg = 0 then s else { s with lost := s.lost ++ [msg] }
    | some i => queueFlit (if msg = 0 then s else { s with transit := s.transit ++ [msg] }) m i peer msg
/-- A message that nothing waits for. -/
def sendFlit (s : State) (m peer : Nat) : State := sendMsg s m peer 0

/-! ## Packets in flight (19 R309 to R313) -/

/-- A packet leaves a router; cast is the multicast that it is a copy of. -/
def inject (s : State) (msg : Nat) (cls : PClass) (src dst : Nat) (path : List Hop) (cast : Nat := 0) : State :=
  { s with net := s.net ++ [⟨msg, cls, src, dst, path, s.clk, false, cast⟩] }
/-- Two packets go in one class from one router to one other: they are delivered in their order (R313). -/
def Packet.pairs (x y : Packet) : Bool := x.cls == y.cls && x.src == y.src && x.dst == y.dst
/-- The packets that go before a message's in the order of its pair of routers. -/
def packetsBefore (s : State) (msg : Nat) : List Packet :=
  match s.net.find? (fun x => x.msg = msg) with
  | none => []
  | some x => (s.net.takeWhile (fun y => y.msg != msg)).filter (fun y => y.pairs x)
/-- A message has reached its destination, and with it every earlier one of its pair (R313, R319). -/
def State.arrived (s : State) (msg : Nat) : Bool :=
  !s.transit.contains msg && !(packetsBefore s msg).any (fun y => s.transit.contains y.msg)
/-- A packet has been delivered, and before it those of its pair that went ahead. -/
def eject (s : State) (msg : Nat) : State :=
  let before := packetsBefore s msg
  { s with net := s.net.filter (fun x => x.msg ≠ msg && !before.contains x) }
/-- A request from a router to the home of an address: its packet, and its Dexlink message when the module that answers is another one. -/
def sendRequest (s : State) (src pa : Nat) : Nat × State :=
  let t := s.token
  let m := s.answers (paModule pa)
  let dst := homeRouter m pa
  (t.1, sendMsg (inject t.2 t.1 .request src dst (coreRoute src dst (some pa))) (src / 192) m t.1)
/-- A request from a strand to the home of an address. -/
def toHome (s : State) (p pa : Nat) : Nat × State := sendRequest s (coreOf p) pa
/-- The answer of a home, or of another core, to a core: a packet of the response class. -/
def sendAnswer (s : State) (src core : Nat) (pa : Option Nat) : Nat × State :=
  let t := s.token
  (t.1, sendMsg (inject t.2 t.1 .response src core (coreRoute src core pa)) (routerModule src) (core / 192) t.1)
/-- The answer of the home of an address to a core. -/
def fromHome (s : State) (pa core : Nat) : Nat × State := sendAnswer s (homeRouter (s.answers (paModule pa)) pa) core (some pa)
/-- The links of a multicast to a target: from the target before it on the die, or as any packet from the source (R315). -/
def multiRoute (src : Nat) (before : Option Nat) (dst : Nat) : List Hop :=
  match before with
  | some b => if b / 48 = dst / 48 then dieRoute (dst / 48) (b % 48) (dst % 48) else coreRoute src dst none
  | none => coreRoute src dst none
/-- A packet from a strand to another core, over the links given. -/
def toCore (s : State) (p : Nat) (cls : PClass) (core : Nat) (path : List Hop) : Nat × State :=
  let t := s.token
  let s := inject t.2 t.1 cls (coreOf p) core path
  (t.1, sendMsg s (moduleOf p) (core / 192) t.1)
/-- A message need not be waited for any more: its packet goes. -/
def State.delivered (s : State) (msg : Nat) : State :=
  { (eject s msg) with lost := s.lost.filter (· ≠ msg), transit := s.transit.filter (· ≠ msg) }

/-- A packet that has waited 64 clk at a router moves to the escape channel there, and stays in it: on the die where it is it goes on over the
mesh; how far it had come is a free number of links (19 R311).
(DESIGN CHOICE, safe: notes/assumptions/52.) -/
def Packet.escape (x : Packet) (taken : Nat) : Packet :=
  let left := x.path.drop taken
  match left with
  | [] => { x with path := [], esc := true }
  | h :: _ =>
    let here := left.takeWhile (fun y => y.die == h.die)
    let rest := left.dropWhile (fun y => y.die == h.die)
    let beyond := match rest with
      | [] => []
      | r :: _ => escapeRoute r.die r.router (rest.getLastD r).leads
    { x with path := escapeRoute h.die h.router (here.getLastD h).leads ++ beyond, esc := true }

end Sys2Proof.Machine
end

