-- ==== Sys2Proof/Machine/Mem.lean ====
section
/-! DEFINITION. Memory as a strand meets it: turn tags (04 R61 to R67, 14 R246, R247), homes, protected frames and lost modules
(22 R359 to R364), the outbound path (14 R244, R260), inbound copies, access tables (24 R386, R387), versioned pages (15 R271, R272),
translation (10 R186 to R190) and the checks of an access (06 R108, 04 R66). -/
namespace Sys2Proof.Machine

/-! ## Turn tags -/

/-- Number of the turn granule of a physical address. -/
def granOf (pa : Nat) : Nat := pa / 256
/-- The module of the home of a granule. -/
def granModule (g : Nat) : Nat := paModule (g * 256)
/-- The tag a frame is initialised with: G empty, T = DOMAIN (04 R61); also the tag at reset (DESIGN CHOICE, notes/assumptions/3). -/
def Tag.init : Tag := ⟨5, 7, false, 0, 0⟩
/-- The tag of a granule. -/
def State.tag (s : State) (g : Nat) : Tag := mget Tag.init s.tags g
/-- s with the granule's tag replaced. -/
def State.setTag (s : State) (g : Nat) (t : Tag) : State := { s with tags := mset g t s.tags }
/-- The largest GID at a level (14 R247). -/
def maxGid (gl : Nat) : Nat := match gl with | 0 => 383 | 1 => 191 | 2 => 47 | 3 => 3 | _ => 0
/-- A corrupt tag (14 R247). -/
def Tag.corrupt (t : Tag) : Bool := t.t == 6 || t.gl == 6 || (decide (t.gl ≤ 5) && decide (maxGid t.gl < t.gid))
/-- A strand of the tag's group G. -/
def Tag.rep (t : Tag) (g : Nat) : Nat := repOf t.gl (if t.fx then t.md else granModule g) t.gid
/-- lvl(X, G) for strand x and the tag's group (01 R15, 04 R61). -/
def Tag.lvl (t : Tag) (g x : Nat) : Nat := if t.gl = 7 then 0 else if t.gl = 5 then 5 else Nat.max t.gl (Machine.lvl x (t.rep g))
/-- The tag's G widened to hold the level-gl group of strand x, T kept (04 R63). -/
def Tag.widen (t : Tag) (g gl x : Nat) : Tag :=
  let l := if t.gl = 7 then gl else if t.gl = 5 then 5 else Nat.max gl (Nat.max t.gl (Machine.lvl x (t.rep g)))
  if l = 5 then { t with gl := 5, fx := false, md := 0, gid := 0 }
  else
    let far := moduleOf x ≠ granModule g
    { t with gl := l, fx := far, md := if far then moduleOf x else 0, gid := gidOf l x }
/-- T of a tag allows a read at a required level (04 R64). -/
def Tag.allows (t : Tag) (need : Nat) : Bool := t.t != 7 && decide (need ≤ t.t)
/-- G lies within strand y's level-l group (04 R65). -/
def Tag.within (t : Tag) (g l y : Nat) : Bool := t.gl == 7 || decide (t.lvl g y ≤ l)
/-- The greater of two turned levels; none is below SELF. -/
def maxT (a b : Nat) : Nat := if a = 7 then b else if b = 7 then a else Nat.max a b

/-! ## Reports (05 R90) -/

/-- A corrupt tag met at a granule is logged where it stands (14 R247, 23 R382). -/
def State.logTag (s : State) (g : Nat) : State := s.logMem (s.answers (granModule g)) 0x0A (g * 256)
/-- The corrupt ones among the tags of these granules are logged, each once. -/
def State.logTags (s : State) (gs : List Nat) : State := (gs.eraseDups.filter (fun g => (s.tag g).corrupt)).foldl State.logTag s
/-- A report of a failed access reaches strand p, or is dropped and logged when four are held. -/
def State.report (s : State) (p : Nat) (qual : Byte) (addr : Word) : State :=
  if (s.strand p).reports.length < 4 then s.updStrand p (fun st => { st with reports := st.reports ++ [⟨qual, addr⟩] })
  else s.logRec (moduleOf p) 0x0D 9 (coreOf p % 192) addr.toNat

/-! ## Access tables -/

/-- The kind of an access for the access tables and the leaf rights. -/
inductive Kind where
  | read
  | write
  | atomic
  | fetch
  deriving DecidableEq, Repr

/-- The target of an address in an access table: compute dies 0 to 3, hub 4, mailbox 5 (24 R386). -/
def targetOf (pa : Nat) : Option Nat :=
  match areaOf pa with
  | .die d => some d
  | .tier2 => some 4
  | .mailbox => some 5
  | .nothing => none

/-- The entry of an endpoint in a target's table; an unlisted entry is zero (24 R386: before boot nothing is allowed). -/
def accessEntry (s : State) (m target ep : Nat) : Word :=
  match (s.modl m).access.find? (fun a => a.target = target ∧ a.ep = ep) with
  | some a => a.entry
  | none => 0

/-- The address lies on a registered launch queue page of its module (17 R283, R284). -/
def onQueuePage (s : State) (pa : Nat) : Bool :=
  (s.modl (s.answers (paModule pa))).hamper.regs.any (fun r => r.2.frame == pa / 65536)

/-- The target's table allows the access (24 R386); an offset that maps nothing refuses it (01 R17).
(DEDUCED, unsafe: notes/assumptions/24.) -/
def tableAllows (s : State) (ep pa : Nat) (k : Kind) : Bool :=
  match targetOf pa with
  | none => false
  | some t =>
    let e := accessEntry s (s.answers (paModule pa)) t ep
    let bits := match k with | .read => e.getLsbD 0 | .fetch => e.getLsbD 0 | .write => e.getLsbD 1 | .atomic => e.getLsbD (if onQueuePage s pa then 3 else 2)
    let clean := (e >>> 48 == 0#64) && ((e >>> 5) &&& 0x7FFF#64 == 0#64)
    if t = 5 then clean && e.getLsbD 4 && bits && k != .atomic
    else clean && bits && decide (((e >>> 20) &&& 0x3FFF#64).toNat ≤ pa % 2 ^ 44 / 2 ^ 30)
      && decide (pa % 2 ^ 44 / 2 ^ 30 ≤ ((e >>> 34) &&& 0x3FFF#64).toNat)

/-! ## Homes, protected frames and lost modules -/

/-- Index of a module in a group, or its length. -/
def memberIx (g : PGroup) (m : Nat) : Nat := g.members.idxOf m
/-- The groups in force at a module: PGRP.EN = 1 and STATE not 0 (22 R357). -/
def groupsAt (s : State) (m : Nat) : List (Nat × PGroup) :=
  let x := s.modl m
  if x.pgrp.getLsbD 0 then x.groups.filter (fun e => e.2.state ≠ 0) else []
/-- The group of module m whose region holds an offset, with the stripe and the offset in its frame (22 R359). -/
def stripeAt (s : State) (m off : Nat) : Option (Nat × PGroup × Nat × Nat) :=
  (groupsAt s (s.answers m)).findSome? (fun e =>
    if e.2.base ≤ off ∧ off < e.2.base + e.2.size ∧ e.2.members.contains m
    then some (e.1, e.2, (off - e.2.base) / 65536, (off - e.2.base) % 65536) else none)
/-- The member that holds a stripe's parity (22 R359). -/
def holderOf (g : PGroup) (stripe : Nat) : Nat := g.members.getD (stripe % (g.k + 1)) 0
/-- The address is served by reconstruction: its module is the group's lost member and the stripe is not rebuilt (22 R364, R365). -/
def degradedAt (s : State) (pa : Nat) : Option (Nat × PGroup × Nat × Nat) :=
  match stripeAt s (paModule pa) (pa % 2 ^ 44) with
  | none => none
  | some (n, g, stripe, o) =>
    if (g.state = 2 ∨ (g.state = 3 ∧ g.done ≤ stripe)) ∧ memberIx g (paModule pa) = g.lostix then some (n, g, stripe, o) else none
/-- The number of a group that is degraded or rebuilding names the member that it has lost (22 R364). -/
def lostIn (g : PGroup) (m : Nat) : Bool := (g.state == 2 || g.state == 3) && memberIx g m == g.lostix
/-- Where the bytes of a physical address stand: in the memory of the module that answers to its number, its own or the target that has rebuilt it; while the
target rebuilds, the stripes done stand there already (22 R365, R366). -/
def physOf (s : State) (pa : Nat) : Nat :=
  let m := paModule pa
  match stripeAt s m (pa % 2 ^ 44) with
  | some (_, g, stripe, _) =>
    if lostIn g m then (if g.state = 3 ∧ stripe < g.done then g.repl * 2 ^ 44 + pa % 2 ^ 44 else pa)
    else s.answers m * 2 ^ 44 + pa % 2 ^ 44
  | none => pa
/-- The row of an address is activated where its bytes stand (23 R381). -/
def opensRow (s : State) (pa : Nat) : State := activate s (paModule (physOf s pa)) (physOf s pa)
/-- The row that holds offset o of every member's frame of a stripe but one's is activated (23 R381); an access to a whole frame counts at the row where it
begins.
(DESIGN CHOICE, unsafe: notes/assumptions/39.) -/
def opensStripe (s : State) (g : PGroup) (skip stripe o : Nat) : State :=
  (List.range (g.k + 1)).foldl (fun t ix =>
    let m := s.answers (g.members.getD ix 0)
    if ix = skip then t else activate t m (m * 2 ^ 44 + g.base + stripe * 65536 + o)) s
/-- A second member is lost beside the one that its group reconstructs: its number is served by another member, which has no data for it, and reads of
the address deliver poison (22 R364). -/
def deadAt (s : State) (pa : Nat) : Bool :=
  let m := paModule pa
  s.answers m != m && (match stripeAt s m (pa % 2 ^ 44) with
    | some (_, g, _, _) => g.members.contains (s.answers m) && !lostIn g m
    | none => false)
/-- The member that now holds a stripe's parity: the rebuild target once it has rebuilt a lost one (22 R362, R365). -/
def holderNow (s : State) (g : PGroup) (stripe : Nat) : Nat :=
  if g.state = 3 ∧ stripe < g.done ∧ stripe % (g.k + 1) = g.lostix then g.repl else s.answers (holderOf g stripe)
/-- The stripe of an address is being sealed: new writes to its data frames wait at their homes (22 R368). -/
def heldAt (s : State) (pa : Nat) : Bool :=
  s.strands.any (fun e => match e.2.sealing with
    | none => false
    | some h => match stripeAt s (paModule pa) (pa % 2 ^ 44) with
      | none => false
      | some (_, g, stripe, _) => h == (holderOf g stripe, g.base / 65536 + stripe))
/-- The granule's queue lets no further event between two of its atomics (15 R262). -/
def gapFull (s : State) (g : Nat) : Bool :=
  s.gap.any (fun e => e.1 == g && decide (0 < e.2)) && s.homeq.any (fun r => granOf r.pa == g)
/-- Another event than an atomic on a granule has taken place. -/
def gapEvent (s : State) (g : Nat) : State :=
  if s.gap.any (fun e => e.1 == g) then { s with gap := mset g (mget 0 s.gap g + 1) s.gap } else s
/-- An event on a granule waits: for the next atomic of its queue, or for a seal (15 R262, 22 R368).
(DEDUCED, unsafe: notes/assumptions/56.) -/
def eventHeld (s : State) (pa : Nat) : Bool := gapFull s (granOf pa) || heldAt s pa

/-- Marks a stripe UNSURV at the module that holds its parity and logs it (22 R362). -/
def markUnsurv (s : State) (h n stripe pa : Nat) : State :=
  (s.updMod h (fun x => { x with unsurv := (n, stripe) :: x.unsurv.filter (fun e => e ≠ (n, stripe)) })).logRec h 0x0B 10 0 pa
/-- The module number of an address is lost and no serving member answers for the address: it lies outside the protected region, or the number has
not been redirected to one that a group names (22 R363, R366). -/
def lostAt (s : State) (pa : Nat) : Bool :=
  let h := paModule pa
  s.answers h != h && (stripeAt s h (pa % 2 ^ 44)).isNone
/-- The address lies on a compute die that its module has powered down (24 R390): its controllers answer nothing.
(DESIGN CHOICE, unsafe: notes/assumptions/60.) -/
def dieDown (s : State) (pa : Nat) : Bool :=
  (s.modl (paModule pa)).mgmt.down && (match areaOf pa with | .die _ => true | _ => false)
/-- No port of module m reaches the home of an address: its module is unreachable and no serving member answers for it, or none that a port
reaches, or its die is powered down (19 R319, 22 R363, 24 R390). What stays on the module needs no port (19 R320).
(DEDUCED, unsafe: notes/assumptions/25.) -/
def unreachable (s : State) (m pa : Nat) : Bool :=
  let h := paModule pa
  if dieDown s pa then true
  else if h = m then false
  else if s.answers h = h then (s.modl m).unreach.contains h
  else lostAt s pa || (s.modl m).unreach.contains (s.answers h)
/-- The address of byte o of a member's frame of a stripe. -/
def memberAddr (g : PGroup) (ix stripe o : Nat) : Nat := g.members.getD ix 0 * 2 ^ 44 + g.base + stripe * 65536 + o

/-- The address lies in a frame with rows that re-encoding has retired, the highest 1/32 of its bank's: it reads as 0, poisoned (23 R380). -/
def retiredAt (s : State) (pa : Nat) : Bool :=
  (s.modl (paModule pa)).rinse.reenc.any (fun e => decide (2 ≤ e.2.state) && (Config.retiredFrames e.1).contains (pa % 2 ^ 44 / 65536))
/-- What n bytes of one ECC granule of a module's own memory hold, and their poison; a die that is powered down delivers nothing. -/
def cellRead (s : State) (pa n : Nat) : Nat × Bool := if retiredAt s pa || dieDown s pa then (0, true) else (s.mem.readN pa n, s.poison.contains (pa / 64))
/-- An ECC granule of a module's own memory becomes poisoned where it stands, which its controller logs (23 R374, R382). -/
def poisonAt (s : State) (pa : Nat) : State :=
  let e := pa / 64
  State.logMem { s with poison := e :: s.poison.filter (· ≠ e) } (paModule pa) 0x02 (e * 64)

/-- Folds a delta into the parity row at its holder; an uncorrectable parity row marks the stripe and is poisoned (22 R361, R362). A target that refuses it is
reported to firmware (24 R386, R387). -/
def foldDelta (s : State) (d : Delta) (bad : Bool) : State :=
  match (groupsAt s (s.answers d.home)).find? (fun e => e.1 = d.group) with
  | none => s
  | some (_, g) =>
    let hix := d.stripe % (g.k + 1)
    let h := holderNow s g d.stripe
    let pa := h * 2 ^ 44 + g.base + d.stripe * 65536 + d.off
    let mark := fun (t : State) => markUnsurv t h d.group d.stripe pa
    if (g.state = 2 ∨ (g.state = 3 ∧ g.done ≤ d.stripe)) ∧ hix = g.lostix then mark s
    else if !tableAllows s (s.answers d.home) pa .atomic then mark (s.toFirmware (s.answers d.home) 1024 (BitVec.ofNat 64 pa))
    else
      let s := activate s h pa
      if bad || (cellRead s pa 64).2 then mark (poisonAt s pa)
      else { s with mem := Memory.writeN s.mem pa 64 (s.mem.readN pa 64 ^^^ d.data.toNat) }

/-- Folds every outstanding delta of a stripe (22 R364, R365, R368). -/
def foldStripe (s : State) (n stripe : Nat) : State :=
  let mine := s.deltas.filter (fun d => d.group = n ∧ d.stripe = stripe)
  mine.foldl (fun t d => foldDelta t d false) { s with deltas := s.deltas.filter (fun d => ¬ (d.group = n ∧ d.stripe = stripe)) }

/-- Member ix of a group is lost beside the one that is reconstructed: the serving member of the latter cannot reach it, or another member answers to
its number (22 R364); a number that a rebuild target answers to is not lost (R366). -/
def memberGone (s : State) (g : PGroup) (skip ix : Nat) : Bool :=
  let x := g.members.getD ix 0
  (s.modl (s.answers (g.members.getD skip 0))).unreach.contains (s.answers x) || (s.answers x != x && g.members.contains (s.answers x))
/-- The first frame of a stripe, of every member's but one, whose target does not let the Darning engine of module m read it (24 R386).
(DEDUCED, unsafe: notes/assumptions/46.) -/
def darnRefused (s : State) (m : Nat) (g : PGroup) (skip stripe : Nat) : Option Nat :=
  (List.range (g.k + 1)).findSome? (fun ix =>
    let pa := s.answers (g.members.getD ix 0) * 2 ^ 44 + g.base + stripe * 65536
    if ix = skip ∨ tableAllows s m pa .read = true then none else some pa)
/-- The XOR of every member's frame but one, n bytes from offset o of a stripe, and whether an input is poisoned or lost (22 R364). -/
def reconstruct (s : State) (g : PGroup) (skip stripe o n : Nat) : Nat × Bool :=
  (List.range (g.k + 1)).foldl (fun acc ix =>
    if ix = skip then acc
    else
      let pa := s.answers (g.members.getD ix 0) * 2 ^ 44 + g.base + stripe * 65536 + o
      let r := cellRead s pa n
      (acc.1 ^^^ r.1, acc.2 || r.2 || memberGone s g skip ix)) (0, (darnRefused s (s.answers (g.members.getD skip 0)) g skip stripe).isSome)
/-- What refuses a read of the Darning engine of module m goes to firmware (24 R387). -/
def reportRefused (s : State) (m : Nat) (pa : Option Nat) : State := match pa with | some a => s.toFirmware m 1024 (BitVec.ofNat 64 a) | none => s

/-- Reads n bytes within one ECC granule at the home: value and poison (14 R260, 22 R364, 23 R374). -/
def homeRead (s : State) (pa n : Nat) : Nat × Bool :=
  match degradedAt s pa with
  | some (_, g, stripe, o) => reconstruct s g g.lostix stripe o n
  | none => if deadAt s pa then (0, true) else cellRead s (physOf s pa) n

/-- Reads n bytes at the home, over several ECC granules: value and, per granule, poison. -/
def homeReadN (s : State) (pa n : Nat) : Nat × List Bool :=
  let first := pa / 64
  let last := (pa + n - 1) / 64
  (List.range (last - first + 1)).foldl (fun acc i =>
    let lo := Nat.max pa ((first + i) * 64)
    let hi := Nat.min (pa + n) ((first + i + 1) * 64)
    let r := homeRead s lo (hi - lo)
    (acc.1 + r.1 * 256 ^ (lo - pa), acc.2 ++ [r.2])) (0, [])

/-- The version state of the pair with even frame number f (15 R272). -/
def State.versOf (s : State) (f : Nat) : Vers := mget ⟨false, false, 0, 0, 0, 0, 0, []⟩ s.vers f
/-- s with that state replaced. -/
def State.setVers (s : State) (f : Nat) (v : Vers) : State := { s with vers := mset f v s.vers }
/-- The pair that a frame belongs to, with its version state; a pair has none until it is written, published or counted. -/
def pairOf (s : State) (frame : Nat) : Option (Nat × Vers) := s.vers.find? (fun e => e.1 = frame ∨ e.2.back = frame)
/-- The granule under whose number inbound copies are held: of a version pair, that of the even frame (15 R272). -/
def copyKey (s : State) (g : Nat) : Nat :=
  match pairOf s (g / 256) with
  | some (even, _) => even * 256 + g % 256
  | none => g
/-- Discards the inbound copies of a granule for which the test holds. -/
def dropCopies (s : State) (g : Nat) (f : Inbound → Bool) : State :=
  { s with inbound := s.inbound.filter (fun c => ¬ (c.gran = copyKey s g ∧ f c = true)) }

/-- The inbound structure lies within strand y's level-l group. -/
def copyIn (l y : Nat) (c : Inbound) : Bool :=
  if c.cluster then (match l with
      | 0 => c.unit == clusterOf y
      | 1 => false
      | 2 => c.unit == clusterOf y
      | 3 => c.unit / 12 == dieOf y
      | 4 => c.unit / 48 == moduleOf y
      | _ => true)
  else (match l with
      | 0 => c.unit == coreOf y
      | 1 => c.unit == coreOf y
      | _ => unitOf l (c.unit * 2) == unitOf l y)

/-- The copies that a turn, or a CACHE.INV, of strand y at level l discards: those of the group, and at CORE also the one in the cluster's slice,
from which the L1 would otherwise take replaced bytes again (04 R65, 14 R259). -/
def turnedCopy (l y : Nat) (c : Inbound) : Bool := copyIn l y c || (c.cluster && c.unit == clusterOf y)
/-- The copies on the inbound path of a core. -/
def ownCopy (core : Nat) (c : Inbound) : Bool := if c.cluster then c.unit == gclusterOfCore core else c.unit == core

/-- Before a read of a lost member's data, the survivors fold their outstanding deltas for the stripe; a poisoned input marks it UNSURV
(22 R364). -/
def serveDegraded (s : State) (pa : Nat) : State :=
  match degradedAt s pa with
  | none => s
  | some (n, g, stripe, o) =>
    let s := opensStripe (foldStripe s n stripe) g g.lostix stripe o
    let h := s.answers (g.members.getD g.lostix 0)
    let s := reportRefused s h (darnRefused s h g g.lostix stripe)
    if (reconstruct s g g.lostix stripe (o / 64 * 64) 64).2 then markUnsurv s (holderNow s g stripe) n stripe pa else s

/-- A delta sets off for its stripe's holder (22 R361). -/
def sendDelta (s : State) (d : Delta) (holder : Nat) : State :=
  let t := s.token
  let s := sendMsg t.2 (s.answers d.home) holder t.1
  { s with deltas := s.deltas ++ [{ d with msg := t.1 }] }.post (.parityDeltaFold 0 false)

/-- A drain of some bytes of one ECC granule enters coherence order at its home (14 R260, 22 R361, R362, R364). The cells lie in the
granule; bad is an uncorrectable error found by the read part. At a lost member's data the serving engine reconstructs the old value and the new
one lives in the parity alone. -/
def homeStore (s : State) (cells : List Host.Cell) (writers : List Writer) (bad : Bool) : State :=
  match cells with
  | [] => s
  | c0 :: _ =>
    let s := serveDegraded s c0.1
    let a0 := physOf s c0.1
    let s := activate s (paModule a0) a0
    let e := a0 / 64
    let shift := fun (a : Nat) => e * 64 + a % 64
    let full := decide (64 ≤ cells.length)
    let old := homeRead s (c0.1 / 64 * 64) 64
    let st := stripeAt s (paModule c0.1) (c0.1 % 2 ^ 44)
    let dead := deadAt s c0.1
    let away := (degradedAt s c0.1).isSome || dead
    if !full && (bad || old.2) then
      let s := dropCopies (if away || s.poison.contains e then s else poisonAt s a0) (c0.1 / 256) (fun _ => true)
      writers.foldl (fun t w => t.report w.strand 5 w.va) s
    else
      let now := (Memory.writeCells (Memory.writeN [] (e * 64) 64 old.1) (cells.map (fun c => (shift c.1, c.2)))).readN (e * 64) 64
      let s' := if away then s else
        { s with mem := Memory.writeCells s.mem (cells.map (fun c => (shift c.1, c.2))), poison := s.poison.filter (· ≠ e) }
      match st with
      | none => s'
      | some (n, g, stripe, o) =>
        if dead = false ∧ memberIx g (paModule c0.1) = stripe % (g.k + 1) then s'
        else if dead || bad || old.2 then
          markUnsurv s' (holderNow s g stripe) n stripe c0.1
        else
          sendDelta s' ⟨paModule c0.1, n, stripe, o / 64 * 64, BitVec.ofNat 512 (old.1 ^^^ now), writers.map (·.strand), 0⟩ (holderNow s g stripe)

/-- Copies granule i of the front to the back, data, tag and poison together, and clears its CU bit (15 R273); each ECC granule of a protected frame
sends its delta (22 R361). A granule written since the swap has taken the front's tag before it was first written. -/
def catchUp (s : State) (even odd i : Nat) : State :=
  let v := s.versOf even
  let fr := if v.front then odd else even
  let bk := if v.front then even else odd
  let src := fr * 65536 + i * 256
  let dst := bk * 65536 + i * 256
  let s := (List.range 4).foldl (fun t j =>
    let r := homeRead t (src + 64 * j) 64
    let t := homeStore (opensRow t (src + 64 * j)) (cellsOf (dst + 64 * j) 64 r.1) [] false
    if r.2 then { t with poison := physOf t (dst + 64 * j) / 64 :: t.poison.filter (· ≠ physOf t (dst + 64 * j) / 64) } else t) s
  (if v.wr.getLsbD i then s else s.setTag (dst / 256) (s.tag (src / 256))).setVers even { v with cu := v.cu &&& ~~~(1#256 <<< i) }

/-- A write that reaches a back granule still to be caught up moves its copy ahead (15 R273); while a seal holds the granule the tag alone goes
ahead (22 R368).
(DEDUCED, unsafe: notes/assumptions/56.) -/
def catchUpFor (s : State) (g : Nat) : State :=
  match s.vers.find? (fun e => (if e.2.front then e.1 else e.2.back) = g / 256) with
  | none => s
  | some (even, v) =>
    let i := g % 256
    if !v.cu.getLsbD i then s
    else if !heldAt s (g * 256) then catchUp s even v.back i
    else if v.wr.getLsbD i then s else s.setTag g (s.tag ((if v.front then v.back else even) * 256 + i))

/-- A drain enters coherence order at its home, behind the copy that it moves ahead. -/
def homeWriteEcc (s : State) (cells : List Host.Cell) (writers : List Writer) (bad : Bool) : State :=
  match cells with
  | [] => s
  | c0 :: _ => homeStore (catchUpFor s (c0.1 / 256)) cells writers bad

/-- A write of 1 to the mailbox's doorbell sets the request going (24 R388); ep is the endpoint of the master. -/
def ringMailbox (s : State) (ep : Nat) (cells : List Host.Cell) : State :=
  match cells with
  | c :: _ => if areaOf c.1 = .mailbox ∧ c.1 % 65536 = 0 ∧ c.2 = 1 then s.post (.mailboxDoorbell (s.answers (paModule c.1)) ep) else s
  | [] => s

/-- Bytes enter coherence order at their home, one ECC granule after another. -/
def homeWrite (s : State) (cells : List Host.Cell) (writers : List Writer) : State :=
  ringMailbox (((cells.map (fun c => c.1 / 64)).eraseDups).foldl (fun t e =>
    homeWriteEcc t (cells.filter (fun c => c.1 / 64 = e)) (writers.filter (fun w => w.pa / 64 = e)) false) s)
    (match writers with | w :: _ => moduleOf w.strand | [] => match cells with | c :: _ => paModule c.1 | [] => 0) cells

/-! ## The outbound path -/

/-- Newer cells over older ones, ascending. -/
def overCells (old new : List Host.Cell) : List Host.Cell := new.foldl (fun m c => mset c.1 c.2 m) old
/-- The contributors to cells that strand p writes at va, each ECC granule with its lowest address (14 R260). -/
def writersOf (p : Nat) (va : Word) (cells : List Host.Cell) : List Writer :=
  match cells with
  | [] => []
  | c0 :: _ => ((cells.map (fun c => c.1 / 64)).eraseDups).filterMap (fun e =>
      (cells.find? (fun c => c.1 / 64 = e)).map (fun c => ⟨p, c.1, va + BitVec.ofNat 64 (c.1 - c0.1)⟩))
/-- Contributors with the lowest address that each strand wrote in each ECC granule: one entry for a strand and a granule. -/
def overWriters (old new : List Writer) : List Writer :=
  new.foldl (fun ws w =>
    if ws.any (fun v => v.strand = w.strand ∧ v.pa / 64 = w.pa / 64) then
      ws.map (fun v => if v.strand = w.strand ∧ v.pa / 64 = w.pa / 64 ∧ w.pa < v.pa then w else v)
    else ws ++ [w]) old

/-- Merged copies of a granule in a cluster whose bytes have all reached their home need not stay resident any longer (14 R245). -/
def releaseHeld (s : State) (cl g : Nat) : State :=
  if s.outbound.any (fun o => o.cluster == cl && o.gran == g) || s.merges.any (fun m => m.cluster == cl && m.cells.any (fun c => c.1 / 256 == g)) then s
  else { s with inbound := s.inbound.map (fun c =>
    if c.gran = copyKey s g ∧ (if c.cluster then c.unit else gclusterOfCore c.unit) = cl then { c with held := false } else c) }

/-- Writes that no port could carry to their home fail: each contributor is reported to (19 R319). -/
def failWrites (s : State) (ws : List Writer) : State := ws.foldl (fun t w => t.report w.strand 6 w.va) s
/-- A granule of an outbound slice is written back: every byte of it enters its home (14 R244). -/
def writeBack (s : State) (o : Outbound) : State :=
  let s := { s with outbound := s.outbound.filter (fun x => ¬ (x.cluster = o.cluster ∧ x.gran = o.gran)) }
  releaseHeld (if unreachable s (o.cluster / 48) (o.gran * 256) then failWrites s o.writers else homeWrite s o.cells o.writers) o.cluster o.gran
/-- A waiting drain of an ECC granule enters its home; bad is an uncorrectable read part (14 R260). No copy on its core's inbound path is older than a
store through the direct aperture (R257). -/
def mergeHome (s : State) (m : Merge) (bad : Bool) : State :=
  let t := s.delivered m.msg
  let t := if m.dir then m.writers.foldl (fun t w => dropCopies t (w.pa / 256) (ownCopy (coreOf w.strand))) t else t
  releaseHeld (if m.msg != 0 && s.lost.contains m.msg then failWrites t m.writers
    else if bad then homeWriteEcc t m.cells m.writers true else homeWrite t m.cells m.writers)
    m.cluster (match m.cells with | c :: _ => c.1 / 256 | [] => 0)

/-- The lowest router of a cluster. -/
def routerOfCluster (cl : Nat) : Nat := coreOf (repOf 2 (cl / 48) (cl % 48))
/-- The ECC granules of some cells set off for their home, each as a request that waits there to be merged (14 R260, 19 R309). -/
def sendDrain (s : State) (src cl : Nat) (cells : List Host.Cell) (writers : List Writer) (dir : Bool) : State :=
  ((cells.map (fun c => c.1 / 64)).eraseDups).foldl (fun t e =>
    let k := sendRequest t src (e * 64)
    State.post { k.2 with merges := k.2.merges ++
      [⟨cells.filter (fun c => c.1 / 64 = e), writers.filter (fun w => w.pa / 64 = e), cl, k.1, dir⟩] } (.homeWriteMerge 0 false)) s
/-- A granule leaves its slice for its home (14 R244). -/
def leaveSlice (s : State) (o : Outbound) : State :=
  let s := { s with outbound := s.outbound.filter (fun x => ¬ (x.cluster = o.cluster ∧ x.gran = o.gran)) }
  sendDrain s (routerOfCluster o.cluster) o.cluster o.cells o.writers false

/-- Bytes of a granule enter a cluster's outbound slice; a full slice gives up its oldest granule first (14 R244). -/
def enterSlice (s : State) (cl g : Nat) (cells : List Host.Cell) (writers : List Writer) : State :=
  match s.outbound.find? (fun o => o.cluster = cl ∧ o.gran = g) with
  | some o => { s with outbound := s.outbound.map (fun x => if x.cluster = cl ∧ x.gran = g
      then { x with cells := overCells o.cells cells, writers := overWriters o.writers writers } else x) }
  | none =>
    let mine := s.outbound.filter (fun o => o.cluster = cl)
    let s := if Config.outGranules ≤ mine.length then (match mine.head? with | some o => leaveSlice s o | none => s) else s
    { s with outbound := s.outbound ++ [⟨cl, g, cells, writers, false⟩] }
/-- A write-combining buffer drains into its cluster's outbound slice. -/
def drainWcb (s : State) (core : Nat) (w : Wcb) : State :=
  enterSlice (s.updCore core (fun c => { c with wcb := c.wcb.filter (fun x => x.gran ≠ w.gran) })) (gclusterOfCore core) w.gran w.cells w.writers

/-- The cores of strand y's level-l group, no narrower than its core, drain their buffers of granule g into their slices. -/
def drainBuffers (s : State) (g l y : Nat) : State :=
  s.cores.foldl (fun t e =>
    if decide (unitOf (Nat.max l 1) (e.1 * 2) = unitOf (Nat.max l 1) y) then
      (match (t.core e.1).wcb.find? (fun w => w.gran = g) with | some w => drainWcb t e.1 w | none => t) else t) s
/-- The cluster lies in, or holds, strand y's level-l group. -/
def clusterIn (l y cl : Nat) : Bool :=
  match Nat.max l 2 with
  | 2 => cl == clusterOf y
  | 3 => cl / 12 == dieOf y
  | 4 => cl / 48 == moduleOf y
  | _ => true

/-- Every write to granule g that strands of y's level-l group have issued reaches its home: buffers to slices, waiting merges and slices to the
home (04 R65 steps 1 and 2, 14 R258). -/
def drainGroup (s : State) (g l y : Nat) : State :=
  let s := drainBuffers s g l y
  let ms := s.merges.filter (fun m => m.cells.any (fun c => c.1 / 256 = g))
  let s := ms.foldl (fun t m => mergeHome t m false)
    { s with merges := s.merges.filter (fun m => ¬ m.cells.any (fun c => c.1 / 256 = g)) }
  s.outbound.foldl (fun t o => if o.gran = g ∧ clusterIn l y o.cluster = true then writeBack t o else t) s

/-- The tag effect of a write by strand x to granule g (04 R63, 03 R59), behind the copy that a back granule still to be caught up takes first (15
R273); a corrupt tag is reported and left (14 R247). -/
def tagWrite (s : State) (g x : Nat) (va : Word) : State :=
  let s := catchUpFor s g
  let t := s.tag g
  let s := s.updStrand x (fun st => { st with unturned := g :: st.unturned.filter (· ≠ g), turned := st.turned.filter (·.2 ≠ g) })
  if t.corrupt then (s.report x 5 va).logTag g else s.setTag g { t.widen g 0 x with t := 7 }

/-- Cells enter the write-combining buffers of a core: the granule's buffer, or a new one, the oldest draining when all 32 are used;
a full buffer drains (14 R244). -/
def bufferWrite (s : State) (core : Nat) (cells : List Host.Cell) (writers : List Writer) : State :=
  match cells with
  | [] => s
  | c0 :: _ =>
    let g := granOf c0.1
    let c := s.core core
    let s := if c.wcb.any (fun w => w.gran = g) then s
      else if Config.wcbCount ≤ c.wcb.length then (match c.wcb.head? with | some w => drainWcb s core w | none => s) else s
    let b := (s.core core).wcb
    let old := (b.find? (fun w => w.gran = g)).getD ⟨g, [], [], s.clk⟩
    let w : Wcb := { old with cells := overCells old.cells cells, writers := overWriters old.writers writers }
    let s := s.updCore core (fun c => { c with
      wcb := if b.any (fun x => x.gran = g) then b.map (fun x => if x.gran = g then w else x) else b ++ [w] })
    if 256 ≤ w.cells.length then drainWcb s core w else s

/-! ## Protected frames at an access -/

/-- The home refuses the access under the rules of protected frames (22 R360): a read through a leaf with PROT = 0 is served, but none has a parity
frame, which the engine alone reads.
(DEDUCED, unsafe: notes/assumptions/46.) -/
def protRefuses (s : State) (leaf : Word) (pa : Nat) (writes : Bool) : Bool :=
  let m := paModule pa
  if leaf.getLsbD 7 then
    match stripeAt s m (pa % 2 ^ 44) with
    | none => true
    | some (n, g, stripe, _) => decide (n ≠ ((leaf >>> 52) &&& 15#64).toNat) || decide (memberIx g m = stripe % (g.k + 1))
  else match stripeAt s m (pa % 2 ^ 44) with
    | none => false
    | some (_, g, stripe, _) => writes || decide (memberIx g m = stripe % (g.k + 1))

/-! ## Inbound reads -/

/-- A read copy of a granule made at the home: data and poison. -/
def homeGranule (s : State) (g : Nat) : BitVec 2048 × BitVec 4 :=
  let r := homeReadN s (g * 256) 256
  (BitVec.ofNat 2048 r.1, BitVec.ofBoolListLE (r.2 ++ [false, false, false, false]) |>.setWidth 4)

/-- Granules that an inbound structure holds (01 R12). -/
def Inbound.room (c : Inbound) : Nat := if c.cluster then Config.sliceGranules else Config.l1Granules
/-- Room for a copy: a full structure gives up its oldest copy, of those that need not stay; when all must stay, the oldest goes once its bytes
have reached their home (14 R245; the order of eviction is the model's).
(DESIGN CHOICE, safe: notes/assumptions/29.) -/
def makeRoom (s : State) (c : Inbound) : State :=
  let mine := s.inbound.filter (fun x => x.cluster = c.cluster ∧ x.unit = c.unit)
  let gone := fun (s : State) (o : Inbound) => { s with inbound := s.inbound.filter (fun x => ¬ (x.gran = o.gran ∧ x.cluster = o.cluster ∧ x.unit = o.unit)) }
  if mine.length < c.room then s else match mine.find? (fun x => !x.held) with
    | some o => gone s o
    | none => match mine.filter (fun o => !eventHeld s (o.gran * 256)) with
      | o :: _ => gone (s.outbound.foldl (fun t w =>
          if w.gran = o.gran ∧ w.cluster = (if o.cluster then o.unit else gclusterOfCore o.unit) then writeBack t w else t) s) o
      | [] => s
/-- Adds an inbound copy, when there is room for it. -/
def addCopy (s : State) (c : Inbound) : State :=
  let s := makeRoom s c
  if c.room ≤ (s.inbound.filter (fun x => x.cluster = c.cluster ∧ x.unit = c.unit)).length then s else { s with inbound := s.inbound ++ [c] }

/-- An L1 of the cluster holds merged bytes of the granule that its home has not acknowledged. -/
def mergedNear (s : State) (cl g : Nat) : Bool :=
  s.inbound.any (fun c => !c.cluster && c.held && c.gran == copyKey s g && gclusterOfCore c.unit == cl)
/-- A granule as its home gives it to a cluster: data, poison and tag, a lost member's served first; a read that activates its row. -/
def fetchHome (s : State) (cl g : Nat) : Inbound × State :=
  let s := serveDegraded s (g * 256)
  let r := homeGranule s g
  (⟨true, cl, copyKey s g, r.1, r.2, s.tag g, false⟩, opensRow s (g * 256))
/-- The inbound path of a core: its L1's copy, the slice's copy, or the home's bytes, which both then hold (01 R16, 14 R244); the slice takes none while an L1
of its cluster holds merged bytes that the home has not (R245). -/
def fetchCopy (s : State) (core g : Nat) (useL1 : Bool) : Inbound × State :=
  let cl := gclusterOfCore core
  let k := copyKey s g
  match (if useL1 then s.inbound.find? (fun c => !c.cluster && c.unit == core && c.gran == k) else none) with
  | some c => (c, s)
  | none =>
    match s.inbound.find? (fun c => c.cluster && c.unit == cl && c.gran == k) with
    | some c =>
      let c1 : Inbound := { c with cluster := false, unit := core, held := false }
      (c1, if useL1 then addCopy s c1 else s)
    | none =>
      let r := fetchHome s cl g
      let s := if mergedNear r.2 cl g then r.2 else addCopy r.2 r.1
      let c1 : Inbound := { r.1 with cluster := false, unit := core }
      (c1, if useL1 then addCopy s c1 else s)

/-! ## TURN events (04 R65, 14 R245) -/

/-- The bytes of a copy with cells written over them; an ECC granule written whole loses its poison. -/
def overlay (c : Inbound) (cells : List Host.Cell) : Inbound :=
  { c with
    data := cells.foldl (fun d x => (d &&& ~~~(0xFF#2048 <<< (8 * (x.1 % 256)))) ||| ((x.2.setWidth 2048 : BitVec 2048) <<< (8 * (x.1 % 256)))) c.data
    poison := BitVec.ofBoolListLE ((List.range 4).map (fun j =>
      c.poison.getLsbD j && decide ((cells.filter (fun x => x.1 % 256 / 64 = j)).length < 64))) |>.setWidth 4 }
/-- A copy that has taken bytes stands at its merge point, the core's L1 or the cluster's slice, and stays until its home has them (R245). -/
def keepMerged (s : State) (y g l : Nat) (c : Inbound) : State :=
  let s := dropCopies s g (if l ≤ 1 then turnedCopy l y else copyIn l y)
  addCopy s { c with cluster := decide (l = 2), unit := if l = 2 then clusterOf y else coreOf y, gran := copyKey s g, held := true }
/-- The covered bytes of a turn at SELF, CORE or CLUSTER: those that the cluster's outbound path holds, oldest first. -/
def coveredCells (s : State) (cl g : Nat) : List Host.Cell :=
  let ms := s.merges.filter (fun m => m.cluster == cl && m.cells.any (fun c => c.1 / 256 == g))
  let os := s.outbound.filter (fun o => o.cluster == cl && o.gran == g)
  (os.map (·.cells)).foldl overCells ((ms.map (·.cells)).foldl overCells [])
/-- A granule that has been merged is first to leave its slice, and leaves it at once (14 R244). -/
def hasten (s : State) (cl g : Nat) : State :=
  let f := fun (o : Outbound) => o.cluster == cl && o.gran == g
  if s.outbound.any f then
    State.post { s with outbound := (s.outbound.filter f).map (fun o => { o with merged := true }) ++ s.outbound.filter (fun o => !f o) }
      (.outboundSliceWriteback cl 0)
  else s
/-- The level at which the covered bytes of a turn merge: at SELF and CORE too in the slice, when that still holds bytes which the home has not. -/
def mergeLevel (s : State) (g l y : Nat) : Nat :=
  if l ≤ 1 ∧ s.inbound.any (fun c => c.cluster && c.held && c.gran == copyKey s g && c.unit == clusterOf y) = true then 2 else l
/-- The merge of a turn at SELF, CORE or CLUSTER: the level's merge point obtains the granule, as the home has it now, and takes the bytes that the
cluster's outbound path still holds; without any the group's copies go (R245). -/
def mergeTurn (s : State) (g l y : Nat) : State :=
  let s := drainBuffers s g l y
  let cells := coveredCells s (clusterOf y) g
  if cells.isEmpty then dropCopies s g (turnedCopy l y)
  else
    let c := fetchHome s (clusterOf y) g
    hasten (keepMerged c.2 y g (mergeLevel s g l y) (overlay c.1 cells)) (clusterOf y) g
/-- The granule lies in the back frame of a version pair, from which no inbound copy is made. -/
def inBack (s : State) (g : Nat) : Bool :=
  match pairOf s (g / 256) with
  | some (even, v) => (if v.front then even else v.back) == g / 256
  | none => false
/-- The drain and the merge of a turn by strand y at level l on granule g, and the copies that it discards (04 R65 steps 1 to 3). -/
def turnDrain (s : State) (g l y : Nat) : State :=
  if l ≤ 2 ∧ inBack s g = false then mergeTurn s g l y else dropCopies (drainGroup s g l y) g (turnedCopy l y)
/-- A TURN event on granule g by strand y at level l (04 R65); a corrupt tag is reported and left (14 R247). A back granule still to be caught up is
copied first (15 R273). The strand's own write counts as turned once its TURN completes (03 R49, R50).
(DEDUCED, unsafe: notes/assumptions/12.) -/
def turnEvent (s : State) (g l y : Nat) (va : Word) : State :=
  let s := turnDrain (catchUpFor s g) g l y
  let s := s.updStrand y (fun st => { st with turned := if st.unturned.contains g then (st.pc, g) :: st.turned else st.turned })
  let t := s.tag g
  if t.corrupt then (s.report y 5 va).logTag g
  else if t.within g l y then
    let s := s.setTag g { t with t := maxT t.t l }
    { s with inbound := s.inbound.map (fun c => if c.gran = copyKey s g ∧ turnedCopy l y c = true then { c with tag := s.tag g } else c) }
  else s

/-- Before an access of strand p through the direct aperture, what its core still holds of the granule reaches the home, and the copies on its own
inbound path go: no later access of the strand meets an older value (03 R48, 14 R257). -/
def directFirst (s : State) (p g : Nat) : State := dropCopies (drainGroup s g 1 p) g (ownCopy (coreOf p))
/-- A store of strand p through the direct aperture to granule g has not reached the home (14 R256). -/
def dirOut (s : State) (p g : Nat) : Bool :=
  s.merges.any (fun m => m.dir && m.writers.any (fun w => w.strand == p) && m.cells.any (fun c => c.1 / 256 == g))
/-- Reads n bytes of one turn granule through the inbound path, or at the home for a DIR page: value and the granule's poisoned ECC
granules; a corrupt tag delivers poison (14 R247, R256). -/
def readBytes (s : State) (p pa n : Nat) (dir : Bool) : (Nat × Bool) × State :=
  if dir then
    let s := directFirst (serveDegraded s pa) p (granOf pa)
    let r := homeReadN s pa n
    ((r.1, r.2.any id), opensRow s pa)
  else
    let s := if dirOut s p (granOf pa) then directFirst s p (granOf pa) else s
    let c := fetchCopy s (coreOf p) (granOf pa) true
    let v := c.1.data.toNat / 256 ^ (pa % 256) % 256 ^ n
    let first := pa % 256 / 64
    let bad := (List.range ((pa % 256 + n - 1) / 64 - first + 1)).any (fun i => c.1.poison.getLsbD (first + i))
    let corrupt := (s.tag (granOf pa)).corrupt
    ((v, bad || corrupt), if corrupt then c.2.logTag (granOf pa) else c.2)

/-- A loaded value, extended (06 R110, R115). -/
def extendLoad (z : Bool) (n v : Nat) : Word := if z then BitVec.ofNat 64 v else wrapAt (8 * n) (v : Int)
/-- The value and the mark that an outstanding load of strand p delivers: those it holds, or, for one whose data are still to be read, what it reads
now. -/
def lateRead (s : State) (p : Nat) (d : Prod) : (Word × Mark) × State :=
  match d.late with
  | none => ((d.sval, d.smark), s)
  | some (pa, n, dir, z) =>
    let r := if unreachable s (moduleOf p) pa then ((0, true), s.report p 6 d.ea) else readBytes s p pa n dir
    ((extendLoad z n r.1.1, if r.1.2 then .poison d.ea else .clean), r.2)
/-- The loads of strand p on a granule whose data are still to be read read them now: a later access of the strand to it comes after them (03 R48). -/
def sampleLate (s : State) (p g : Nat) : State :=
  (s.strand p).prods.foldl (fun s d =>
    if d.late.any (fun x => granOf x.1 == g) then
      let r := lateRead s p d
      r.2.updStrand p (fun st => { st with prods := st.prods.map (fun x => if x = d then { d with sval := r.1.1, smark := r.1.2, late := none } else x) })
    else s) s

/-- All such loads of strand p read their data now. -/
def sampleAll (s : State) (p : Nat) : State :=
  ((s.strand p).prods.filterMap (fun d => d.late.map (fun x => granOf x.1))).eraseDups.foldl (fun s g => sampleLate s p g) s
/-- A read of granule g by strand p passes R49 and R64. -/
def tagReadable (s : State) (p g : Nat) : Bool :=
  let t := s.tag g
  t.corrupt || (t.allows (t.lvl g p) && !(s.strand p).unturned.contains g)

/-- CAUSE.QUAL of TURN_PENDING (14 R248). -/
def turnQual (s : State) (p g : Nat) : Nat := let t := s.tag g; (t.lvl g p) * 16 + t.t

/-! ## Translation -/

/-- A cause code and its qualifier. -/
structure Cause where
  code : Nat
  qual : Nat
  deriving DecidableEq, Repr

/-- Field of a page-table entry. -/
def pteFrame (e : Word) : Nat := ((e >>> 16) &&& 0xFFFFFFFFF#64).toNat
/-- SHARE of a leaf. -/
def pteShare (e : Word) : Nat := ((e >>> 4) &&& 7#64).toNat
/-- The pointer fields that must be zero are zero (10 R187). -/
def ptrOk (e : Word) : Bool := e &&& 0xFFF000000000FFFE#64 == 0#64
/-- A leaf's reserved fields and the combinations no leaf may have (10 R187, R188, 15 R271, R275). -/
def leafOk (big : Bool) (e : Word) : Bool :=
  (e >>> 56 == 0#64) && !e.getLsbD 15 && decide (pteShare e < 6)
    && !(big && (e.getLsbD 7 || e.getLsbD 9 || (e >>> 16) &&& 0x1FFF#64 != 0#64))
    && !(e.getLsbD 9 && (e.getLsbD 10 || e.getLsbD 8))
    && (e.getLsbD 14 == (areaOf (pteFrame e * 65536) == .tier2))
    && !(e.getLsbD 14 && (pteShare e == 3 || e.getLsbD 7))

/-- Reads a page-table entry as the strand (10 R189): its value, or the low qualifier, or a refusal by the target.
(DEDUCED, unsafe: notes/assumptions/27.) -/
def readPte (s : State) (p pa level : Nat) : Except Cause Word × State :=
  let s := sendFlit s (moduleOf p) (s.answers (paModule pa))
  if unreachable s (moduleOf p) pa then (.error ⟨0x07, level * 16 + 5⟩, s.report p 6 (BitVec.ofNat 64 pa))
  else if !tableAllows s (moduleOf p) pa .read then (.error ⟨0x08, 5⟩, s)
  else if !tagReadable s p (granOf pa) then (.error ⟨0x07, level * 16 + 4⟩, s)
  else
    let r := readBytes s p pa 8 false
    if r.1.2 then (.error ⟨0x07, level * 16 + 5⟩, r.2) else (.ok (BitVec.ofNat 64 r.1.1), r.2)

/-- The two frames of a version pair agree (15 R271). -/
def partnerOk (e q : Word) : Bool :=
  q.getLsbD 0 && q.getLsbD 9 && leafOk false q && ((e ^^^ q) &&& 0x00000000000040FE#64 == 0#64) && (!e.getLsbD 7 || (e ^^^ q) &&& 0x00F0000000000000#64 == 0#64) && (pteFrame e != pteFrame q)
    && (areaOf (pteFrame e * 65536) == areaOf (pteFrame q * 65536)) && paModule (pteFrame e * 65536) == paModule (pteFrame q * 65536)

/-- Walks the tables of a root for a canonical address (10 R186, R187). -/
def walk (s : State) (p : Nat) (root va : Nat) : Except Cause Tlb × State :=
  match readPte s p (root * 65536 + 8 * (va / 2 ^ 42 % 8192)) 1 with
  | (.error c, s) => (.error c, s)
  | (.ok e1, s) =>
    if !e1.getLsbD 0 then (.error ⟨0x07, 0x11⟩, s) else if !ptrOk e1 then (.error ⟨0x07, 0x12⟩, s)
    else
      let pa2 := pteFrame e1 * 65536 + 8 * (va / 2 ^ 29 % 8192)
      match readPte s p pa2 2 with
      | (.error c, s) => (.error c, s)
      | (.ok e2, s) =>
        if !e2.getLsbD 0 then (.error ⟨0x07, 0x21⟩, s)
        else if e2 &&& 0x7FFE#64 != 0#64 then
          if leafOk true e2 then (.ok ⟨va / 2 ^ 29 * 2 ^ 29, true, e2, pa2, 0⟩, s) else (.error ⟨0x07, 0x22⟩, s)
        else if !ptrOk e2 then (.error ⟨0x07, 0x22⟩, s)
        else
          let pa3 := pteFrame e2 * 65536 + 8 * (va / 2 ^ 16 % 8192)
          match readPte s p pa3 3 with
          | (.error c, s) => (.error c, s)
          | (.ok e3, s) =>
            if !e3.getLsbD 0 then (.error ⟨0x07, 0x31⟩, s)
            else if !leafOk false e3 then (.error ⟨0x07, 0x32⟩, s)
            else if !e3.getLsbD 9 then (.ok ⟨va / 65536 * 65536, false, e3, pa3, 0⟩, s)
            else
              let odd := va / 65536 % 2 = 1
              match readPte s p (if odd then pa3 - 8 else pa3 + 8) 3 with
              | (.error c, s) => (.error c, s)
              | (.ok q, s) =>
                if !partnerOk e3 q then (.error ⟨0x07, 0x32⟩, s)
                else if odd then (.error ⟨0x07, 0x36⟩, s) else (.ok ⟨va / 65536 * 65536, false, e3, pa3, q⟩, s)

/-- Bits [63:55] of an address all equal bit 54 (10 R186). -/
def canonical (va : Word) : Bool := va.toNat / 2 ^ 54 == 0 || va.toNat / 2 ^ 54 == 1023

/-- A demand access uses a translation: it is no longer one of the walk-ahead's alone (10 R191). -/
def demanded (s : State) (p base : Nat) : State :=
  if (s.strand p).walked.any (fun w => w.2 == base) then s.updStrand p (fun st => { st with walked := st.walked.filter (fun w => w.2 ≠ base) }) else s
/-- The translation of an address for strand p: cached, or walked and then cached (a cached one stays until a TLBI; the model's choice,
notes/assumptions/4). -/
def translate (s : State) (p : Nat) (va : Word) : Except Cause Tlb × State :=
  if !canonical va then (.error ⟨0x07, 0x03⟩, s)
  else
    let a := va.toNat % 2 ^ 55
    match (s.strand p).tlb.find? (fun t => if t.big then t.base == a / 2 ^ 29 * 2 ^ 29 else t.base == a / 65536 * 65536) with
    | some t => (.ok t, demanded s p t.base)
    | none =>
      match walk s p (pteFrame (s.strand p).ptroot) a with
      | (.error c, s) => (.error c, s)
      | (.ok t, s) => (.ok t, s.updStrand p (fun st => { st with tlb := t :: st.tlb }))

/-- A translated and checked access: the physical address it reads or writes, its leaf, and the even and odd frames of a version
pair. -/
structure Acc where
  pa : Nat
  leaf : Word
  tlb : Tlb
  deriving DecidableEq, Repr

/-- DIR of the leaf. -/
def Acc.dir (a : Acc) : Bool := a.leaf.getLsbD 10
/-- VERS of the leaf. -/
def Acc.vers (a : Acc) : Bool := a.leaf.getLsbD 9
/-- PROT of the leaf. -/
def Acc.prot (a : Acc) : Bool := a.leaf.getLsbD 7
/-- SHARE of the leaf. -/
def Acc.share (a : Acc) : Nat := pteShare a.leaf

/-- What an access asks of the checks: its kind, whether it marks A, D and ONCE, whether it is a stream access of unit stride, whether
SETC pages are open to it, whether the second case of R66 and the tag apply. -/
structure Ask where
  kind : Kind
  touch : Bool := true
  unit : Bool := false
  setc : Bool := false
  scope2 : Bool := true
  /-- the first case of R66 applies -/
  scope1 : Bool := true
  tag : Bool := true
  /-- TURN, SNAP and CACHE need no right but U (14 R250) -/
  rights : Bool := true
  /-- on a versioned page, address the back frame though nothing is written -/
  back : Bool := false
  /-- the page must have SETC = 1 (20 R342) -/
  set : Bool := false
  /-- the kind for the target's access table, when not the access's own (20 R342: SKLOOK) -/
  via : Option Kind := none
  /-- the privilege that judges the U right, when not the strand's own (07 R129) -/
  prv : Option Bool := none
  deriving DecidableEq, Repr

/-- The physical address of an offset within a translation; front or back frame of a version pair (15 R272). -/
def physIn (s : State) (t : Tlb) (va : Nat) (toBack : Bool) : Nat :=
  if t.big then pteFrame t.leaf * 65536 + va % 2 ^ 29
  else if t.leaf.getLsbD 9 then
    let v := s.versOf (pteFrame t.leaf)
    (if v.front != toBack then pteFrame t.partner else pteFrame t.leaf) * 65536 + va % 65536
  else pteFrame t.leaf * 65536 + va % 65536

/-- A read goes to the home, because no copy stands on the strand's inbound path. -/
def atHome (s : State) (p : Nat) (a : Acc) : Bool := a.dir || !s.inbound.any (fun c => c.gran == copyKey s (granOf a.pa) && ownCopy (coreOf p) c)

/-- Marks A, D and ONCE of a leaf and sets the update going (10 R190). -/
def touchLeaf (s : State) (p : Nat) (t : Tlb) (writes unit : Bool) : State :=
  let hadA := t.leaf.getLsbD 12
  let setBits : Word := (if hadA then 0 else 0x1000#64) ||| (if writes && !t.leaf.getLsbD 13 then 0x2000#64 else 0)
    ||| (if unit && !hadA && !t.leaf.getLsbD 11 then 0x800#64 else 0)
  let clrBits : Word := if !unit && t.leaf.getLsbD 11 then 0x800#64 else 0
  if setBits == 0#64 && clrBits == 0#64 then s
  else
    let leaf := (t.leaf ||| setBits) &&& ~~~clrBits
    let s := s.updStrand p (fun st => { st with tlb := st.tlb.map (fun x => if x.leafPa = t.leafPa then { x with leaf := leaf } else x) })
    let m := toHome s p t.leafPa
    State.post { m.2 with adq := m.2.adq ++ [⟨t.leafPa, setBits, clrBits, p, m.1⟩] } (.adBitUpdate 0)

/-- The group of level S of the home of a page holds strand p (04 R66, first case). -/
def scopeHome (p pa share : Nat) : Bool :=
  if share = 3 then (match areaOf pa with | .die d => dieOf p == paModule pa * 4 + d | _ => false)
  else if share = 4 then moduleOf p == paModule pa else true

/-- The checks of an access by strand p after alignment (06 R108 orders 2 to 5, 04 R66, 10 R189, R190, 22 R360). -/
def checkAccess (s : State) (p : Nat) (va : Word) (q : Ask) : Except Cause Acc × State :=
  let writes := q.kind == .write || q.kind == .atomic
  match translate s p va with
  | (.error c, s) => (.error c, s)
  | (.ok t, s) =>
    let e := t.leaf
    if !q.prv.getD (s.strand p).status.prv && !e.getLsbD 3 then (.error ⟨0x08, 1⟩, s)
    else if q.rights && writes && !e.getLsbD 1 then (.error ⟨0x08, 2⟩, s)
    else if q.rights && q.kind == .fetch && !e.getLsbD 2 then (.error ⟨0x08, 3⟩, s)
    else if writes && !q.setc && e.getLsbD 8 then (.error ⟨0x08, 4⟩, s)
    else if q.set && !e.getLsbD 8 then (.error ⟨0x08, 9⟩, s)
    else
      let s := if q.touch then touchLeaf s p t writes q.unit else s
      if q.kind == .atomic && !q.setc && e.getLsbD 9 then (.error ⟨0x08, 7⟩, s)
      else if q.kind == .fetch && e.getLsbD 10 then (.error ⟨0x08, 0xB⟩, s)
      else
      let pa := physIn s t (va.toNat % 2 ^ 55) (writes || q.back)
      let g := granOf pa
      if !tableAllows s (moduleOf p) pa (q.via.getD q.kind) then (.error ⟨0x08, 5⟩, s)
      else if protRefuses s e pa writes then (.error ⟨0x08, 0xA⟩, s)
      else if q.scope1 && !scopeHome p pa (pteShare e) then (.error ⟨0x13, 0⟩, s)
      else if q.scope2 && !e.getLsbD 10 && !(s.tag g).corrupt && decide (pteShare e < (s.tag g).lvl g p) then (.error ⟨0x13, 0⟩, s)
      else if q.tag && (q.kind == .read || q.kind == .fetch) && !e.getLsbD 10 && !tagReadable s p g then (.error ⟨0x09, turnQual s p g⟩, s)
      else (.ok ⟨pa, e, t⟩, s)

/-- The back frame and the sharing level of a version pair that an access meets stand with its version state (15 R272). -/
def noteVers (s : State) (a : Acc) : State :=
  if a.vers then s.setVers (pteFrame a.leaf) { s.versOf (pteFrame a.leaf) with back := pteFrame a.tlb.partner, share := a.share } else s
/-- A checked write takes effect on the granule's tag, the version state and the list for FENCE.SURV at its issue (04 R63, R74, 03 R59, 15 R272). -/
def issueWrite (s : State) (p : Nat) (a : Acc) (va : Word) (n : Nat) : State :=
  let s := noteVers s a
  let s := if a.vers then
      let s := catchUpFor s (granOf a.pa)
      let f := pteFrame a.leaf
      s.setVers f { s.versOf f with wr := (s.versOf f).wr ||| (1#256 <<< (a.pa / 256 % 256)) }
    else s
  let s := if a.prot then s.updStrand p (fun st => { st with prot := st.prot ++ [⟨va, a.pa, n⟩] }) else s
  let s := (sampleLate s p (granOf a.pa)).updStrand p (fun st => { st with early := st.early.filter (fun x => x.gran ≠ granOf a.pa) })
  if a.dir then s else tagWrite s (granOf a.pa) p va
/-- Before a store of strand p through the direct aperture sets off for the home, what its cluster's outbound path holds of the granule does, and the copies on
its own inbound path go; merged ones only once the home has their bytes (03 R48, 14 R245, R256). -/
def directOut (s : State) (p g : Nat) : State :=
  if s.inbound.any (fun c => c.gran == copyKey s g && ownCopy (coreOf p) c && c.held) then directFirst s p g
  else
    let s := drainBuffers s g 1 p
    let s := match s.outbound.find? (fun o => o.cluster = clusterOf p ∧ o.gran = g) with | some o => leaveSlice s o | none => s
    dropCopies s g (ownCopy (coreOf p))
/-- The bytes of an issued write: a DIR write sets off for the home, another enters the core's buffers (14 R244, R256). -/
def performWrite (s : State) (p : Nat) (a : Acc) (va : Word) (n v : Nat) : State :=
  let cells := cellsOf a.pa n v
  if unreachable s (moduleOf p) a.pa then s.report p 6 va
  else if a.dir then sendDrain (directOut s p (granOf a.pa)) (coreOf p) (clusterOf p) cells (writersOf p va cells) true
  else bufferWrite s (coreOf p) cells (writersOf p va cells)
/-- A write by strand p of n bytes, already checked (04 R63, 06 R111, 14 R256). A write to a module that no port reaches is reported and has no
other effect (19 R319). -/
def writeBytes (s : State) (p : Nat) (a : Acc) (va : Word) (n v : Nat) : State :=
  if unreachable s (moduleOf p) a.pa then performWrite s p a va n v else performWrite (issueWrite s p a va n) p a va n v

end Sys2Proof.Machine
end

