-- ==== Sys2Proof/Machine/Table.lean ====
section
/-! DEFINITION. An atomic at its home: the effect of its event beside its data (04 R67), the write at the level's home, set tables and
sketches (20 R334 to R342), the atomics of 15 R262 to R270 performed in their granule's order; and what a handoff between the strands of a core
performs first (03 R58). -/
namespace Sys2Proof.Machine

/-! ## The event of an atomic (04 R67) -/

/-- The effect of an atomic's event on granule g beside the data (04 R67): preceding writes reach the home, copies in the level-S group
go, T := S, and G widens when the event writes. x is the actor, at level gl (0: the strand alone). -/
def atomicEvent (s : State) (g share gl x : Nat) (writes : Bool) (va : Word) : State :=
  let s := drainGroup s g 5 x
  let s := dropCopies s g (turnedCopy share x)
  let s := if gl = 0 then s.updStrand x (fun st => { st with unturned := st.unturned.filter (· ≠ g), turned := st.turned.filter (·.2 ≠ g) }) else s
  let t := s.tag g
  if t.corrupt then (s.report x 5 va).logTag g
  else s.setTag g { (if writes then t.widen g gl x else t) with t := share }

/-- The tail counter of a registered launch queue page wakes the Hamper (17 R283). -/
def wakeQueue (s : State) (pa : Nat) : State :=
  let m := s.answers (paModule pa)
  match (s.modl m).hamper.regs.find? (fun r => r.2.frame * 65536 = pa / 8 * 8) with
  | some r => s.post (.launchQueueRecord m r.1)
  | none => s

/-- A write within an atomic's event at the memory controllers. -/
def homePut (s : State) (x pa n v : Nat) (va : Word) : State := wakeQueue (homeWrite s (cellsOf pa n v) (writersOf x va (cellsOf pa n v))) pa
/-- A write within an atomic's event whose home is strand x's L1 (SHARE SELF or CORE) or its cluster's slice (CLUSTER): the copy there takes the
bytes and holds them until the controllers have them (04 R67, 14 R244). -/
def nearPut (s : State) (share x pa n v : Nat) (va : Word) : State :=
  let g := granOf pa
  let cells := cellsOf pa n v
  let c := fetchHome s (clusterOf x) g
  let s := keepMerged c.2 x g share (overlay c.1 cells)
  hasten (enterSlice s (clusterOf x) g cells (writersOf x va cells)) (clusterOf x) g
/-- A write within an atomic's event at the home that the page's SHARE gives it; a launch queue page has its home at the controllers. -/
def atomicPut (s : State) (share x pa n v : Nat) (va : Word) : State :=
  if share ≤ 2 ∧ onQueuePage s pa = false ∧ inBack s (granOf pa) = false then nearPut s share x pa n v va else homePut s x pa n v va

/-! ## Hashing and the sketch (20 R337, R338) -/

/-- H(y): the XOR of the table entries of its bytes. -/
def hashOf (e : List Word) (y : Word) : Word :=
  (List.range 8).foldl (fun h b => h ^^^ e.getD (256 * b + (y.toNat / 256 ^ b % 256)) 0) 0
/-- The hash of an entry word, k XOR rol64(v, 32). -/
def entryHash (e : List Word) (k v : Word) : Word := hashOf e (k ^^^ v.rotateLeft 32)
/-- idx(s) of a hash. -/
def hashIdx (h : Word) (s : Nat) : Nat := h.toNat / 2 ^ (16 * s) % 65536
/-- chk of a hash. -/
def hashChk (h : Word) : BitVec 32 := h.extractLsb' 32 32 ^^^ h.extractLsb' 0 32
/-- FPRINT. -/
def fprintOf (e : List Word) : Word := e.foldl (· ^^^ ·) 0

/-- A cell of zeros. -/
def Cell.zero : Cell := ⟨0, 0, 0, 0⟩
/-- Cell c of a sketch. -/
def cellAt (m : Map Cell) (c : Nat) : Cell := mget .zero m c
/-- A sketch with cell c replaced; zero cells are not listed. -/
def setCell (m : Map Cell) (c : Nat) (x : Cell) : Map Cell := if x = .zero then mdel c m else mset c x m
/-- Adds entry (k, v) with the sign of plus to the three cells of a sketch of size f. -/
def sketchAdd (e : List Word) (f : Nat) (plus : Bool) (k v : Word) (m : Map Cell) : Map Cell :=
  let h := entryHash e k v
  (List.range 3).foldl (fun m i =>
    let c := i * 2 ^ f + hashIdx h i % 2 ^ f
    let x := cellAt m c
    setCell m c ⟨if plus then x.count + 1 else x.count - 1, x.check ^^^ hashChk h, x.key ^^^ k, x.val ^^^ v⟩) m

/-! ## Classes and slots (20 R334, R336, R341) -/

/-- The key of an empty slot. -/
def emptyKey : Word := 0xFFFFFFFFFFFFFFFF
/-- The key of a tombstone. -/
def tombKey : Word := 0xFFFFFFFFFFFFFFFE
/-- A refusal word. -/
def refusalWord (code : Nat) : Word := BitVec.ofNat 64 (2 ^ 63 + code)
/-- An outcome word. -/
def outcomeWord (code slot : Nat) : Word := BitVec.ofNat 64 (code * 2 ^ 56 + slot % 2 ^ 24)

/-- The physical address of byte o of a class's region. -/
def SkClass.pa (c : SkClass) (o : Nat) : Nat :=
  let a := c.base % 65536 + o
  c.frames.getD (a / 65536) 0 * 65536 + a % 65536
/-- A dword of a table as its last write left it, and poison: what the writes on their way to the controllers leave there (20 R335, 04 R67). -/
def tableRead (s : State) (pa : Nat) : Nat × Bool := homeRead (drainGroup s (granOf pa) 5 0) pa 8
/-- The reserved fields of header dword 0 are zero and LOG2N is in range. -/
def headerOk (w : Word) : Bool := (w &&& 0xFFFFFFFFFFFFE0F0 == 0) && decide (4 ≤ w.toNat / 256 % 32) && decide (w.toNat / 256 % 32 ≤ 20)
/-- The class whose table has its header at pa, at the engine of module m: refusal NOCLASS or BUSY otherwise. -/
def classAt (s : State) (m pa : Nat) : Except Nat SkClass :=
  let w := BitVec.ofNat 64 (tableRead s pa).1
  if !headerOk w then .error 1
  else match (s.modl m).classes.find? (fun c => c.cls = w.toNat % 16) with
    | none => .error 1
    | some c => if c.base ≠ pa then .error 1 else if c.clearing then .error 4 else .ok c
/-- Module m with class c replaced. -/
def setClass (s : State) (m : Nat) (c : SkClass) : State :=
  s.updMod m (fun x => { x with classes := x.classes.map (fun y => if y.cls = c.cls then c else y) })

/-- What find(k) gives: the slot that holds k, the first slot that could take it, an uncorrectable slot met. -/
structure Found where
  slot : Option Nat
  free : Option Nat
  bad : Bool

/-- find(k), with n probes left from probe p. -/
def probe (s : State) (c : SkClass) (h : Nat) (k : Word) : Nat → Nat → Option Nat → Found
  | 0, _, a => ⟨none, a, false⟩
  | n + 1, p, a =>
    let i := (h + p) % 2 ^ c.log2n
    let r := tableRead s (c.pa (64 + 16 * i))
    let key := BitVec.ofNat 64 r.1
    if r.2 then ⟨none, none, true⟩
    else if key = k then ⟨some i, a, false⟩
    else
      let a := if (key = tombKey ∨ key = emptyKey) ∧ a = none then some i else a
      if key = emptyKey then ⟨none, a, false⟩ else probe s c h k n (p + 1) a
/-- find(k). -/
def findKey (s : State) (c : SkClass) (k : Word) : Found :=
  probe s c ((hashOf c.hash k).toNat % 2 ^ c.log2n) k (Nat.min 64 (2 ^ c.log2n)) 0 none

/-- Who performs a table operation: a strand, at its own level or as a member of its module's DEVICE group (04 R77), and the address it
named. -/
structure Actor where
  x : Nat
  gl : Nat
  va : Word

/-- An indivisible write of n bytes of a table (20 R335). -/
def tableWrite (s : State) (c : SkClass) (who : Actor) (o n v : Nat) : State :=
  atomicPut (atomicEvent s (granOf (c.pa o)) c.share who.gl who.x true who.va) c.share who.x (c.pa o) n v who.va

/-- What a table operation gives: the state, the result word, the value found, and an uncorrectable read. -/
structure SkRes where
  s : State
  res : Word
  value : Option Word
  bad : Bool

/-- SKINS (op 11), SKDEL (12) and SKLOOK (13) of key k on a class of module m, in table order (20 R342). -/
def tableOp (s : State) (m : Nat) (c : SkClass) (who : Actor) (op : Nat) (k v : Word) : SkRes :=
  let f := findKey s c k
  let hd := tableRead s (c.pa 8)
  if f.bad || hd.2 then ⟨s, 0, none, true⟩
  else
    let count := hd.1 % 2 ^ 32
    let tomb := hd.1 / 2 ^ 32
    let old := match f.slot with | some i => tableRead s (c.pa (64 + 16 * i + 8)) | none => (0, false)
    let oldv := BitVec.ofNat 64 old.1
    if old.2 then ⟨s, 0, none, true⟩
    else
      let sk := fun (plus : Bool) (x : Word) (m : Map Cell) => sketchAdd c.hash c.log2m plus k x m
      match op, f.slot with
      | 11, some i =>
        if oldv = v then ⟨s, outcomeWord 1 i, some oldv, false⟩
        else
          let s := tableWrite s c who (64 + 16 * i) 16 (k.toNat + v.toNat * 2 ^ 64)
          ⟨setClass s m { c with cells := sk true v (sk false oldv c.cells) }, outcomeWord 2 i, some oldv, false⟩
      | 11, none =>
        match f.free with
        | none => ⟨s, refusalWord 7, none, false⟩
        | some a =>
          if 7 * 2 ^ c.log2n / 8 ≤ count then ⟨s, refusalWord 7, none, false⟩
          else
            let wasTomb := (tableRead s (c.pa (64 + 16 * a))).1 = tombKey.toNat
            let s := tableWrite s c who (64 + 16 * a) 16 (k.toNat + v.toNat * 2 ^ 64)
            let s := tableWrite s c who 8 8 ((if wasTomb then tomb - 1 else tomb) * 2 ^ 32 + (count + 1) % 2 ^ 32)
            ⟨setClass s m { c with cells := sk true v c.cells }, outcomeWord 0 a, none, false⟩
      | 12, some i =>
        let s := tableWrite s c who (64 + 16 * i) 16 tombKey.toNat
        let s := tableWrite s c who 8 8 ((tomb + 1) % 2 ^ 32 * 2 ^ 32 + (count - 1))
        ⟨setClass s m { c with cells := sk false oldv c.cells }, outcomeWord 3 i, some oldv, false⟩
      | 12, none => ⟨s, outcomeWord 4 0, none, false⟩
      | _, some i => ⟨s, outcomeWord 1 i, some oldv, false⟩
      | _, none => ⟨s, outcomeWord 4 0, none, false⟩

/-- SKINS, SKDEL or SKLOOK with the header at pa, as issued: NOCLASS, BUSY and BADKEY first. -/
def tableRequest (s : State) (m pa : Nat) (who : Actor) (op : Nat) (k v : Word) : SkRes :=
  if (tableRead s pa).2 then ⟨s, 0, none, true⟩
  else match classAt s m pa with
  | .error e => ⟨s, refusalWord e, none, false⟩
  | .ok c => if k = emptyKey ∨ k = tombKey then ⟨s, refusalWord 6, none, false⟩ else tableOp s m c who op k v

/-! ## Atomics at their home (15 R262, R267 to R270) -/

/-- op of 15 R268 on n-bit values. -/
def amoFun (op n old c : Nat) : Nat :=
  match op with
  | 0 => c
  | 1 => (old + c) % 2 ^ n
  | 2 => old &&& c
  | 3 => old ||| c
  | 4 => old ^^^ c
  | 5 => if toSigned n old < toSigned n c then old else c
  | 6 => if toSigned n old < toSigned n c then c else old
  | 7 => Nat.min old c
  | _ => Nat.max old c

/-- The answer to an atomic sets off for a destination cell of its requester (15 R267, 19 R309). -/
def fillReq (s : State) (r : HomeReq) (d : Option Nat) (v : Word) (m : Mark) : State :=
  match d with
  | none => s
  | some d =>
    let a := fromHome s r.pa (coreOf r.strand)
    (a.2.updStrand r.strand (fun st => { st with prods := st.prods ++ [{ tok := r.tok, sdest := some d, sval := v, smark := m, vdest := [], ea := r.ea, msg := a.1 }] })).post
      (.loadDataArrival r.strand 0 false)
/-- A destination cell of an atomic whose home no port reaches is filled with poison (19 R319). -/
def poisonReq (s : State) (r : HomeReq) (d : Option Nat) : State :=
  match d with
  | some d => s.updStrand r.strand (fun st => st.fill d r.tok 0 (.poison r.ea))
  | none => s

/-- An atomic leaves its granule's queue to be performed. -/
def leaveQueue (s : State) (r : HomeReq) : State :=
  let g := granOf r.pa
  let s := { s with homeq := s.homeq.erase r }.delivered r.msg
  let s := { s with gap := if s.homeq.any (fun x => granOf x.pa == g) then mset g 0 s.gap else mdel g s.gap }
  s.updStrand r.strand (fun st => { st with atomics := st.atomics - 1 })
/-- An atomic is performed at its home: one event in the granule's queue (15 R262, R268 to R270, 20 R342). bad is an
uncorrectable read part: nothing is written and the result is poisoned (R267). A home that no port reaches is reported (19 R319). -/
def performAtomic (s : State) (r : HomeReq) (bad : Bool) : State :=
  let g := granOf r.pa
  let gone := s.lost.contains r.msg
  let s := leaveQueue s r
  if gone || unreachable s (moduleOf r.strand) r.pa then
    let s := s.report r.strand 6 r.ea
    poisonReq (poisonReq s r r.dest) r r.dest2
  else
    let s := serveDegraded s r.pa
    let s := opensRow s r.pa
    let s := if bad && (degradedAt s r.pa).isNone then poisonAt s (physOf s r.pa) else s
    if 11 ≤ r.op then
      let drained := atomicEvent s g r.share 0 r.strand false r.ea
      let x := tableRequest drained (moduleOf r.strand) r.pa ⟨r.strand, 0, r.ea⟩ r.op r.arg r.exp
      if bad || x.bad then fillReq (fillReq drained r r.dest 0 (.poison r.ea)) r r.dest2 0 (.poison r.ea)
      else if r.op = 13 then fillReq (fillReq x.s r r.dest (x.value.getD 0) .clean) r r.dest2 x.res .clean
      else fillReq x.s r r.dest x.res .clean
    else
    let drained := drainGroup (if r.dir then dropCopies s g (ownCopy (coreOf r.strand)) else s) g 5 r.strand
    let rd := homeRead drained r.pa (if r.op = 10 then 8 else r.sz)
    let n := 8 * r.sz
    let event := fun (s : State) (pa : Nat) (w : Bool) => if r.dir then s else atomicEvent s (granOf pa) r.share 0 r.strand w r.ea
    let put := fun (s : State) (pa n v : Nat) =>
      let va := r.ea + BitVec.ofNat 64 (pa - r.pa)
      if r.dir then homePut s r.strand pa n v va else atomicPut s r.share r.strand pa n v va
    if bad || rd.2 then fillReq (event drained r.pa false) r r.dest 0 (.poison r.ea)
    else if r.op = 10 then
      let cnt := rd.1 % 2 ^ 32
      let slot := r.pa + 8 + cnt * r.sz
      if rd.1 / 2 ^ 32 ≤ cnt then fillReq (event drained r.pa false) r r.dest (BitVec.allOnes 64) .clean
      else if r.lastPa < slot then fillReq (event drained r.pa false) r r.dest (BitVec.allOnes 64 - 1) .clean
      else
        let s := put (event drained slot true) slot r.sz (uAt n r.arg)
        let s := put (event s r.pa true) r.pa 8 (rd.1 / 2 ^ 32 * 2 ^ 32 + (cnt + 1) % 2 ^ 32)
        fillReq s r r.dest (BitVec.ofNat 64 cnt) .clean
    else
      let old := rd.1
      let writes := r.op ≠ 9 ∨ old = uAt n r.exp
      let s := event drained r.pa (decide writes)
      let s := if writes then put s r.pa r.sz (if r.op = 9 then uAt n r.arg else amoFun r.op n old (uAt n r.arg)) else s
      fillReq s r r.dest (wrapAt n (old : Int)) .clean

/-- Its home has it, and none of the same core that was sent before it to the granule is still to be performed: of those of different cores, what sched
takes first has arrived first (15 R262, 19 R313). -/
def atomicDue (s : State) (r : HomeReq) : Bool :=
  s.arrived r.msg && !(s.homeq.takeWhile (fun x => x != r)).any (fun x => granOf x.pa == granOf r.pa && coreOf x.strand == coreOf r.strand)

/-! ## What a strand has outstanding on its way to the homes, and handoffs (03 R58, 04 R69) -/

/-- Tile stores of strand p that its core's matrix queue still holds. -/
def queuedStores (s : State) (p : Nat) : List (List MRow) :=
  (s.core (coreOf p)).mx.queue.filterMap (fun o => match o with | .store q _ _ rows => if q = p then some rows else none | _ => none)
/-- Every granule that strand p has written and that is still on its way out. -/
def ownGranules (s : State) (p : Nat) : List Nat :=
  let by_ := fun (w : List Writer) => w.any (fun x => x.strand == p)
  (((s.core (coreOf p)).wcb.filter (fun (w : Wcb) => by_ w.writers)).map (fun (w : Wcb) => w.gran)
    ++ (s.outbound.filter (fun (o : Outbound) => by_ o.writers)).map (fun (o : Outbound) => o.gran)
    ++ ((s.merges.filter (fun (m : Merge) => by_ m.writers)).map (fun (m : Merge) => m.cells.map (fun (c : Host.Cell) => c.1 / 256))).flatten).eraseDups
/-- The stores of strand p enter coherence order at their homes, one event a granule; where a home lets no event pass they stay on their way. -/
def drainOwn (s : State) (p : Nat) : State :=
  (ownGranules s p).foldl (fun s g => if eventHeld s (g * 256) then s else gapEvent (drainGroup s g 1 p) g) s
/-- The atomics of strand p that have reached their homes are performed, with those that stand before them in their granules' queues. -/
def flushAtomics (s : State) (p : Nat) : State :=
  s.homeq.foldl (fun t r =>
    if (t.homeq.dropWhile (fun x => x != r)).any (fun x => x.strand == p && granOf x.pa == granOf r.pa) && atomicDue t r
    && !heldAt t r.pa then performAtomic t r false else t) s
/-- Strand p has accesses outstanding that a handoff by an instruction would have to find performed: stores, atomics, tile stores, remote accesses, loads
whose data are still to be read, and transfers on local ports that were issued before it, by their tokens. -/
def unsettled (s : State) (p bound : Nat) : Bool :=
  !(ownGranules s p).isEmpty || s.homeq.any (fun r => r.strand == p) || !(queuedStores s p).isEmpty || s.remote.any (fun r => r.strand == p)
    || (s.strand p).prods.any (fun d => d.late.isSome)
    || s.xfers.any (fun x => x.strand == p && x.saved.isNone && decide (x.tok ≤ bound) && (match x.port with | .fab _ _ => false | _ => true))
/-- An instruction of strand p, issued when the token counter stood at bound, writes scratchpad words, or registers, of a core: a read of them by its
sibling is a handoff when p has accesses outstanding.
(DEDUCED, unsafe: notes/assumptions/17.) -/
def noteHandAt (s : State) (p bound : Nat) (keys : List Nat) : State :=
  let c := s.core (coreOf p)
  if c.hand.isEmpty && !unsettled s p bound then s
  else
    let rest := c.hand.filter (fun e => !keys.contains e.1)
    s.setCore (coreOf p) { c with hand := if unsettled s p bound then rest ++ keys.map (fun k => (k, p, bound)) else rest }
/-- An instruction of strand p writes them now. -/
def noteHand (s : State) (p : Nat) (keys : List Nat) : State := noteHandAt s p s.tokens keys
/-- The keys of scratchpad bytes and of vector and mask registers. -/
def handWords (off n : Nat) : List Nat := if n = 0 then [] else (List.range ((off + n - 1) / 8 - off / 8 + 1)).map (off / 8 + ·)
def handV (j : Nat) : Nat := 2 ^ 21 + j
def handK (j : Nat) : Nat := 2 ^ 21 + 32 + j
/-- The keys of tiles, accumulator banks and codebook slots. -/
def handT (j : Nat) : Nat := 2 ^ 21 + 40 + j
def handA (j : Nat) : Nat := 2 ^ 21 + 48 + j
def handC (j : Nat) : Nat := 2 ^ 21 + 56 + j
/-- A read of keys by strand p is a handoff from its sibling. -/
def handed (s : State) (p : Nat) (keys : List Nat) : Bool := (s.core (coreOf p)).hand.any (fun e => e.2.1 != p && keys.contains e.1)
/-- What the sibling of strand p did before such a write is performed first; a tile store in the queue, an atomic that Dexlink still carries, a
remote access, a transfer, and what a home lets not pass have still to be waited for. -/
def handOver (s : State) (p : Nat) : State :=
  let q := if p % 2 = 0 then p + 1 else p - 1
  let s := drainOwn (flushAtomics (sampleAll s q) q) q
  let bound := ((s.core (coreOf p)).hand.map (fun e => if e.2.1 = q then e.2.2 else 0)).foldl Nat.max 0
  if unsettled s q bound then s else s.updCore (coreOf p) (fun c => { c with hand := c.hand.filter (fun e => e.2.1 ≠ q) })

end Sys2Proof.Machine
end

