-- ==== Sys2Proof/Machine/Scratch.lean ====
section
/-! DEFINITION. Accesses to scratchpads (03 R51, 06 R114, R115, 12 R218) and what a vector store has still to write when it retires (23 R371). -/
namespace Sys2Proof.Machine

/-- Writes n bytes of a core's scratchpad; words written whole lose their poison (23 R373). -/
def scratchWrite (s : State) (core off n v : Nat) : State :=
  s.updCore core (fun c =>
    { c with
      scratch := Memory.writeN c.scratch off n v
      spoison := c.spoison.filter (fun w => ¬ (off ≤ 8 * w ∧ 8 * w + 8 ≤ off + n)) })

/-- Reads n bytes of a core's scratchpad: value and whether a word is poisoned. -/
def scratchRead (s : State) (core off n : Nat) : Nat × Bool :=
  let c := s.core core
  (c.scratch.readN off n, c.spoison.any (fun w => decide (off < 8 * w + 8) && decide (8 * w < off + n)))

/-- The 64-byte units that n bytes at an offset overlap. -/
def spUnits (off n : Nat) : List Nat := if n = 0 then [] else (List.range ((off + n - 1) / 64 - off / 64 + 1)).map (off / 64 + ·)
/-- The tags of units set. -/
def setSwz (s : State) (core : Nat) (us : List Nat) (sw : Nat) : State :=
  s.updCore core (fun c => { c with swz := us.foldl (fun m u => if sw = 0 then mdel u m else mset u sw m) c.swz })

/-- A scratchpad access that travels sets off for its core, over the links given (06 R115, 19 R309). -/
def sendOver (s : State) (cls : PClass) (path : List Hop) (ev : Instr) (r : Remote) : State :=
  let m := toCore s r.strand cls r.core path
  State.post { m.2 with remote := m.2.remote ++ [{ r with msg := m.1 }] } ev
/-- A remote access in the request class. -/
def sendRemote (s : State) (r : Remote) : State :=
  sendOver s .request (coreRoute (coreOf r.strand) r.core none) (.remoteScratchpadArrival 0) r
/-- The write of one element of a vector store (10 R192, R199). -/
def performV (s : State) (p : Nat) : VWrite → State
  | .mem pa leaf tlb va n v => performWrite s p ⟨pa, leaf, tlb⟩ va n v
  | .near off n v => setSwz (scratchWrite s (coreOf p) off n v) (coreOf p) (spUnits off n) 0
  | .far r => sendRemote s r
/-- The words of the own core's scratchpad that such a write changes, as handoff keys. -/
def VWrite.keys : VWrite → List Nat | .near off n _ => handWords off n | _ => []

/-! ## Channels (03 R54 to R56) -/

/-- VPART's BND, CHB and CHN. -/
def vpBnd (w : Word) : Nat := w.toNat % 64
def vpChb (w : Word) : Nat := w.toNat / 256 % 32
def vpChn (w : Word) : Nat := w.toNat / 65536 % 32
/-- Register j is a channel. -/
def isChannel (w : Word) (j : Nat) : Bool := decide (vpChb w ≤ j) && decide (j < vpChb w + vpChn w)
/-- Strand p of the core owns register j. -/
def ownsV (w : Word) (p j : Nat) : Bool := if j < vpBnd w then p % 2 == 0 else p % 2 == 1

end Sys2Proof.Machine
end

