-- ==== Sys2Proof/Machine/Ops.lean ====
section
/-! DEFINITION. The shared operations of the sequencer: code lines and their fetch (02 R25 to R34), taking an exception (05 R88) and
returning from one (07 R129), control transfers (02 R32), sequential flow and loop back-edges (07 R123), the operand test (02 R40). -/
namespace Sys2Proof.Machine

/-! ## Traps and waits -/

/-- A trap about to be taken; epc none is the current head. -/
structure TrapInfo where
  code : Nat
  qual : Nat := 0
  tval : Word := 0
  epc : Option Word := none
  svf : Bool := false
  int : Bool := false
  deriving DecidableEq, Repr

/-- Why an instruction does not complete: a trap raised in a state, or a wait that leaves a state. -/
inductive Stop where
  | trap (t : TrapInfo) (s : State)
  | wait (s : State)

/-- What a meaning computes before it answers. -/
abbrev Res (α : Type) := Except Stop α

/-- Raises a trap. -/
def raise {α : Type} (s : State) (code : Nat) (qual : Nat := 0) (tval : Word := 0) : Res α :=
  .error (.trap { code := code, qual := qual, tval := tval } s)
/-- Waits at issue: nothing changes, the instruction is executed again. -/
def wait {α : Type} (s : State) : Res α := .error (.wait s)
/-- Goes on when the condition holds. -/
def need (c : Bool) (e : Res Unit) : Res Unit := if c then .ok () else e

/-! ## Code lines -/

/-- The halfword at byte k of a line. -/
def lineHalf (d : BitVec 512) (k : Nat) : Half := d.extractLsb' (8 * k) 16
/-- The head count N (02 R25). -/
def lineN (d : BitVec 512) : Nat := (d.extractLsb' 0 5).toNat
/-- S(i): tail halfwords of heads 0 to i-1 (02 R25). -/
def lineS (d : BitVec 512) (i : Nat) : Nat := (List.range i).foldl (fun acc j => acc + headTl (lineHalf d (2 + 2 * j))) 0
/-- The lowest failing condition of 02 R27, 0 when the line is well formed. -/
def lineFault (d : BitVec 512) : Nat :=
  let n := lineN d
  let t := lineS d n
  if d.extractLsb' 5 11 ≠ 0 then 1
  else if n = 0 then 2
  else if 31 < n + t then 3
  else if d.toNat / 2 ^ (8 * (2 * n + 2)) % 2 ^ (8 * (62 - 2 * n - 2 * t)) ≠ 0 then 4 else 0
/-- The instruction whose head is at byte k of a line: head and tail halfwords. -/
def lineInstr (d : BitVec 512) (k : Nat) : Half × List Half :=
  let h := lineHalf d k
  let base := 64 - 2 * lineS d (k / 2)
  (h, (List.range (headTl h)).map (fun j => lineHalf d (base + 2 * j)))

/-- The line address of a head address. -/
def lineOf (pc : Word) : Word := pc &&& ~~~63#64
/-- Byte of a head within its line. -/
def offOf (pc : Word) : Nat := pc.toNat % 64
/-- The head count of the line a strand executes from. -/
def Strand.headCount (st : Strand) : Nat := match st.line with | some l => if l.addr = lineOf st.pc then lineN l.data else 0 | none => 0
/-- seqnext of a head in a line of n heads (02 R30). -/
def seqNextIn (n : Nat) (pc : Word) : Word := if offOf pc < 2 * n then pc + 2 else lineOf pc + 66
/-- seqnext of the current head (07 R118). -/
def Strand.seqNext (st : Strand) : Word := seqNextIn st.headCount st.pc
/-- Head and tail halfword 0 of the current instruction, as TVAL of ILLEGAL_OPCODE holds them (02 R41). -/
def Strand.words (st : Strand) : Word :=
  match st.line with
  | none => 0
  | some l =>
    let i := lineInstr l.data (offOf st.pc)
    (i.1.setWidth 64) ||| ((i.2.headD 0).setWidth 64 <<< 16)
/-- Raises ILLEGAL_OPCODE under a rule that reads the strand's state (02 R41). -/
def illegal {α : Type} (s : State) : Res α := raise s 0x01 0 s.me.words
/-- PRIVILEGE unless the strand runs at S (05 R84). -/
def needS (s : State) : Res Unit := if s.me.status.prv then .ok () else raise s 0x04

/-- Fetches and checks the line that strand p enters at address va (02 R28, R29); prv judges the U right. A home on another module is asked over Dexlink, and
one that no port reaches delivers poison (19 R319). -/
def fetchLine (s : State) (p : Nat) (va : Word) (prv : Bool) : Except TrapInfo CodeLine × State :=
  match checkAccess s p (lineOf va) { kind := .fetch, prv := some prv } with
  | (.error c, s) => (.error { code := c.code, qual := c.qual, tval := va }, s)
  | (.ok a, s) =>
    let s := if atHome s p a then sendFlit s (moduleOf p) (s.answers (paModule a.pa)) else s
    let r := if unreachable s (moduleOf p) a.pa then ((0, true), s.report p 6 va) else readBytes s p a.pa 64 a.dir
    if r.1.2 then (.error { code := 0x10, qual := 7, tval := va }, r.2)
    else
      let d := BitVec.ofNat 512 r.1.1
      if lineFault d ≠ 0 then (.error { code := 0x02, tval := lineOf va ||| BitVec.ofNat 64 (lineFault d) }, r.2)
      else (.ok ⟨lineOf va, d⟩, r.2)

/-- The line of the current head, when the replay buffer holds it (07 R127). -/
def Strand.heldLine (st : Strand) : Option CodeLine :=
  match st.replay with
  | some r => if r.first ≤ st.pc ∧ st.pc ≤ r.last then r.lines.find? (fun (l : CodeLine) => l.addr = lineOf st.pc) else none
  | none => none

/-- The checks of 02 R32 on a target; a line held in the replay buffer is not fetched (07 R127). -/
def checkTarget (s : State) (p : Nat) (t : Word) (prv : Bool) : Except TrapInfo CodeLine × State :=
  if t.getLsbD 0 || offOf t == 0 then (.error { code := 0x03, tval := t }, s)
  else
    let held := match (s.strand p).replay with
      | some r => if r.first ≤ t ∧ t ≤ r.last then r.lines.find? (fun (l : CodeLine) => l.addr = lineOf t) else none
      | none => none
    match held with
    | some l => if offOf t ≤ 2 * lineN l.data then (.ok l, s) else (.error { code := 0x03, tval := t }, s)
    | none =>
      match fetchLine s p t prv with
      | (.error e, s) => (.error e, s)
      | (.ok l, s) => if offOf t ≤ 2 * lineN l.data then (.ok l, s) else (.error { code := 0x03, tval := t }, s)

/-- Control enters a line at a checked target. -/
def Strand.enter (st : Strand) (t : Word) (l : CodeLine) : Strand := { st with pc := t, line := some l, run := .active }

/-! ## Retirement of vector instructions (09 R162, 23 R370, R371) -/

/-- The binding of register j of a core, with the strand that holds it (19 R323). -/
def State.boundAt (s : State) (core j : Nat) : Option (Nat × Binding) :=
  [2 * core, 2 * core + 1].findSome? (fun p => ((s.strand p).bindings.find? (fun b => b.reg = j)).map (fun b => (p, b)))
/-- A changed binding. -/
def State.setBinding (s : State) (p : Nat) (b : Binding) : State :=
  s.updStrand p (fun st => { st with bindings := st.bindings.map (fun x => if x.reg = b.reg then b else x) })
/-- The pushes of a binding not yet performed (19 R324). -/
def pushesOut (s : State) (p : Nat) (b : Binding) : Nat :=
  b.pend.length + match s.colls.find? (fun c => c.key = b.coll) with
    | some c => (((c.wait.filter (fun x => x.member = b.member && x.strand == p)).map (fun x => x.pos / b.w)).eraseDups).length
    | none => 0
/-- Register j after an instruction of strand p has written it, or (ends false) has stopped at an element: full, but for a channel of its owner, which
becomes full only once it is written (03 R56). -/
def fullAfter (s : State) (p j : Nat) (ends : Bool) : Bool :=
  ends || !(isChannel (s.core (coreOf p)).vpart j && ownsV (s.core (coreOf p)).vpart p j) || (mget VReg.zero (s.core (coreOf p)).v j).full
/-- A vector register is written by an instruction of strand p that has completed, or (ends false) has stopped at an element: the register, or the
push buffer of a bound one, which is pushed whole once the instruction has completed. -/
def State.putV (s : State) (p j : Nat) (v : BitVec 16384) (poison : BitVec 32) (ends : Bool) : State :=
  match s.boundAt (coreOf p) j with
  | none => s.updCore (coreOf p) (fun c => { c with v := mset j ⟨v, fullAfter s p j ends, poison, 0⟩ c.v })
  | some (p, b) =>
    if ends then (s.setBinding p { b with buf := v, bad := poison, pend := b.pend ++ [(v, poison)] }).post (.pushBufferPush p j)
    else s.setBinding p { b with buf := v, bad := poison }

/-- The producer that a vector load is delivers what the load has settled on to the registers that wait for it (23 R370). -/
def VEntry.deliver (e : VEntry) (st : Strand) : Strand :=
  { st with prods := st.prods.map (fun d => if d.tok = e.vtok
      then { d with vdest := d.vdest.map (fun x => (e.dest.find? (fun y => y.1 = x.1)).getD x) } else d) }
/-- The oldest instruction of a core's window retires: its registers, FFLAGS and FFIRST take their values, and a store writes (23 R371). -/
def retireOne (s : State) (core : Nat) : State :=
  match (s.core core).window with
  | [] => s
  | e :: rest =>
    let s := s.updCore core (fun c =>
      { c with
        window := rest
        k := e.mask.foldl (fun m d => mset d.1 ⟨d.2.1, true, d.2.2, 0⟩ m) c.k })
    let s := noteHand s e.strand (e.dest.map (fun d => handV d.1) ++ e.mask.map (fun d => handK d.1) ++ (e.writes.map VWrite.keys).flatten)
    let s := e.dest.foldl (fun s d => if e.vtok = 0 ∨ (s.boundAt core d.1).isSome then s.putV e.strand d.1 d.2.1 d.2.2 e.ends else s) s
    let s := e.writes.foldl (fun s w => performV s e.strand w) (if e.vtok = 0 then s else s.updStrand e.strand (e.deliver))
    s.updStrand e.strand (fun st => { st with vec := { st.vec with
      fflags := st.vec.fflags ||| e.flags, ffirst := if e.setsFirst then e.first else st.vec.ffirst } })

/-- Every instruction of a core's window retires, each recheck agreeing.
(DEDUCED, safe: notes/assumptions/23.) -/
def settle (s : State) (core : Nat) : State := (List.range (s.core core).window.length).foldl (fun t _ => retireOne t core) s

/-! ## Taking an exception (05 R88) -/

/-- The registers that taking an exception saves and changes; NEST = 1 is handled by takeTrap. -/
def Strand.trapEntry (st : Strand) (t : TrapInfo) : Strand :=
  { st with
    trap := ⟨t.int, t.svf, BitVec.ofNat 8 t.qual, BitVec.ofNat 8 t.code, t.epc.getD st.pc, t.tval⟩
    status := { st.status with pprv := st.status.prv, prv := true, pie := st.status.ie, ie := false }
    replay := none
    early := []
    tested := none
    asked := none
    sealing := none
    run := .active }

/-- Strand p takes an exception: one step of 05 R88. With NEST = 1, or when the vector line fails its check (02 R34), a MACHINE_CHECK
goes to firmware and the strand stops for good; with NEST = 1 firmware is handed CODE and the strand's own TVAL stays what the raising rule gave. It waits for the
retirement of the strand's vector instructions (09 R162).
(DESIGN CHOICE, unsafe: notes/assumptions/57.) -/
def takeTrapOn (s : State) (p : Nat) (t : TrapInfo) : State :=
  let s := settle s (coreOf p)
  let st := (s.strand p).trapEntry t
  if st.status.nest then
    (s.setStrand p { st with run := .mcheck }).toFirmware (moduleOf p) (p % 384) (BitVec.ofNat 64 t.code)
  else
    let st := { st with status := { st.status with nest := true } }
    match checkTarget (s.setStrand p st) p st.tvec true with
    | (.error _, s) => (s.updStrand p (fun x => { x with run := .mcheck })).toFirmware (moduleOf p) (p % 384) st.tvec
    | (.ok l, s) => s.updStrand p (fun x => x.enter st.tvec l)

/-- The running strand takes an exception. -/
def takeTrap (s : State) (t : TrapInfo) : State := takeTrapOn s s.cur t

/-- What a return from an exception restores (07 R129): the privilege and the interrupt enable of before the trap; NEST is cleared. -/
def Strand.trapReturn (st : Strand) : Strand :=
  { st with status := { st.status with prv := st.status.pprv, ie := st.status.pie, nest := false } }

/-- The running strand's instruction waits at issue; its operand test has been made (02 R40). -/
def State.waits (s : State) : State := s.updMe (fun st => { st with run := .waiting, tested := some st.pc })

/-- The answer of a meaning: its state, the trap it takes, or the same instruction waiting. -/
def finish (r : Res State) : Host.Outcome State Fault Refusal :=
  match r with
  | .ok s => .next s
  | .error (.trap t s) => .next (takeTrap s t)
  | .error (.wait s) => .next s.waits

/-! ## Transfers and sequential flow -/

/-- transfer(t) (07 R118). -/
def transferTo (s : State) (t : Word) : Res State :=
  match checkTarget s s.cur t s.me.status.prv with
  | (.error e, s) => .error (.trap e s)
  | (.ok l, s) => .ok (s.updMe (fun st => { st.enter t l with tested := none }))

/-- A checkpoint with table index i lands a pending request of a strand that runs a continuation at U and holds no
binding (05 R94, 19 R327). -/
def Strand.checkpoint (st : Strand) (i : BitVec 9) : Strand :=
  if st.status.preq && !st.status.prv && st.cont.isSome && st.bindings.isEmpty then { st with landed := some i } else st

/-- Loop-stack entry n. -/
def Strand.loop (st : Strand) (n : Nat) : Loop := mget Loop.zero st.loops n

/-- The cascade of 07 R123 at the head at pc, on a copy of the strand: the strand after it and, when a back-edge is made, its target and
checkpoint. CNT has 64 bits: CNT - 1 of an entry that MTS has given CNT = 0 is not zero, and the loop goes on.
(DESIGN CHOICE, unsafe: notes/assumptions/54.) -/
def loopCascade : Nat → Strand → Strand × Option (Word × Option (BitVec 9))
  | 0, st => (st, none)
  | k + 1, st =>
    if st.loopd = 0 then (st, none)
    else
      let e := st.loop (st.loopd - 1)
      if e.fin ≠ st.pc then (st, none)
      else if e.cnt - 1 ≠ 0 then
        ({ st with loops := mset (st.loopd - 1) { e with cnt := e.cnt - 1, idx := e.idx + 1 } st.loops },
          some (e.beg, if e.ck then some e.cki else none))
      else loopCascade k { st with loops := mset (st.loopd - 1) { e with cnt := e.cnt - 1 } st.loops, loopd := st.loopd - 1 }

/-- The current head completes with sequential flow as its next step: a back-edge of the innermost loops that end here (07 R123), or
seqnext (02 R30). A failing back-edge leaves the loop stack as it was; the head has completed. -/
def advance (s : State) : Res State :=
  match loopCascade 6 s.me with
  | (st, none) => .ok (s.setStrand s.cur { st with pc := st.seqNext, run := .active, tested := none })
  | (st, some (t, ck)) =>
    match checkTarget s s.cur t s.me.status.prv with
    | (.error e, s) => .error (.trap e s)
    | (.ok l, s) => .ok (s.updMe (fun x =>
      let x := { x.enter t l with loops := st.loops, tested := none, loopd := st.loopd }
      match ck with | some i => x.checkpoint i | none => x))

/-- An atomic with ACQ is not performed yet: no later read of the strand goes before it (04 R68). -/
def acquiring (s : State) (p : Nat) : Bool := s.homeq.any (fun r => r.strand == p && r.acq)

/-! ## Operands (02 R40) -/

/-- A source: file (0 scalar, 1 vector, 2 mask), number, F bit. -/
structure Opnd where
  file : Nat
  n : Nat
  f : Bool
  deriving DecidableEq, Repr

/-- A scalar source. -/
def Opnd.s (n : Reg) (f : Bool) : Opnd := ⟨0, n.toNat, f⟩
/-- A vector source. -/
def Opnd.v (n : Nat) (f : Bool) : Opnd := ⟨1, n, f⟩
/-- A mask source. -/
def Opnd.k (n : Nat) (f : Bool) : Opnd := ⟨2, n, f⟩

/-- The register is full. -/
def opFull (s : State) (o : Opnd) : Bool :=
  match o.file with
  | 0 => (s.me.sreg o.n).full
  | 1 => (mget VReg.zero s.mycore.v o.n).full
  | _ => (mget KReg.zero s.mycore.k o.n).full

/-- Reads a poisoned or failed scalar register (06 R113, 20 R347). -/
def scalarMark (s : State) (o : Opnd) : Option TrapInfo :=
  if o.file ≠ 0 then none else match (s.me.sreg o.n).mark with
    | .clean => none
    | .poison ea => some { code := 0x10, qual := 1, tval := ea }
    | .peel tv => some { code := 0x11, tval := tv }

/-- A STRM on the channel of vector register j of a core is outstanding (19 R328). -/
def fabBusy (s : State) (core j : Nat) : Bool :=
  s.xfers.any (fun x => match x.port with | .fab p r => coreOf p == core && r == j && x.saved.isNone | _ => false)

/-- The key of a register that a sibling's write makes a handoff (03 R58). -/
def Opnd.key (o : Opnd) : Option Nat := match o.file with | 0 => none | 1 => some (handV o.n) | _ => some (handK o.n)
/-- The operand test: an empty source with F = 1 raises EMPTY_OPERAND, an empty source with F = 0 waits; then a poisoned scalar source raises.
The list stands in the order of report: Rb, Rc, others. The test is made once: a head that waits has passed it, and goes on waiting for its
sources with F = 0 alone (02 R40). A source that its sibling wrote waits for what the sibling did before (03 R58). -/
def operands (s : State) (os : List Opnd) : Res Unit :=
  let again := s.me.tested == some s.me.pc
  match (if again then none else os.find? (fun o => o.f && !opFull s o)) with
  | some o => raise s 0x05 0 (BitVec.ofNat 64 (o.file * 32 + o.n))
  | none =>
    if handed s s.cur (os.filterMap Opnd.key) then wait (handOver s s.cur)
    else if os.any (fun o => (!o.f || !again) && !opFull s o || o.file == 1 && fabBusy s (coreOf s.cur) o.n) then wait s
    else match os.findSome? (scalarMark s) with
      | some t => .error (.trap t s)
      | none => .ok ()

/-- The value of a scalar source. -/
def sv (s : State) (n : Reg) : Word := s.me.sval n.toNat

/-- A scalar result: written, then sequential flow. -/
def writeBackS (s : State) (d : Reg) (v : Word) : Res State := advance (s.setS d v)

end Sys2Proof.Machine
end

