-- ==== Sys2Proof/Machine/Walk.lean ====
section
/-! DEFINITION. The walk of stream registers (10 R182 to R184) and of the transfers that copied them, and what an access of a strand waits
for: its own atomics and transfers to the same granule (03 R47 to R49). -/
namespace Sys2Proof.Machine

/-- POS of stream register n. -/
def Strand.qpos (st : Strand) (n : Nat) : Word := mget 0 st.qregs (8 * n + 6)
/-- Dimension counts and the length of stream register n (10 R182, R183). -/
def Strand.qw (st : Strand) (n w : Nat) : Word := mget 0 st.qregs (8 * n + w)
def Strand.qc0 (st : Strand) (n : Nat) : Nat := (st.qw n 4).toNat % 2 ^ 32
def Strand.qc1 (st : Strand) (n : Nat) : Nat := (st.qw n 4).toNat / 2 ^ 32
def Strand.qc2 (st : Strand) (n : Nat) : Nat := (st.qw n 5).toNat % 2 ^ 32
/-- TOT. -/
def Strand.qtot (st : Strand) (n : Nat) : Nat := st.qc0 n * st.qc1 n * st.qc2 n
/-- addr(k) of a position that is not past the end. -/
def Strand.qaddr (st : Strand) (n k : Nat) : Word :=
  let c0 := st.qc0 n
  let c1 := st.qc1 n
  st.qw n 0 + BitVec.ofNat 64 (k % c0) * st.qw n 1 + BitVec.ofNat 64 (k / c0 % c1) * st.qw n 2 + BitVec.ofNat 64 (k / (c0 * c1)) * st.qw n 3
/-- The addresses, one for each of the next pages beyond that of position k, up to n pages; seen are the pages met. -/
def Strand.pagesAhead (st : Strand) (q : Nat) : Nat → Nat → Nat → List Nat → List Word
  | 0, _, _, _ => []
  | fuel + 1, k, n, seen =>
    if n = 0 ∨ st.qtot q ≤ k then []
    else
      let a := st.qaddr q k
      if seen.contains (a.toNat / 65536) then st.pagesAhead q fuel (k + 1) n seen
      else a :: st.pagesAhead q fuel (k + 1) (n - 1) (a.toNat / 65536 :: seen)
/-- The walk-ahead of stream register q of the running strand translates the next WA pages; a walk that fails holds nothing (10 R191), and none
sets A, which the access that uses the page sets.
(DEDUCED, unsafe: notes/assumptions/56, 58.) -/
def walkAhead (s : State) (q : Nat) : State :=
  let st := s.me
  let d := (st.qw q 5).toNat / 2 ^ 32 % 16
  let k := (st.qpos q).toNat
  if d = 0 then s
  else (st.pagesAhead q 1048576 k d [(st.qaddr q k).toNat / 65536]).foldl (fun s a =>
    let held := s.me.tlb
    match translate s s.cur a with
    | (.ok t, s) => if held.contains t then s else s.updMe (fun st => { st with walked := (q, t.base) :: st.walked })
    | (.error _, s) => s) s
/-- A write to words 0 to 5 of a stream register, or QRST, discards what its walk-ahead translated (10 R184, R195). -/
def Strand.dropWalk (st : Strand) (q : Nat) : Strand :=
  { st with
    tlb := st.tlb.filter (fun t => !st.walked.contains (q, t.base))
    walked := st.walked.filter (fun w => w.1 ≠ q) }
/-- The stream register that a transfer copied, as q0 of a strand. -/
def Xfer.regs (x : Xfer) : Strand := { Strand.reset with qregs := (x.q.zipIdx).map (fun w => (w.2, w.1)) }
/-- The position of element k, as an exact sum (00 R8). -/
def Xfer.position (x : Xfer) (k : Nat) : Nat := (x.regs.qpos 0).toNat + k
/-- Element k lies past the end of the stream. -/
def Xfer.past (x : Xfer) (k : Nat) : Bool := decide (x.regs.qtot 0 ≤ x.position k)
/-- Its address. -/
def Xfer.addr (x : Xfer) (k : Nat) : Word := x.regs.qaddr 0 (x.position k)
/-- The strand of a transfer runs the context that issued it. -/
def Xfer.own (s : State) (x : Xfer) : Bool := x.saved.isNone && (s.strand x.strand).ptroot == x.root
/-- The strand of a transfer translating as the transfer's context does: with the translations of its issue first (07 R133). -/
def Xfer.context (s : State) (x : Xfer) : State :=
  s.updStrand x.strand (fun st => { st with ptroot := x.root, tlb := x.pages ++ (if x.own s then st.tlb else []) })
/-- The translation that an access of the transfer uses. -/
def Xfer.translated (s : State) (x : Xfer) (va : Word) : Except Cause Tlb := (translate (x.context s) x.strand va).1
/-- An element of a transfer that is not performed yet lies in granule g. -/
def touches (s : State) (x : Xfer) (g : Nat) : Bool :=
  (List.range x.count).any (fun k => decide (x.done ≤ k) && !x.past k &&
    match x.translated s (x.addr k) with
    | .ok t => granOf (physIn s t ((x.addr k).toNat % 2 ^ 55) x.out) == g
    | .error _ => false)

/-- An uncompleted transfer of strand p that writes memory, or one that reads it when reads count, is still to reach granule g. -/
def xferBusy (s : State) (p g : Nat) (reads : Bool) : Bool :=
  s.xfers.any (fun x => x.strand == p && x.saved.isNone && (x.out || reads) && x.stop.isNone
    && (match x.port with | .fab _ _ => false | _ => true) && x.kind != .mcast && touches s x g)

/-- No RECON of strand p has still to write a buffer or a list. -/
def reconIdle (s : State) (p : Nat) : Bool :=
  !s.mods.any (fun e => e.2.tickets.any (fun x => x.strand == p && (x.mode == 3 || x.mode == 4) && decide (x.stage < 4)))
/-- A RECON of strand p is still to write a list, or when save counts a buffer, on the page of granule g (04 R78, 20 R349). -/
def reconOut (s : State) (p g : Nat) (save : Bool) : Bool :=
  s.mods.any (fun e => e.2.tickets.any (fun x => x.strand == p && (save && x.mode == 3 || x.mode == 4) && decide (x.stage < 4)
    && x.pages.any (fun t => if t.big then g / 256 / 8192 == pteFrame t.leaf / 8192 else g / 256 == pteFrame t.leaf || g / 256 == pteFrame t.partner)))

/-- Strand p has an atomic, or a transfer to or from a local port, outstanding on the granule of an address that an access must not pass. -/
def busyOther (s : State) (p g : Nat) (writes : Bool) : Bool := s.homeq.any (fun r => r.strand == p && granOf r.pa == g) || xferBusy s p g writes
/-- Strand p has an atomic, a tile store, or a transfer to or from a local port, outstanding on the granule of an address, that an access must not
pass: a read does not pass the writes, a write passes neither (R48, R49), nor the tile stores before a FENCE.O (04 R69); a stripe that is being
sealed, or an atomic whose turn has come, holds an access by DIR, and one behind a store by DIR that has not arrived (15 R262, 22 R368).
(DEDUCED, safe: notes/assumptions/17.) -/
def busyGran (s : State) (p : Nat) (va : Word) (writes : Bool) : Bool :=
  if writes && decide (0 < (s.strand p).ordered) then true
  else if s.homeq.isEmpty && s.xfers.isEmpty && (queuedStores s p).isEmpty && !s.strands.any (fun e => e.2.sealing.isSome) && reconIdle s p then false
  else match (translate s p va).1 with
    | .error _ => false
    | .ok t =>
      let pa := physIn s t (va.toNat % 2 ^ 55) writes
      busyOther s p (granOf pa) writes
        || ((writes || t.leaf.getLsbD 10) && (queuedStores s p).any (fun rs => rs.any (fun r => granOf r.pa == granOf pa)))
        || ((t.leaf.getLsbD 10 || dirOut s p (granOf pa)) && eventHeld s pa)
        || reconOut s p (granOf pa) writes
/-- An atomic of strand p goes behind the strand's transfers and tile stores to its granule, and all its tile stores before a FENCE.O (03 R48, 04 R69). -/
def busyAtomic (s : State) (p : Nat) (va : Word) : Bool :=
  if decide (0 < (s.strand p).ordered) then true
  else if s.xfers.isEmpty && (queuedStores s p).isEmpty && reconIdle s p then false
  else match (translate s p va).1 with
    | .error _ => false
    | .ok t =>
      let g := granOf (physIn s t (va.toNat % 2 ^ 55) false)
      xferBusy s p g true || (queuedStores s p).any (fun rs => rs.any (fun r => granOf r.pa == g)) || reconOut s p g true

end Sys2Proof.Machine
end

