-- ==== Sys2Proof/Machine/Memory.lean ====
section
/-! DEFINITION. Majors 0x10 to 0x14, scalar memory and scratchpad access (06 R108 to R116), and the events of the two paths
(14 R244, R260, 10 R190). -/
namespace Sys2Proof.Machine

/-- The running strand's access: the checks of 06 R108 after alignment, raised with TVAL the address; it waits for the strand's own
atomics and transfers on the granule. -/
def access (s : State) (va : Word) (q : Ask) : Res (Acc × State) :=
  if q.kind == .atomic && busyAtomic s s.cur va then wait s
  else if q.kind != .atomic && busyGran s s.cur va (q.kind == .write) then wait s
  else match checkAccess s s.cur va q with
  | (.error c, s) => raise s c.code c.qual va
  | (.ok a, s) => .ok (a, s)

/-- MISALIGNED unless the address is a multiple of n. -/
def aligned (s : State) (va : Word) (n : Nat) : Res Unit := need (va.toNat % n == 0) (raise s 0x06 0 va)

/-- Marks sD empty for a new producer with the value that will arrive, and sets its arrival going (03 R47); msg carries its request to a home. -/
def issueProd (s : State) (d : Reg) (v : Word) (m : Mark) (ea : Word) (msg : Nat := 0) (late : Option (Nat × Nat × Bool × Bool) := none)
    (home : Option Nat := none) : State :=
  let t := s.token
  let s := t.2
  (s.updMe (fun st =>
    let k := physReg st.status.uiact d.toNat
    { (if d = 0 then st else st.markEmpty d.toNat t.1) with
      prods := st.prods ++ 
        [{ tok := t.1, sdest := if d = 0 then none else some k, sval := v, smark := m, vdest := [], ea := ea, msg := msg, late := late, home := home }] })).post (.loadDataArrival s.cur 0 false)

/-- A read by strand p of an access that has passed its checks; a peer that no port reaches is reported and delivers poison
(19 R319). -/
def readAccAs (s : State) (p : Nat) (a : Acc) (va : Word) (n : Nat) : (Nat × Bool) × State :=
  let s := (sampleLate s p (granOf a.pa)).updStrand p (fun st => { st with early := st.early.filter (fun x => x.gran ≠ granOf a.pa) })
  if unreachable s (moduleOf p) a.pa then ((0, true), s.report p 6 va) else readBytes s p a.pa n a.dir
/-- A read by the running strand. -/
def readAcc (s : State) (a : Acc) (va : Word) (n : Nat) : (Nat × Bool) × State := readAccAs s s.cur a va n

/-- The message of a read that goes to the home; 0 when none does. -/
def fetchMsg (s : State) (p : Nat) (a : Acc) : Nat × State := if atHome s p a then toHome s p a.pa else (0, s)
/-- The home that a message of a read goes to. -/
def msgHome (msg : Nat) (a : Acc) : Option Nat := if msg = 0 then none else some a.pa
/-- A later load of strand p is checked, and performed, before older ones: what it reads waits for the load, and nothing else of it shows (06 R112). A load
that would wait for an access of the strand, that fails a check, whose home no port reaches, or that would pass a load still to read, is not made.
(DEDUCED, unsafe: notes/assumptions/18.) -/
def checkAhead (s : State) (p : Nat) (va : Word) (n : Nat) : State :=
  if n = 0 ∨ va.toNat % n ≠ 0 ∨ 8 < n ∨ acquiring s p = true ∨ busyGran s p va false = true then s
  else match checkAccess s p va { kind := .read, touch := false } with
    | (.error _, _) => s
    | (.ok a, u) =>
      if unreachable u (moduleOf p) a.pa || (s.strand p).prods.any (fun d => d.late.any (fun x => granOf x.1 == granOf a.pa)) then s
      else
        let r := (readAccAs u p a va n).1
        s.updStrand p (fun st => { st with early := st.early ++ [⟨va, n, granOf a.pa, r.1, r.2⟩] })
/-- A load (06 R110). The read is performed at its check, at issue or ahead of it; through the direct aperture also when its request arrives at the home,
for which sched asks (14 R256).
(DEDUCED, unsafe: notes/assumptions/18.) -/
def loadOp (s : State) (o : LdOps) (disp : Word) : Res State := do
  operands s [.s o.b o.fb]
  let n := 2 ^ o.sz.toNat
  let ea := sv s o.b + disp
  aligned s ea n
  let give := fun (s : State) (r : Nat × Bool) (msg : Nat) (home : Option Nat) =>
    issueProd s o.d (extendLoad o.z n r.1) (if r.2 then .poison ea else .clean) ea msg none home
  match s.me.early.find? (fun x => x.va == ea && x.len == n) with
  | some x => do
    let (_, s) ← access s ea { kind := .read, tag := false, scope2 := false }
    advance (give (s.updMe (fun st => { st with early := if o.acq then [] else st.early.erase x })) (x.val, x.bad) 0 none)
  | none => do
    let (a, s) ← access s ea { kind := .read }
    let s := if o.acq then s.updMe (fun st => { st with early := [] }) else s
    if s.me.late && !o.acq && a.dir then
      let m := toHome (sampleLate s s.cur (granOf a.pa)) s.cur a.pa
      advance ((issueProd m.2 o.d 0 .clean ea m.1 (some (a.pa, n, a.dir, o.z)) (some a.pa)).updMe (fun st => { st with late := false }))
    else
      let m := fetchMsg s s.cur a
      let r := readAcc m.2 a ea n
      advance (give r.2 r.1 m.1 (msgHome m.1 a))

/-- ld without displacement (06 R109, R110). -/
def execLd (o : LdOps) (s : State) : Host.Outcome State Fault Refusal := finish (loadOp s o 0)
/-- ld with a displacement. -/
def execLdDisp (o : LdOps) (disp : Imm) (s : State) : Host.Outcome State Fault Refusal := finish (loadOp s o disp.word)

/-- A store (06 R111). -/
def storeOp (s : State) (o : StOps) (disp : Word) : Res State := do
  operands s [.s o.b o.fb, .s o.c o.fc]
  let n := 2 ^ o.sz.toNat
  let ea := sv s o.b + disp
  aligned s ea n
  let (a, s) ← access s ea { kind := .write }
  advance (writeBytes s s.cur a ea n (uAt (8 * n) (sv s o.c)))

/-- st without displacement (06 R109, R111). -/
def execSt (o : StOps) (s : State) : Host.Outcome State Fault Refusal := finish (storeOp s o 0)
/-- st with a displacement. -/
def execStDisp (o : StOps) (disp : Imm) (s : State) : Host.Outcome State Fault Refusal := finish (storeOp s o disp.word)

/-! ## Scratchpads (06 R114, R115) -/

/-- The core that SEL names for strand p, if the address may be used (06 R114). -/
def spCore (s : State) (p : Nat) (va : Word) : Option Nat :=
  let sel := va.toNat / 2 ^ 24 % 256
  if va.toNat / 2 ^ 32 ≠ 0 ∨ va.toNat / 2 ^ 21 % 8 ≠ 0 ∨ Config.scratchBytes ≤ va.toNat % 2 ^ 21 then none
  else if sel = 0 then some (coreOf p)
  else match (s.strand p).cont with
    | none => none
    | some c =>
      if c.glvl < 2 then none
      else (c.members[(sel - 1) * (if c.spc then 2 else 1)]?).map coreOf

/-- SEL of a scratchpad address names no core: the access is made in the core's own scratchpad order; another travels (06 R115). -/
def spNear (va : Word) : Bool := va.toNat / 2 ^ 24 % 256 == 0
/-- An access of the running strand travels to its own core: later ones there go behind it (03 R51, 19 R332). -/
def selfBusy (s : State) : Bool := s.remote.any (fun r => r.strand == s.cur && r.core == coreOf s.cur)
/-- Remote scratchpad accesses of the running strand's core to a core, or of the strand to its own, are on their way: an access made there now would
pass them. -/
def remoteBusy (s : State) (core : Nat) : Bool :=
  s.remote.any (fun x => x.core == core && (x.strand == s.cur || core != coreOf s.cur && coreOf x.strand == coreOf s.cur))
/-- The offset of a scratchpad address. -/
def spOff (va : Word) : Nat := va.toNat % 2 ^ 21

/-- The checks of a scratchpad access of n bytes: alignment first, then the address (06 R114). -/
def spCheck (s : State) (p : Nat) (va : Word) (n : Nat) : Except Cause Nat :=
  if va.toNat % n ≠ 0 then .error ⟨0x06, 0⟩
  else match spCore s p va with
    | none => .error ⟨0x08, 6⟩
    | some c => .ok c

/-- The running strand's scratchpad access. -/
def spAccess (s : State) (va : Word) (n : Nat) : Res Nat :=
  match spCheck s s.cur va n with
  | .error c => raise s c.code c.qual va
  | .ok c => .ok c

/-- A scratchpad load: performed at once in the own core, or travelling to the core that SEL names (06 R115). -/
def ldsOp (s : State) (o : LdsOps) (disp : Word) : Res State := do
  operands s [.s o.b o.fb]
  let n := 2 ^ o.sz.toNat
  let ea := sv s o.b + disp
  let core ← spAccess s ea n
  if spNear ea then
    if selfBusy s then wait s
    else if handed s s.cur (handWords (spOff ea) n) then wait (handOver s s.cur)
    else
      let r := scratchRead s core (spOff ea) n
      advance (issueProd s o.d (extendLoad o.z n r.1) (if r.2 then .poison ea else .clean) ea)
  else
    let (tok, s) := s.token
    let k := physReg s.me.status.uiact o.d.toNat
    let s := s.updMe (fun st => if o.d = 0 then st else st.markEmpty o.d.toNat tok)
    advance (sendRemote s
      { strand := s.cur, core := core, write := [], untag := false, mc := 0, tok := tok, dest := if o.d = 0 then none else some k, off := spOff ea
        len := n, zext := o.z, ea := ea, vd := none, w := 0, elems := [], msg := 0 })

/-- lds (06 R115). -/
def execLds (o : LdsOps) (s : State) : Host.Outcome State Fault Refusal := finish (ldsOp s o 0)
/-- lds with a displacement. -/
def execLdsDisp (o : LdsOps) (disp : Imm) (s : State) : Host.Outcome State Fault Refusal := finish (ldsOp s o disp.word)

/-- The n low bytes of a value. -/
def bytesOf (n v : Nat) : List Byte := (cellsOf 0 n v).map (·.2)
/-- Their little-endian number. -/
def numOf (bs : List Byte) : Nat := bs.foldr (fun b acc => b.toNat + 256 * acc) 0

/-- A scratchpad store (06 R115). -/
def stsOp (s : State) (o : StOps) (disp : Word) : Res State := do
  operands s [.s o.b o.fb, .s o.c o.fc]
  let n := 2 ^ o.sz.toNat
  let ea := sv s o.b + disp
  let core ← spAccess s ea n
  if spNear ea then
    if selfBusy s then wait s
    else advance (scratchWrite (noteHand s s.cur (handWords (spOff ea) n)) core (spOff ea) n (uAt (8 * n) (sv s o.c)))
  else advance (sendRemote s
    { strand := s.cur, core := core, write := [(spOff ea, bytesOf n (sv s o.c).toNat)], untag := false, mc := 0, tok := 0, dest := none, off := 0
      len := 0, zext := false, ea := ea, vd := none, w := 0, elems := [], msg := 0 })

/-- sts (06 R115). -/
def execSts (o : StOps) (s : State) : Host.Outcome State Fault Refusal := finish (stsOp s o 0)
/-- sts with a displacement. -/
def execStsDisp (o : StOps) (disp : Imm) (s : State) : Host.Outcome State Fault Refusal := finish (stsOp s o disp.word)

/-! ## PREF (06 R116) -/

/-- pref: dropped when sB is empty with Fb = 1 or a check fails, with no report of a walk; else the granule is copied inward. -/
def prefOp (s : State) (o : PrefOps) (disp : Word) : Res State :=
  if !opFull s (.s o.b o.fb) then (if o.fb then advance s else wait s)
  else
    match checkAccess s s.cur (sv s o.b + disp) { kind := .read, touch := false } with
    | (.error _, _) => advance s
    | (.ok a, u) =>
      if a.dir || unreachable u (moduleOf u.cur) a.pa then advance s
      else advance (fetchCopy (sendFlit u (moduleOf u.cur) (u.answers (paModule a.pa))) (coreOf u.cur) (granOf a.pa) (o.lvl == 1)).2

/-- pref. -/
def execPref (o : PrefOps) (s : State) : Host.Outcome State Fault Refusal := finish (prefOp s o 0)
/-- pref with a displacement. -/
def execPrefDisp (o : PrefOps) (disp : Imm) (s : State) : Host.Outcome State Fault Refusal := finish (prefOp s o disp.word)

/-! ## Events -/

/-- The bits that an update sets in an entry: ONCE only when it is this update that sets A (10 R190). -/
def AdUpdate.sets (u : AdUpdate) (e : Word) : Word := if e.getLsbD 12 then u.set &&& ~~~0x800#64 else u.set
/-- An update of A, D and ONCE, the first from the k-th on that has reached the home of the entry's frame and may, is performed there; it neither checks
nor changes a tag (10 R190). A parity frame is written by its engine alone (22 R360). -/
def execAdBitUpdate (k : Nat) (s : State) : Host.Outcome State Fault Refusal :=
  match (s.adq.drop k).find? (fun u => s.arrived u.msg && !eventHeld s u.leafPa) with
  | none => .next (if s.adq.any (fun u => eventHeld s u.leafPa) then s.post (.adBitUpdate k) else s)
  | some u =>
    let gone := s.lost.contains u.msg
    let s := State.delivered { s with adq := s.adq.erase u } u.msg
    if gone || unreachable s (moduleOf u.strand) u.leafPa then .next (s.report u.strand 6 (BitVec.ofNat 64 u.leafPa))
    else
      let e := BitVec.ofNat 64 (homeRead s u.leafPa 8).1
      let parity := match stripeAt s (paModule u.leafPa) (u.leafPa % 2 ^ 44) with
        | none => false
        | some (_, g, stripe, _) => memberIx g (paModule u.leafPa) == stripe % (g.k + 1)
      .next (if parity then s else gapEvent (homeWrite s (cellsOf u.leafPa 8 ((e ||| u.sets e) &&& ~~~u.clr).toNat) []) (granOf u.leafPa))

/-- A write-combining buffer drains (14 R244). -/
def execWcbDrain (core k : Nat) (s : State) : Host.Outcome State Fault Refusal :=
  match (s.core core).wcb[k]? with
  | none => .next s
  | some w => .next (drainWcb s core w)

/-- A write-combining buffer of 4,096 clk drains (14 R244). -/
def execWcbAgeTimeout (core k : Nat) (s : State) : Host.Outcome State Fault Refusal :=
  match (s.core core).wcb[k]? with
  | none => .next s
  | some w => if w.opened + Config.wcbAge ≤ s.clk then .next (drainWcb s core w) else .next s

/-- A granule leaves an outbound slice for its home, where its ECC granules wait to be merged (14 R244, R260). -/
def execOutboundSliceWriteback (cluster k : Nat) (s : State) : Host.Outcome State Fault Refusal :=
  match (s.outbound.filter (fun o => o.cluster = cluster))[k]? with
  | none => .next s
  | some o => .next (leaveSlice s o)

/-- A drain may enter its home: it has arrived, none before it waits for the same ECC granule, and neither an atomic's turn nor a seal holds it. -/
def mergeDue (s : State) (m : Merge) : Bool :=
  match m.cells with
  | [] => true
  | c :: _ => s.arrived m.msg && !eventHeld s c.1
      && !(s.merges.takeWhile (fun x => x != m)).any (fun x => x.cells.any (fun y => y.1 / 64 == c.1 / 64))
/-- The first waiting drain of an ECC granule, from the k-th on, that may is merged by a read-modify-write; bad is an uncorrectable read part
(14 R260). -/
def execHomeWriteMerge (k : Nat) (bad : Bool) (s : State) : Host.Outcome State Fault Refusal :=
  match (s.merges.drop k).find? (mergeDue s) with
  | none => .next (if s.merges.any (fun m => m.cells.any (fun c => eventHeld s c.1)) then s.post (.homeWriteMerge k bad) else s)
  | some m => .next (gapEvent (mergeHome { s with merges := s.merges.erase m } m bad) (match m.cells with | c :: _ => granOf c.1 | [] => 0))

end Sys2Proof.Machine
end

