-- ==== Sys2Proof/Machine/Atomic.lean ====
section
/-! DEFINITION. Majors 0x18 to 0x1A: AMO, CAS and APPEND, and the event at the home (04 R67, 15 R262 to R270). -/
namespace Sys2Proof.Machine

/-- Issues an atomic: the checks of 15 R267 and, the ninth outstanding waiting, the request on its way to its home. -/
def atomicOp (s : State) (o : AmoOps) (op : Nat) : Res State := do
  operands s ([.s o.b o.fb, .s o.c o.fc] ++ (if op = 9 then [.s o.d false] else []))
  let n := if o.szd then 8 else 4
  let ea := sv s o.b + dispWord o.disp
  aligned s ea (if op = 10 then 8 else n)
  let (a, s) ← access s ea { kind := .atomic, tag := false }
  if Config.maxAtomics ≤ s.me.atomics then wait s
  else
    let (tok, s) := s.token
    let k := physReg s.me.status.uiact o.d.toNat
    let page := if a.tlb.big then 2 ^ 29 else 65536
    let m := toHome (sampleLate s s.cur (granOf a.pa)) s.cur a.pa
    let s := m.2
    let r : HomeReq := ⟨s.cur, tok, if o.d = 0 then none else some k, none, op, n, ea, a.pa, a.pa / page * page + page - 1, a.share, a.dir, o.acq,
      sv s o.c, sv s o.d, m.1⟩
    let s := s.updMe (fun st =>
      { (if o.d = 0 then st else st.markEmpty o.d.toNat tok) with
        atomics := st.atomics + 1, prot := if a.prot then st.prot ++ [⟨ea, a.pa, n⟩] else st.prot })
    advance (State.post { s with homeq := s.homeq ++ [r] } (.atomicHomeEvent 0 false))

/-- amo.swap (15 R268). -/
def execAmoSwap (o : AmoOps) (s : State) : Host.Outcome State Fault Refusal := finish (atomicOp s o 0)
/-- amo.add. -/
def execAmoAdd (o : AmoOps) (s : State) : Host.Outcome State Fault Refusal := finish (atomicOp s o 1)
/-- amo.and. -/
def execAmoAnd (o : AmoOps) (s : State) : Host.Outcome State Fault Refusal := finish (atomicOp s o 2)
/-- amo.or. -/
def execAmoOr (o : AmoOps) (s : State) : Host.Outcome State Fault Refusal := finish (atomicOp s o 3)
/-- amo.xor. -/
def execAmoXor (o : AmoOps) (s : State) : Host.Outcome State Fault Refusal := finish (atomicOp s o 4)
/-- amo.min. -/
def execAmoMin (o : AmoOps) (s : State) : Host.Outcome State Fault Refusal := finish (atomicOp s o 5)
/-- amo.max. -/
def execAmoMax (o : AmoOps) (s : State) : Host.Outcome State Fault Refusal := finish (atomicOp s o 6)
/-- amo.minu. -/
def execAmoMinu (o : AmoOps) (s : State) : Host.Outcome State Fault Refusal := finish (atomicOp s o 7)
/-- amo.maxu. -/
def execAmoMaxu (o : AmoOps) (s : State) : Host.Outcome State Fault Refusal := finish (atomicOp s o 8)
/-- cas (15 R269). -/
def execCas (o : AmoOps) (s : State) : Host.Outcome State Fault Refusal := finish (atomicOp s o 9)
/-- append (15 R270). -/
def execAppend (o : AmoOps) (s : State) : Host.Outcome State Fault Refusal := finish (atomicOp s o 10)

/-- The first outstanding atomic, from the k-th on, whose turn in its granule's queue has come is performed at its home; bad is an uncorrectable
read part (15 R262, R267). -/
def execAtomicHomeEvent (k : Nat) (bad : Bool) (s : State) : Host.Outcome State Fault Refusal :=
  match (s.homeq.drop k).find? (fun r => atomicDue s r && !heldAt s r.pa) with
  | none => .next (if s.homeq.any (fun r => heldAt s r.pa) then s.post (.atomicHomeEvent k bad) else s)
  | some r => .next (performAtomic s r bad)

end Sys2Proof.Machine
end

