-- ==== Sys2Proof/Machine/Numbers.lean ====
section
/-! DEFINITION. Element formats, exact values, rounding and conversion (08 R136 to R147). -/
namespace Sys2Proof.Machine

/-! ## Element tags (08 R138) -/

/-- Width in bits of a tag. -/
def tagWidth (t : Nat) : Nat :=
  match t with
  | 0 => 8 | 1 => 8 | 2 => 16 | 3 => 16 | 4 => 32 | 5 => 32 | 6 => 64 | 7 => 64
  | 8 => 8 | 9 => 8 | 10 => 8 | 11 => 16 | 12 => 16 | 13 => 32 | 14 => 64 | _ => 8
/-- i8 to n64. -/
def tagInt (t : Nat) : Bool := decide (t ≤ 7)
/-- A signed integer tag. -/
def tagSigned (t : Nat) : Bool := tagInt t && t % 2 == 0
/-- e4 to f64. -/
def tagFloat (t : Nat) : Bool := decide (8 ≤ t) && decide (t ≤ 14)

/-- A binary format: significand bits, least and greatest exponent of a normal number, exponent and fraction field widths, bias, the
greatest significand at the greatest exponent, and whether it has infinities (08 R136). -/
structure Fmt where
  prec : Nat
  emin : Int
  emax : Int
  eb : Nat
  fb : Nat
  bias : Int
  maxMan : Nat
  hasInf : Bool
  deriving DecidableEq, Repr

/-- The format of a float tag; lg6 has none and takes f16's. -/
def fmtOf (t : Nat) : Fmt :=
  match t with
  | 8 => ⟨4, -6, 8, 4, 3, 7, 14, false⟩
  | 9 => ⟨3, -14, 15, 5, 2, 15, 7, true⟩
  | 11 => ⟨8, -126, 127, 8, 7, 127, 255, true⟩
  | 13 => ⟨24, -126, 127, 8, 23, 127, 2 ^ 24 - 1, true⟩
  | 14 => ⟨53, -1022, 1023, 11, 52, 1023, 2 ^ 53 - 1, true⟩
  | _ => ⟨11, -14, 15, 5, 10, 15, 2047, true⟩

/-! ## Exact values -/

/-- A value: NaN, an infinity, or (-1)^neg × man × 2^ex; with st the magnitude lies strictly between man and man + 1 units. -/
inductive FV where
  | nan (sig : Bool)
  | inf (neg : Bool)
  | fin (neg : Bool) (man : Nat) (ex : Int) (st : Bool)
  deriving DecidableEq, Repr

/-- Flags, as in FFLAGS (08 R148). -/
def fNX : Nat := 1
def fUF : Nat := 2
def fOF : Nat := 4
def fDZ : Nat := 8
def fNV : Nat := 16
def fSA : Nat := 32

/-- M(f) of 08 R140. -/
def lgM (f : Nat) : Nat := match f with | 0 => 0x400 | 1 => 0x4C2 | 2 => 0x5A8 | _ => 0x6BA
/-- The magnitude of quarter-count p: M(f) × 2^(i-10). -/
def lgMag (p : Int) : Nat × Int := (lgM (p % 4).toNat, p / 4 - 10)
/-- The quarter-count of an lg6 code, none for zero (08 R139). -/
def lgParts (b : Nat) : Option (Bool × Int) := if b % 32 = 16 then none else some (b.testBit 5, toSigned 5 b)

/-- The value of an element with a tag (08 R136, R137, R140). -/
def decodeElem (t b : Nat) : FV :=
  if tagInt t then
    let v : Int := if tagSigned t then toSigned (tagWidth t) b else (b : Int)
    .fin (decide (v < 0)) v.natAbs 0 false
  else if t = 10 then
    match lgParts b with
    | none => .fin false 0 0 false
    | some (s, p) => .fin s (lgMag p).1 (lgMag p).2 false
  else
    let f := fmtOf t
    let neg := b.testBit (f.eb + f.fb)
    let e := b / 2 ^ f.fb % 2 ^ f.eb
    let m := b % 2 ^ f.fb
    if e = 2 ^ f.eb - 1 ∧ f.hasInf = true then (if m = 0 then .inf neg else .nan (!m.testBit (f.fb - 1)))
    else if e = 2 ^ f.eb - 1 ∧ m = 2 ^ f.fb - 1 then .nan false
    else if e = 0 then .fin neg m (f.emin - f.fb) false
    else .fin neg (2 ^ f.fb + m) ((e : Int) - f.bias - f.fb) false

/-- The exponent of the leading bit of man × 2^ex. -/
def topOf (man : Nat) (ex : Int) : Int := (Nat.log2 man : Int) + ex

/-- Three-way comparison of nonnegative dyadics. -/
def cmpMag (m1 : Nat) (e1 : Int) (m2 : Nat) (e2 : Int) : Ordering :=
  if m1 = 0 then (if m2 = 0 then .eq else .lt)
  else if m2 = 0 then .gt
  else if topOf m1 e1 < topOf m2 e2 then .lt
  else if topOf m2 e2 < topOf m1 e1 then .gt
  else if e1 ≤ e2 then compare m1 (m2 * 2 ^ (e2 - e1).toNat) else compare (m1 * 2 ^ (e1 - e2).toNat) m2

/-- Whether a magnitude between lo and the next one goes up: half is the comparison of the remainder with half the gap, q16 the floor of
65,536 times its share (08 R144, R145). -/
def roundsUp (mode : Nat) (draw : Option Nat) (neg odd : Bool) (half : Ordering) (q16 : Nat) : Bool :=
  let rne := half == .gt || (half == .eq && odd)
  match mode with
  | 1 => false
  | 2 => neg
  | 3 => !neg
  | 4 => half != .lt
  | 5 => match draw with | some d => decide (d < q16) | none => rne
  | _ => rne

/-- Rounds a magnitude to a multiple of 2^q: the multiple and whether it is inexact. -/
def roundAt (mode : Nat) (draw : Option Nat) (neg : Bool) (man : Nat) (ex : Int) (st : Bool) (q : Int) : Nat × Bool :=
  if q ≤ ex then
    let lo := man * 2 ^ (ex - q).toNat
    if st then (if roundsUp mode draw neg (lo % 2 == 1) .lt 0 then lo + 1 else lo, true) else (lo, false)
  else
    let sh := (q - ex).toNat
    if Nat.log2 man + 20 < sh then
      if man = 0 ∧ st = false then (0, false) else (if roundsUp mode draw neg false .lt 0 then 1 else 0, true)
    else
      let lo := man / 2 ^ sh
      let rem := man % 2 ^ sh
      if rem = 0 ∧ st = false then (lo, false)
      else
        let half := match compare rem (2 ^ (sh - 1)) with | .eq => if st then .gt else .eq | o => o
        (if roundsUp mode draw neg (lo % 2 == 1) half (rem * 65536 / 2 ^ sh) then lo + 1 else lo, true)

/-- A finite magnitude rounded into a format: significand and exponent, inexact, beyond the largest finite value with the exponent
unbounded, tiny after rounding. -/
def roundFmt (f : Fmt) (mode : Nat) (draw : Option Nat) (neg : Bool) (man : Nat) (ex : Int) (st : Bool) : Nat × Int × Bool × Bool × Bool :=
  if man = 0 ∧ st = false then (0, 0, false, false, false)
  else
    let qu := topOf man ex - f.prec + 1
    let u := roundAt mode draw neg man ex st qu
    let above := cmpMag u.1 qu f.maxMan (f.emax - f.prec + 1) == .gt
    let q := if qu < f.emin - f.prec + 1 then f.emin - f.prec + 1 else qu
    let r := roundAt mode draw neg man ex st q
    (r.1, q, r.2, above, decide (topOf u.1 qu < f.emin))

/-- What overflow gives: the largest finite value, with its sign, under RTZ, RDN and RUP, else infinity (08 R143, R146, R147). -/
def ieeeOver (f : Fmt) (mode : Nat) (neg : Bool) : FV :=
  if mode = 1 ∨ mode = 2 ∨ mode = 3 then .fin neg f.maxMan (f.emax - f.prec + 1) false else .inf neg

/-- Rounding into an operation format (08 R143); a result keeps its sign at zero. -/
def toFormat (f : Fmt) (mode : Nat) (v : FV) : FV × Nat :=
  match v with
  | .fin neg man ex st =>
    let r := roundFmt f mode none neg man ex st
    if r.2.2.2.1 then (ieeeOver f mode neg, fOF ||| fNX)
    else (.fin neg r.1 r.2.1 false, (if r.2.2.1 then fNX else 0) ||| (if r.2.2.1 && r.2.2.2.2 then fUF else 0))
  | _ => (v, 0)

/-- A subnormal of a format. -/
def isSub (f : Fmt) (v : FV) : Bool :=
  match v with
  | .fin _ man ex _ => decide (man ≠ 0) && decide (topOf man ex < f.emin)
  | _ => false
/-- Zero of the same sign. -/
def zeroOf (v : FV) : FV := match v with | .fin neg _ _ _ => .fin neg 0 0 false | _ => v

/-! ## Conversion into a tag (08 R144 to R147) -/

/-- The bits of a value that a format holds. -/
def packFmt (f : Fmt) (v : FV) : Nat :=
  match v with
  | .nan _ => if f.hasInf then (2 ^ f.eb - 1) * 2 ^ f.fb + 2 ^ (f.fb - 1) else 2 ^ (f.eb + f.fb) - 1
  | .inf neg => (if neg then 2 ^ (f.eb + f.fb) else 0) + (2 ^ f.eb - 1) * 2 ^ f.fb
  | .fin neg man ex _ =>
    let sign := if neg then 2 ^ (f.eb + f.fb) else 0
    if man = 0 then sign
    else
      let top := topOf man ex
      if top < f.emin then sign + man * 2 ^ (ex - (f.emin - f.fb)).toNat / 2 ^ ((f.emin - f.fb) - ex).toNat
      else
        let sig := if Nat.log2 man ≤ f.fb then man * 2 ^ (f.fb - Nat.log2 man) else man / 2 ^ (Nat.log2 man - f.fb)
        sign + (top + f.bias).toNat * 2 ^ f.fb + (sig - 2 ^ f.fb)

/-- The result of a conversion: bits, flags, and whether it saturated (08 R146). -/
structure Conv where
  bits : Nat
  flags : Nat
  sat : Bool
  deriving DecidableEq, Repr

/-- Into a binary format; narrow formats saturate, f32 and f64 overflow as IEEE 754 does. -/
def toBinary (t mode : Nat) (draw : Option Nat) (nftz ftzOut : Bool) (v : FV) : Conv :=
  let f := fmtOf t
  let wide := t == 13 || t == 14
  match v with
  | .nan sig => ⟨packFmt f v, if sig then fNV else 0, false⟩
  | .inf neg => if f.hasInf then ⟨packFmt f v, 0, false⟩ else ⟨packFmt f (.fin neg f.maxMan (f.emax - f.prec + 1) false), fSA, true⟩
  | .fin neg man ex st =>
    let beyond := match cmpMag man ex f.maxMan (f.emax - f.prec + 1) with | .gt => true | .eq => st | .lt => false
    let m := if mode = 5 ∧ beyond = true then 0 else mode
    let r := roundFmt f m (if m = 5 then draw else none) neg man ex st
    if r.2.2.2.1 then
      if wide then ⟨packFmt f (ieeeOver f m neg), fOF ||| fNX, false⟩
      else ⟨packFmt f (.fin neg f.maxMan (f.emax - f.prec + 1) false), fOF ||| fNX ||| fSA, true⟩
    else
      let x : FV := .fin neg r.1 r.2.1 false
      if isSub f x && (ftzOut || (nftz && !wide)) then ⟨packFmt f (zeroOf x), fUF ||| fNX, false⟩
      else ⟨packFmt f x, (if r.2.2.1 then fNX else 0) ||| (if r.2.2.1 && r.2.2.2.2 then fUF else 0), false⟩

/-- Into an integer tag: rounds by the mode, then saturates. Under SR a negative value of an unsigned tag lies beyond the largest finite value on its
side, which is 0: its result is what RNE gives.
(DESIGN CHOICE, unsafe: notes/assumptions/55.) -/
def toInteger (t mode : Nat) (draw : Option Nat) (v : FV) : Conv :=
  let w := tagWidth t
  let hi : Int := if tagSigned t then 2 ^ (w - 1) - 1 else 2 ^ w - 1
  let lo : Int := if tagSigned t then -2 ^ (w - 1) else 0
  match v with
  | .nan _ => ⟨hi.toNat, fNV ||| fSA, true⟩
  | .inf neg => ⟨ofIntAt w (if neg then lo else hi), fNV ||| fSA, true⟩
  | .fin neg man ex st =>
    if decide (man ≠ 0) && decide (200 < topOf man ex) then ⟨ofIntAt w (if neg then lo else hi), fNV ||| fSA, true⟩
    else
      let limit := if neg then lo.natAbs else hi.natAbs
      let beyond := match cmpMag man ex limit 0 with | .gt => true | .eq => st | .lt => false
      let m := if mode = 5 ∧ beyond = true then 0 else mode
      let r := roundAt m (if m = 5 then draw else none) neg man ex st 0
      let x : Int := if neg then -(r.1 : Int) else (r.1 : Int)
      if hi < x then ⟨ofIntAt w hi, fNV ||| fSA, true⟩
      else if x < lo then ⟨ofIntAt w lo, fNV ||| fSA, true⟩
      else ⟨ofIntAt w x, if r.2 then fNX else 0, false⟩

/-- Into lg6: among the table values and zero, "even" is bit 0 of L; a zero is written as 0x00 (08 R139, R144, R146).
(DEDUCED, unsafe: notes/assumptions/20.) -/
def toLg (mode : Nat) (draw : Option Nat) (v : FV) : Conv :=
  match v with
  | .nan _ => ⟨0x0F, fNV ||| fSA, true⟩
  | .inf neg => ⟨(if neg then 32 else 0) + 0x0F, fSA, true⟩
  | .fin neg man ex st =>
    let sign := if neg then 32 else 0
    if man = 0 then ⟨0, if st then fUF ||| fNX else 0, false⟩
    else
      let below := fun (p : Int) => cmpMag (lgMag p).1 (lgMag p).2 man ex != .gt
      let p : Int := if below 16 then 16 else
        ((List.range 31).foldl (fun (acc : Int) (i : Nat) => if below (Int.ofNat i - 15) then Int.ofNat i - 15 else acc) (-16 : Int))
      if p = 16 then ⟨sign + 0x0F, fOF ||| fNX ||| fSA, true⟩
      else
        let lom := if p = -16 then (0, (0 : Int)) else lgMag p
        let him := lgMag (p + 1)
        let e0 := Min.min ex (Min.min him.2 (if p = -16 then him.2 else lom.2))
        let lo := lom.1 * 2 ^ (lom.2 - e0).toNat
        let hi := him.1 * 2 ^ (him.2 - e0).toNat
        let x := man * 2 ^ (ex - e0).toNat
        if x = lo ∧ st = false then ⟨sign + ofIntAt 5 p, 0, false⟩
        else
          let beyond := p == 15
          let m := if mode = 5 ∧ beyond = true then 0 else mode
          let half := match compare (2 * (x - lo)) (hi - lo) with | .eq => if st then .gt else .eq | o => o
          let up := roundsUp m (if m = 5 then draw else none) neg (p % 2 != 0) half ((x - lo) * 65536 / (hi - lo))
          let r := if up then p + 1 else p
          if r = 16 then ⟨sign + 0x0F, fOF ||| fNX ||| fSA, true⟩
          else if r = -16 then ⟨0, fUF ||| fNX, false⟩
          else ⟨sign + ofIntAt 5 r, fNX, false⟩

/-- convert_to_tag (08 R144 to R147); a signalling NaN raises NV. -/
def toTag (t mode : Nat) (draw : Option Nat) (nftz ftzOut : Bool) (v : FV) : Conv :=
  if tagInt t then toInteger t mode draw v
  else if t = 10 then toLg mode draw (match v with
    | .fin neg man ex st => if decide (man ≠ 0) && decide (topOf man ex < -60) then .fin neg 1 (-60) st else .fin neg man ex st
    | x => x)
  else toBinary t mode draw nftz ftzOut v

/-! ## Operations on exact values -/

/-- The sign of a value. -/
def FV.neg : FV → Bool
  | .nan _ => false
  | .inf n => n
  | .fin n _ _ _ => n
/-- The value with another sign. -/
def FV.withSign (v : FV) (n : Bool) : FV := match v with | .nan s => .nan s | .inf _ => .inf n | .fin _ m e s => .fin n m e s
/-- NaN. -/
def FV.isNan : FV → Bool | .nan _ => true | _ => false
/-- A signalling NaN. -/
def FV.isSig : FV → Bool | .nan s => s | _ => false
/-- Zero. -/
def FV.isZero : FV → Bool | .fin _ m _ st => m == 0 && !st | _ => false

/-- The exact sum; an exact zero from unlike signs is -0 under RDN. -/
def fvAdd (mode : Nat) (a b : FV) : FV × Nat :=
  match a, b with
  | .inf x, .inf y => if x = y then (a, 0) else (.nan false, fNV)
  | .inf _, .fin .. => (a, 0)
  | .fin .., .inf _ => (b, 0)
  | .fin s1 m1 e1 t1, .fin s2 m2 e2 t2 =>
    if m1 = 0 ∧ m2 = 0 then (.fin (if s1 = s2 then s1 else mode == 2) 0 0 false, 0)
    else if m1 = 0 then (b, 0)
    else if m2 = 0 then (a, 0)
    else
      let e := Min.min e1 e2
      let x : Int := (if s1 then -1 else 1) * ((m1 * 2 ^ (e1 - e).toNat : Nat) : Int)
        + (if s2 then -1 else 1) * ((m2 * 2 ^ (e2 - e).toNat : Nat) : Int)
      if x = 0 then (.fin (mode == 2) 0 0 false, 0) else (.fin (decide (x < 0)) x.natAbs e (t1 || t2), 0)
  | _, _ => (.nan false, 0)

/-- The exact product. -/
def fvMul (a b : FV) : FV × Nat :=
  match a, b with
  | .fin s1 m1 e1 _, .fin s2 m2 e2 _ => (.fin (s1 != s2) (m1 * m2) (if m1 * m2 = 0 then 0 else e1 + e2) false, 0)
  | .inf x, y => if y.isZero then (.nan false, fNV) else (.inf (x != y.neg), 0)
  | x, .inf y => if x.isZero then (.nan false, fNV) else (.inf (x.neg != y), 0)
  | _, _ => (.nan false, 0)

/-- The exact quotient, to 130 bits and a sticky bit. -/
def fvDiv (a b : FV) : FV × Nat :=
  match a, b with
  | .inf x, .inf _ => let _ := x; (.nan false, fNV)
  | .inf x, y => (.inf (x != y.neg), 0)
  | x, .inf y => (.fin (x.neg != y) 0 0 false, 0)
  | .fin s1 m1 e1 _, .fin s2 m2 e2 _ =>
    if m2 = 0 then (if m1 = 0 then (.nan false, fNV) else (.inf (s1 != s2), fDZ))
    else if m1 = 0 then (.fin (s1 != s2) 0 0 false, 0)
    else
      let sh := 130 + Nat.log2 m2
      (.fin (s1 != s2) (m1 * 2 ^ sh / m2) (e1 - e2 - sh) (m1 * 2 ^ sh % m2 != 0), 0)
  | _, _ => (.nan false, 0)

/-- The integer square root of n, k bits wide, bit by bit. -/
def isqrt : Nat → Nat → Nat → Nat
  | 0, _, r => r
  | k + 1, n, r => isqrt k n (if (r + 2 ^ k) * (r + 2 ^ k) ≤ n then r + 2 ^ k else r)

/-- The exact square root, to 130 bits and a sticky bit. -/
def fvSqrt (a : FV) : FV × Nat :=
  match a with
  | .nan s => (.nan s, 0)
  | .inf true => (.nan false, fNV)
  | .inf false => (a, 0)
  | .fin neg m e _ =>
    if m = 0 then (a, 0)
    else if neg then (.nan false, fNV)
    else
      let sh := 260 - Nat.log2 m
      let sh := if (e - sh) % 2 = 0 then sh else sh + 1
      let n := m * 2 ^ sh
      let r := isqrt 132 n 0
      (.fin false r ((e - sh) / 2) (r * r != n), 0)

/-- Order of two values that are not NaN; -0 below +0 when strict zeros are asked for. -/
def fvCmp (zeros : Bool) (a b : FV) : Ordering :=
  let key := fun (v : FV) => match v with
    | .inf true => (-2 : Int) | .fin true m _ _ => if m = 0 then (if zeros then -1 else 0) else -1
    | .fin false m _ _ => if m = 0 then 0 else 1 | .inf false => 2 | .nan _ => 0
  match a, b with
  | .fin s1 m1 e1 _, .fin s2 m2 e2 _ =>
    if s1 = s2 ∧ m1 ≠ 0 ∧ m2 ≠ 0 then (if s1 then cmpMag m2 e2 m1 e1 else cmpMag m1 e1 m2 e2)
    else if s1 = true ∧ m1 = 0 ∧ s2 = true ∧ m2 ≠ 0 then .gt
    else if s1 = true ∧ m1 ≠ 0 ∧ s2 = true ∧ m2 = 0 then .lt
    else compare (key a) (key b)
  | _, _ => compare (key a) (key b)

/-- minimumNumber and maximumNumber of IEEE 754-2019 (08 R151). -/
def fvMin (a b : FV) : FV := if a.isNan then b else if b.isNan then a else if fvCmp true b a == .lt then b else a
/-- maximumNumber. -/
def fvMax (a b : FV) : FV := if a.isNan then b else if b.isNan then a else if fvCmp true b a == .gt then b else a

/-! ## Promotion (08 R143) -/

/-- The class of a tag, as the code of its format. -/
def classOf (t : Nat) : Nat := match t with | 2 => 13 | 3 => 13 | 4 => 14 | 5 => 14 | 6 => 14 | 7 => 14 | 11 => 11 | 13 => 13 | 14 => 14 | _ => 12
/-- The join of two classes. -/
def joinClass (a b : Nat) : Nat := if a = b then a else if a = 14 ∨ b = 14 then 14 else 13
/-- The operation format of an instruction's participants; scaled is "a source is block-scaled" (08 R142). -/
def opFormat (ts : List Nat) (scaled : Bool) : Nat :=
  let c := ts.foldl (fun acc t => match acc with | none => some (classOf t) | some x => some (joinClass x (classOf t))) (none : Option Nat)
  let c := c.getD 13
  if scaled && c != 14 then 13 else c

/-- The source flush of NFTZ (08 R147). -/
def flushNarrow (nftz : Bool) (t : Nat) (v : FV) : FV :=
  if nftz && (t == 8 || t == 9 || t == 11 || t == 12) && isSub (fmtOf t) v then zeroOf v else v
/-- A scaled value (08 R142): none is "not scaled". -/
def scaleBy (x : Option Nat) (v : FV) : FV × Nat :=
  match x with
  | none => (v, 0)
  | some 255 => (.nan false, fNV)
  | some k => (match v with | .fin s m e st => .fin s m (e + (k : Int) - 127) st | y => y, 0)
/-- A source in the operation format: flushed, scaled, converted and flushed again (08 R143, R147). -/
def toOp (fmt mode : Nat) (nftz ftzIn : Bool) (t : Nat) (scale : Option Nat) (b : Nat) : FV × Nat :=
  let v := scaleBy scale (flushNarrow nftz t (decodeElem t b))
  let r := toFormat (fmtOf fmt) (if mode = 5 then 0 else mode) v.1
  (if ftzIn && isSub (fmtOf fmt) r.1 then zeroOf r.1 else r.1, v.2 ||| r.2)

/-- Precision of a tag in significand or value bits (08 R145). -/
def tagPrec (t : Nat) : Nat := if tagInt t then (if tagSigned t then tagWidth t - 1 else tagWidth t) else if t = 10 then 11 else (fmtOf t).prec
/-- A conversion from one tag to another narrows (08 R145). -/
def narrows (src dst : Nat) : Bool :=
  (tagFloat src || tagFloat dst)
    && (decide (tagWidth dst < tagWidth src) || (tagInt dst && tagFloat src) || (dst == 10 && src != 10) || decide (tagPrec dst < tagPrec src))

/-- One step of the generator (08 R145). -/
def lfsrStep (x : Nat) : Nat := if x % 2 = 1 then (x / 2) ^^^ 0x80200003 else x / 2
/-- Sixteen steps. -/
def lfsrNext (x : Nat) : Nat := (List.range 16).foldl (fun a _ => lfsrStep a) x

end Sys2Proof.Machine
end

