-- ==== Sys2Proof/Machine/Operands.lean ====
section
/-! DEFINITION. Vector and mask operands: tags, register groups, elements, channels, overlaps, scale registers, the vector-state gate
(03 R54 to R56, 05 R87, 08 R142, 09 R154 to R168). -/
namespace Sys2Proof.Machine

/-! ## Per-strand fields -/

/-- The tag of vector register j (09 R156). -/
def Strand.tag (st : Strand) (j : Nat) : Nat := st.vec.vtag.toNat / 16 ^ j % 16
/-- VL as a number. -/
def Strand.nvl (st : Strand) : Nat := st.vec.vl.toNat
/-- VSTART as a number. -/
def Strand.nvs (st : Strand) : Nat := st.vec.vstart.toNat
/-- Bits [hi:lo] of VCFG (09 R157). -/
def Strand.cfg (st : Strand) (hi lo : Nat) : Nat := st.vec.vcfg.toNat / 2 ^ lo % 2 ^ (hi - lo + 1)
/-- The current rounding mode (08 R144). -/
def Strand.rm (st : Strand) : Nat := st.cfg 2 0
/-- KSAT. -/
def Strand.ksat (st : Strand) : Nat := st.cfg 9 7
/-- Block length; BLK = 3 is reserved. -/
def Strand.blk (st : Strand) : Nat := 32 * 2 ^ st.cfg 11 10
/-- vlmax (09 R158). -/
def Strand.vlmax (st : Strand) : Nat := Nat.min 2048 (2 ^ st.cfg 27 26 * 16384 / (8 * 2 ^ st.cfg 25 24))

/-- VSTATE_OFF when VS = 0 (05 R87). -/
def needVs (s : State) : Res Unit := need (s.me.vstate != 0) (raise s 0x0C)
/-- ILLEGAL_OPCODE under a rule that reads the strand's state, unless c. -/
def legal (s : State) (c : Bool) : Res Unit := need c (illegal s)

/-- A vector register of the running strand's core. -/
def vreg (s : State) (j : Nat) : VReg := mget VReg.zero s.mycore.v j
/-- A mask register of it. -/
def kreg (s : State) (j : Nat) : KReg := mget KReg.zero s.mycore.k j

/-! ## Groups and elements (09 R154, R155) -/

/-- Registers of a group of width w with n elements. -/
def groupLen (w n : Nat) : Nat := Nat.max 1 ((n * w + 16383) / 16384)
/-- The register numbers of a group. -/
def group (base w n : Nat) : List Nat := (List.range (groupLen w n)).map (base + ·)
/-- The group does not pass v31. -/
def groupFits (base w n : Nat) : Bool := decide (base + groupLen w n ≤ 32)
/-- Element e of a register's bits. -/
def elemBits (v : BitVec 16384) (w e : Nat) : Nat := (v >>> (w * e)).toNat % 2 ^ w
/-- Element e of the group at base. -/
def elem (s : State) (base w e : Nat) : Nat := let per := 16384 / w; elemBits (vreg s (base + e / per)).val w (e % per)
/-- A register's bits with element e replaced. -/
def setElemBits (v : BitVec 16384) (w e x : Nat) : BitVec 16384 :=
  (v &&& ~~~(BitVec.ofNat 16384 (2 ^ w - 1) <<< (w * e))) ||| (BitVec.ofNat 16384 (x % 2 ^ w) <<< (w * e))
/-- The 64-byte chunk of element e in its register (23 R373). -/
def chunkOf (w e : Nat) : Nat := w * (e % (16384 / w)) / 512
/-- Element e of the group at base lies in a poisoned chunk. -/
def elemPoison (s : State) (base w e : Nat) : Bool := (vreg s (base + e / (16384 / w))).poison.getLsbD (chunkOf w e)
/-- TVAL of a poisoned vector register (23 R376). -/
def poisonTval (file n : Nat) (mask : Nat) : Word := BitVec.ofNat 64 (mask * 2 ^ 32 + n * 2 ^ 16 + file * 2 ^ 8)
/-- The lowest poisoned source of element e among groups (base, width). -/
def srcPoison (s : State) (srcs : List (Nat × Nat)) (e : Nat) : Option Word :=
  srcs.findSome? (fun g => if elemPoison s g.1 g.2 e then
    let r := g.1 + e / (16384 / g.2); some (poisonTval 1 r (vreg s r).poison.toNat) else none)

/-! ## Channels (03 R54 to R56) -/

/-- The registers among a list that a read consumes: channels read by the sibling (R56), and bound registers (19 R326). -/
def consumed (s : State) (js : List Nat) : List Nat :=
  js.filter (fun j => (isChannel s.mycore.vpart j && !ownsV s.mycore.vpart s.cur j) || (s.boundAt (coreOf s.cur) j).isSome)
/-- The registers of a list may be written now: no producer of them is outstanding, and a channel written by its owner is empty. -/
def writable (s : State) (js : List Nat) : Bool :=
  js.all (fun j => !fabBusy s (coreOf s.cur) j &&
    match s.boundAt (coreOf s.cur) j with
    | some (p, b) => decide (pushesOut s p b < 2)
    | none => (vreg s j).tok == 0 && (!(isChannel s.mycore.vpart j && ownsV s.mycore.vpart s.cur j) || !(vreg s j).full))
/-- Marks consumed registers empty; a bound one fills with its next group. The entry of the window keeps which (23 R370). -/
def consume (s : State) (js : List Nat) : State :=
  let s := s.updMycore (fun c =>
    { c with
      v := js.foldl (fun m j => mset j { mget VReg.zero c.v j with full := false } m) c.v
      window := c.window.map (fun e => { e with took := js }) })
  js.foldl (fun s j => match s.boundAt (coreOf s.cur) j with | some (p, _) => s.post (.resultGroupFill p j) | none => s) s
/-- Marks the registers of a list that are not held bound empty for a producer. -/
def emptyV (s : State) (js : List Nat) (tok : Nat) : State :=
  let free := js.filter (fun j => (s.boundAt (coreOf s.cur) j).isNone)
  let s := noteHand s s.cur (free.map handV)
  s.updMycore (fun c => { c with v := free.foldl (fun v j => mset j { mget VReg.zero v j with full := false, tok := tok } v) c.v })

/-- What an instruction writes over: the register, or the push buffer of a bound one (19 R324). -/
def vbase (s : State) (j : Nat) : VReg :=
  match s.boundAt (coreOf s.cur) j with
  | some (_, b) => ⟨b.buf, true, b.bad, 0⟩
  | none => vreg s j
/-- The register may be named: it is not held bound under another VL (19 R324). -/
def nameOk (s : State) (j : Nat) : Bool := match s.boundAt (coreOf s.cur) j with | some (_, b) => b.w == s.me.nvl | none => true
/-- The group does not pass v31, and each register of it may be named (R155, 19 R324). -/
def groupOk (s : State) (base w n : Nat) : Bool := groupFits base w n && (group base w n).all (nameOk s)

/-- The operand test for vector groups: a group with F = 1 names its lowest empty register (09 R164). -/
def groupOps (base w n : Nat) (f : Bool) : List Opnd := (group base w n).map (fun j => Opnd.v j f)

/-! ## Overlaps (09 R163) -/

/-- Two groups share a register. -/
def groupsMeet (a b : List Nat) : Bool := a.any (fun j => b.contains j)
/-- Raises VREG_OVERLAP for two groups, the first named in TVAL [4:0]. -/
def overlapTrap (s : State) (a b : Nat) (scale : Bool) : Res Unit :=
  raise s 0x0B 0 (BitVec.ofNat 64 (a + b * 256 + (if scale then 65536 else 0)))
/-- The destination group against each source group in order: identical groups of one width are allowed when same is true. -/
def destOverlap (s : State) (same : Bool) (d : Nat × Nat) (n : Nat) (srcs : List (Nat × Nat × Nat)) : Res Unit :=
  match srcs.find? (fun b => groupsMeet (group d.1 d.2 n) (group b.1 b.2.1 b.2.2) && !(same && d.1 == b.1 && d.2 == b.2.1)) with
  | some b => overlapTrap s d.1 b.1 false
  | none => .ok ()
/-- A scale register against every group (base and registers). -/
def scaleOverlap (s : State) (scales : List Nat) (groups : List (Nat × List Nat)) : Res Unit :=
  match scales.findSome? (fun r => (groups.find? (fun g => g.2.contains r)).map (fun g => (r, g.1))) with
  | some x => overlapTrap s x.1 x.2 true
  | none => .ok ()

/-! ## Block scales (08 R142, 09 R168) -/

/-- The index of the scale byte of element e of the group at base. -/
def scaleIndex (base w blk e : Nat) : Nat :=
  let per := 16384 / w
  (base + e / per) * (16384 / (w * blk)) + e % per / blk
/-- The scale byte of element e of the group at base. -/
def scaleByte (s : State) (sr base w blk e : Nat) : Nat := elemBits (vreg s sr).val 8 (scaleIndex base w blk e)
/-- A tag that block scaling admits. -/
def scalable (t : Nat) : Bool := t == 8 || t == 9 || t == 10 || t == 0 || t == 1

/-! ## Masks -/

/-- Bit e of the mask operand; k0 makes every element active (09 R159). -/
def activeAt (s : State) (km : BitVec 3) (e : Nat) : Bool := km == 0 || (kreg s km.toNat).val.getLsbD e
/-- The mask operand's source, read with F = 0. -/
def maskOps (km : BitVec 3) : List Opnd := if km = 0 then [] else [.k km.toNat false]
/-- A poisoned chunk of the mask operand at element e. -/
def maskPoison (s : State) (k e : Nat) : Option Word :=
  if (kreg s k).poison.getLsbD (e / 512) then some (poisonTval 2 k (kreg s k).poison.toNat) else none

/-- A vector write dirties its registers and, when VS is 1 or 2, the vector state; what writes nothing does not (05 R87, 09 R159). -/
def Strand.dirty (st : Strand) (bits : BitVec 52) : Strand :=
  { st with vdirty := st.vdirty ||| bits, vstate := if st.vstate = 0 ∨ bits = 0 then st.vstate else 3 }
/-- The VDIRTY bits of vector registers. -/
def dirtyV (js : List Nat) : BitVec 52 := js.foldl (fun b j => b ||| (1#52 <<< j)) 0
/-- The VDIRTY bit of a mask register. -/
def dirtyK (k : Nat) : BitVec 52 := 1#52 <<< (32 + k)

end Sys2Proof.Machine
end

