-- ==== Sys2Proof/Machine/Control.lean ====
section
/-! DEFINITION. Majors 0x20 to 0x28 and 0x78 to 0x7A: branches, loops, strips, traps and returns, system registers, TLBI, IDLE and HALT
(07 R118 to R134, 05 R84 to R86). LQREG stands with the Hamper. -/
namespace Sys2Proof.Machine

/-! ## Branches and calls (07 R120, R121) -/

/-- The target of a branch: its own head plus twice the offset. -/
def branchTarget (s : State) (off : Word) : Word := s.me.pc + 2 * off

/-- br. -/
def execBr (off : BitVec 16) (s : State) : Host.Outcome State Fault Refusal :=
  finish (transferTo s (branchTarget s (off.signExtend 64)))
/-- br, long offset. -/
def execBrLong (off : BitVec 32) (s : State) : Host.Outcome State Fault Refusal :=
  finish (transferTo s (branchTarget s (off.signExtend 64)))

/-- The conditions of 07 R120 at width n. -/
def branchCond (c n : Nat) (a b : Word) : Bool :=
  match c with
  | 0 => uAt n a == uAt n b
  | 1 => uAt n a != uAt n b
  | 2 => decide (sAt n a < sAt n b)
  | 3 => decide (sAt n b ≤ sAt n a)
  | 4 => decide (uAt n a < uAt n b)
  | _ => decide (uAt n b ≤ uAt n a)

/-- A conditional branch: not taken, it checks no target. -/
def bccOp (s : State) (o : BccOps) (c : Nat) : Res State := do
  operands s [.s o.b o.fb, .s o.c o.fc]
  if branchCond c (widthOf o.w) (sv s o.b) (sv s o.c) then transferTo s (branchTarget s o.off.word) else advance s

/-- beq. -/
def execBeq (o : BccOps) (s : State) : Host.Outcome State Fault Refusal := finish (bccOp s o 0)
/-- bne. -/
def execBne (o : BccOps) (s : State) : Host.Outcome State Fault Refusal := finish (bccOp s o 1)
/-- blt. -/
def execBlt (o : BccOps) (s : State) : Host.Outcome State Fault Refusal := finish (bccOp s o 2)
/-- bge. -/
def execBge (o : BccOps) (s : State) : Host.Outcome State Fault Refusal := finish (bccOp s o 3)
/-- bltu. -/
def execBltu (o : BccOps) (s : State) : Host.Outcome State Fault Refusal := finish (bccOp s o 4)
/-- bgeu. -/
def execBgeu (o : BccOps) (s : State) : Host.Outcome State Fault Refusal := finish (bccOp s o 5)

/-- Transfers to t, then writes the link. -/
def callOp (s : State) (d : Reg) (t : Word) : Res State := do
  let link := s.me.seqNext
  let s ← transferTo s t
  .ok (s.setS d link)

/-- call. -/
def execCall (d : Reg) (off : BitVec 16) (s : State) : Host.Outcome State Fault Refusal :=
  finish (callOp s d (branchTarget s (off.signExtend 64)))
/-- call, long offset. -/
def execCallLong (d : Reg) (off : BitVec 32) (s : State) : Host.Outcome State Fault Refusal :=
  finish (callOp s d (branchTarget s (off.signExtend 64)))
/-- jmpr: the target is read before the link is written. -/
def execJmpr (o : UnOps) (s : State) : Host.Outcome State Fault Refusal := finish do
  operands s [.s o.b o.fb]
  callOp s o.d (sv s o.b)
/-- ret. -/
def execRet (o : SrcOps) (s : State) : Host.Outcome State Fault Refusal := finish do
  operands s [.s o.b o.fb]
  transferTo s (sv s o.b)

/-! ## Hardware loops (07 R122 to R125) -/

/-- Pushes a loop entry, or skips the body when the count is 0; the end is checked as a target first. -/
def loopOp (s : State) (c : Word) (ckv : Bool) (cki : BitVec 9) (off : BitVec 16) : Res State :=
  let fin := s.me.pc + 2 * off.setWidth 64
  match checkTarget s s.cur fin s.me.status.prv with
  | (.error e, s) => .error (.trap e s)
  | (.ok l, s) =>
    if c = 0 then transferTo s (seqNextIn (lineN l.data) fin)
    else
      let st := s.me
      .ok (s.setStrand s.cur { st with
        loops := mset st.loopd ⟨0, c, st.seqNext, fin, ckv, cki⟩ st.loops, loopd := st.loopd + 1, pc := st.seqNext, run := .active, tested := none })

/-- loop with a register count. -/
def execLoop (o : LoopOps) (s : State) : Host.Outcome State Fault Refusal := finish do
  legal s (s.me.loopd < 6)
  operands s [.s o.b o.fb]
  loopOp s (sv s o.b) o.ckv o.cki o.off
/-- loop with an immediate count. -/
def execLoopImm (o : LoopImmOps) (s : State) : Host.Outcome State Fault Refusal := finish do
  legal s (s.me.loopd < 6)
  loopOp s (o.count.setWidth 64) o.ckv o.cki o.off
/-- lidx. -/
def execLidx (d : Reg) (lv : BitVec 3) (s : State) : Host.Outcome State Fault Refusal := finish do
  legal s (decide (lv.toNat < s.me.loopd))
  writeBackS s d (s.me.loop lv.toNat).idx
/-- lbrk: to after the body's end, discarding the entry and those inside it. An END outside the current line is checked as a target first, to find its
line, and TVAL of a failure is END.
(DESIGN CHOICE, unsafe: notes/assumptions/54.) -/
def execLbrk (lv : BitVec 3) (s : State) : Host.Outcome State Fault Refusal := finish do
  legal s (decide (lv.toNat < s.me.loopd))
  let fin := (s.me.loop lv.toNat).fin
  let n := match s.me.line with
    | some l => if l.addr = lineOf fin then some (lineN l.data) else none
    | none => none
  match n with
  | some n =>
    let s ← transferTo s (seqNextIn n fin)
    .ok (s.updMe (fun st => { st with loopd := lv.toNat }))
  | none =>
    match checkTarget s s.cur fin s.me.status.prv with
    | (.error e, s) => .error (.trap e s)
    | (.ok l, s) =>
      let s ← transferTo s (seqNextIn (lineN l.data) fin)
      .ok (s.updMe (fun st => { st with loopd := lv.toNat }))

/-! ## STRIP and the replay buffer (07 R126, R127) -/

/-- Adds g to POS of stream register n (10 R185). -/
def Strand.qadvance (st : Strand) (n : Nat) (g : Word) : Strand := { st with qregs := mset (8 * n + 6) (st.qpos n + g) st.qregs }

/-- A head that transfers control: majors 0x20 to 0x28, LIDX with them.
(DESIGN CHOICE, unsafe: notes/assumptions/57.) -/
def transfersControl (h : Half) : Bool := decide (0x20 ≤ h.toNat / 512) && decide (h.toNat / 512 ≤ 0x28)

/-- The lines of a body from pc t, in line l, up to the head fin: none when it holds another control transfer, more than 32 heads, or a
line that cannot be fetched. -/
def bodyLines : Nat → State → Word → CodeLine → Word → List CodeLine → Option (List CodeLine)
  | 0, _, _, _, _, _ => none
  | k + 1, s, t, l, fin, acc =>
    if t = fin then some (acc ++ [l])
    else if transfersControl (lineHalf l.data (offOf t)) then none
    else
      let n := seqNextIn (lineN l.data) t
      if lineOf n = l.addr then bodyLines k s n l fin acc
      else match (fetchLine s s.cur n s.me.status.prv).1 with
        | .error _ => none
        | .ok l' => bodyLines k s n l' fin (acc ++ [l])

/-- Captures the body of a STRIP back-edge from head fin, when the model's input says that the sequencer does.
(DESIGN CHOICE, unsafe: notes/assumptions/8.) -/
def captureBody (s : State) (fin : Word) : State :=
  if !s.capture then s
  else match s.me.line with
    | none => s
    | some l => match bodyLines 32 s s.me.pc l fin [] with
      | none => s
      | some ls => s.updMe (fun st => { st with replay := some ⟨st.pc, fin, ls⟩ })

/-- strip: the granted elements are done; the rest is granted and the strip repeated, or flow goes on. -/
def stripOp (s : State) (o : StripOps) (ck : Option (BitVec 9)) : Res State := do
  operands s [.s o.n false]
  let g := s.me.vec.vl
  let n := sv s o.n
  let left := if n.toNat ≤ g.toNat then 0 else n - g
  let fin := s.me.pc
  let done := fun (st : Strand) =>
    ((List.range 8).foldl (fun (x : Strand) j => if o.qm.getLsbD j then x.qadvance j g else x) st).setS o.n.toNat left
  if left = 0 then advance (s.updMe (fun st => { done st with replay := none }))
  else
    let s ← transferTo s (fin + 2 * o.off.signExtend 64)
    let s := s.updMe (fun st =>
      let x := done st
      let x := { x with vec := { x.vec with vl := BitVec.ofNat 64 (Nat.min left.toNat st.vlmax), vstart := 0 } }
      match ck with | some i => x.checkpoint i | none => x)
    .ok (if s.me.replay.isSome then s else captureBody s fin)

/-- strip. -/
def execStrip (o : StripOps) (s : State) : Host.Outcome State Fault Refusal := finish (stripOp s o none)
/-- strip whose back-edge is a checkpoint. -/
def execStripCk (o : StripOps) (cki : BitVec 9) (s : State) : Host.Outcome State Fault Refusal := finish (stripOp s o (some cki))

/-! ## Traps and returns (07 R128, R129) -/

/-- A conditional trap: ARITH with QUAL 2 and TVAL the code. -/
def trapOp (s : State) (o : TrapOps) (c : Nat) : Res State := do
  operands s [.s o.b o.fb, .s o.c o.fc]
  if branchCond c 64 (sv s o.b) (sv s o.c) then raise s 0x0F 2 (o.code.setWidth 64) else advance s

/-- trap.eq. -/
def execTrapEq (o : TrapOps) (s : State) : Host.Outcome State Fault Refusal := finish (trapOp s o 0)
/-- trap.ne. -/
def execTrapNe (o : TrapOps) (s : State) : Host.Outcome State Fault Refusal := finish (trapOp s o 1)
/-- trap.lt. -/
def execTrapLt (o : TrapOps) (s : State) : Host.Outcome State Fault Refusal := finish (trapOp s o 2)
/-- trap.ge. -/
def execTrapGe (o : TrapOps) (s : State) : Host.Outcome State Fault Refusal := finish (trapOp s o 3)
/-- trap.ltu. -/
def execTrapLtu (o : TrapOps) (s : State) : Host.Outcome State Fault Refusal := finish (trapOp s o 4)
/-- trap.geu. -/
def execTrapGeu (o : TrapOps) (s : State) : Host.Outcome State Fault Refusal := finish (trapOp s o 5)
/-- ecall. -/
def execEcall (code : BitVec 16) (s : State) : Host.Outcome State Fault Refusal := finish (raise s 0x15 0 (code.setWidth 64))
/-- brk. -/
def execBrk (code : BitVec 16) (s : State) : Host.Outcome State Fault Refusal := finish (raise s 0x14 0 (code.setWidth 64))

/-- Returns from an exception to t: the target is checked under PPRV. -/
def eretTo (s : State) (t : Word) : Res State :=
  match checkTarget s s.cur t s.me.status.pprv with
  | (.error e, s) => .error (.trap e s)
  | (.ok l, s) => .ok (s.updMe (fun st => st.trapReturn.enter t l))

/-- eret. -/
def execEret (s : State) : Host.Outcome State Fault Refusal := finish do
  needS s
  eretTo s s.me.trap.epc
/-- The checks of 02 R32 on an address but the first: its line is fetched and checked, and the address lies within its heads (07 R129). -/
def checkHeads (s : State) (p : Nat) (t : Word) (prv : Bool) : Except TrapInfo CodeLine × State :=
  match fetchLine s p t prv with
  | (.error e, s) => (.error e, s)
  | (.ok l, s) => if offOf t ≤ 2 * lineN l.data then (.ok l, s) else (.error { code := 0x03, tval := t }, s)
/-- eret.n: past the head at EPC, whose line is fetched and checked first. -/
def execEretN (s : State) : Host.Outcome State Fault Refusal := finish do
  needS s
  match checkHeads s s.cur s.me.trap.epc s.me.status.pprv with
  | (.error e, s) => .error (.trap { e with tval := s.me.trap.epc } s)
  | (.ok l, s) => eretTo s (seqNextIn (lineN l.data) s.me.trap.epc)
/-- uiret. -/
def execUiret (s : State) : Host.Outcome State Fault Refusal := finish do
  legal s s.me.status.uiact
  let s ← transferTo s s.me.ui.epc
  .ok (s.updMe (fun st => { st with status := { st.status with uiact := false } }))

/-! ## System registers (05 R84 to R86, 07 R130, R131) -/

/-- STATUS as a word (05 R86). -/
def Strand.statusWord (st : Strand) : Word :=
  let x := st.status
  BitVec.ofNat 64 (x.prv.toNat + x.pprv.toNat * 2 + x.ie.toNat * 4 + x.pie.toNat * 8 + x.nest.toNat * 16 + x.preq.toNat * 32
    + x.uiact.toNat * 64 + x.intdb.toNat * 256 + (!st.reports.isEmpty).toNat * 512)
/-- The writable bits of STATUS: UIACT, NEST, PIE, IE, PPRV. -/
def Status.write (x : Status) (v : Word) : Status :=
  { x with uiact := v.getLsbD 6, nest := v.getLsbD 4, pie := v.getLsbD 3, ie := v.getLsbD 2, pprv := v.getLsbD 1 }
/-- CAUSE as a word. -/
def TrapRegs.word (t : TrapRegs) : Word :=
  BitVec.ofNat 64 (t.int.toNat * 2 ^ 63 + t.svf.toNat * 65536 + t.qual.toNat * 256 + t.code.toNat)
/-- UISTAT as a word. -/
def UserInt.word (u : UserInt) : Word := BitVec.ofNat 64 (u.uie.toNat * 2 ^ 40 + u.cur.toNat * 2 ^ 32 + u.pend.toNat)
/-- FFIRST0: UFE, OFE, DZE, NVE from bit 63 down (08 R148). -/
def VecRegs.ffirst0 (v : VecRegs) : Word :=
  (v.ffirst.extractLsb' 16 16 ++ v.ffirst.extractLsb' 32 16) ++ (v.ffirst.extractLsb' 48 16 ++ v.ffirst.extractLsb' 64 16)
/-- FFIRST1: SAE, NXE. -/
def VecRegs.ffirst1 (v : VecRegs) : Word := (v.ffirst.extractLsb' 80 16 ++ v.ffirst.extractLsb' 0 16).setWidth 64
/-- The packed fields after FFIRST0 is written. -/
def setFfirst0 (f : BitVec 96) (w : Word) : BitVec 96 :=
  f.extractLsb' 80 16 ++ (w.extractLsb' 0 16 ++ (w.extractLsb' 16 16 ++ (w.extractLsb' 32 16 ++ (w.extractLsb' 48 16 ++ f.extractLsb' 0 16))))
/-- The packed fields after FFIRST1 is written. -/
def setFfirst1 (f : BitVec 96) (w : Word) : BitVec 96 := w.extractLsb' 16 16 ++ (f.extractLsb' 16 64 ++ w.extractLsb' 0 16)
/-- LCK as a word (07 R124). -/
def Loop.lck (e : Loop) : Word := (bit1 e.ck ++ e.cki).setWidth 64
/-- MSTAT (12 R222). -/
def Matrix.mstat (m : Matrix) : Word :=
  BitVec.ofNat 64 ((m.latch.k - 1) % 128 * 2 ^ 17 + m.latch.cb.toNat * 65536 + m.latch.sp.toNat * 32768 + m.latch.wf % 8 * 4096
    + m.latch.valid.toNat * 2048 + m.flags.toNat / 2 * 2)
/-- LQREG as read (17 R284). -/
def Strand.lqreg (st : Strand) : Word := if st.lqcode = 0 then 0 else BitVec.ofNat 64 (2 ^ 63 + st.lqcode.toNat)

/-- Word w of stream register n as read; word 7 is the address of POS. -/
def Strand.qread (st : Strand) (n w : Nat) : Word :=
  if w = 7 then (if (st.qpos n).toNat < st.qtot n then st.qaddr n (st.qpos n).toNat else 0) else st.qw n w
/-- A write of word w: reserved bits of word 5 read as zero, word 7 is read-only. -/
def Strand.qwrite (st : Strand) (n w : Nat) (v : Word) : Strand :=
  if w = 7 then st else { (if w < 6 then st.dropWalk n else st) with qregs := mset (8 * n + w) (if w = 5 then v &&& 0xFFFFFFFFF else v) st.qregs }

/-- The cell that UIBKi names: of the bank that UIACT does not select (05 R92). -/
def Strand.uibk (st : Strand) (i : Nat) : Nat := (if st.status.uiact then 28 else 32) + i
/-- The value of a system register of a strand (05 R85); c is the strand's core. -/
def sysRead (s : State) (st : Strand) (c : Core) (num : Nat) : Word :=
  match num with
  | 0x000 => st.vec.fflags.setWidth 64
  | 0x001 => st.vec.ffirst0
  | 0x002 => st.vec.ffirst1
  | 0x003 => st.vec.lfsr
  | 0x004 => st.vec.lseed
  | 0x008 => st.vec.vl
  | 0x009 => st.vec.vstart
  | 0x00A => st.vec.vcfg
  | 0x00B => c.vpart
  | 0x00C => st.vec.vslip
  | 0x010 => (st.vec.vtag.extractLsb' 0 32).setWidth 64
  | 0x011 => (st.vec.vtag.extractLsb' 32 32).setWidth 64
  | 0x012 => (st.vec.vtag.extractLsb' 64 32).setWidth 64
  | 0x013 => (st.vec.vtag.extractLsb' 96 32).setWidth 64
  | 0x018 => c.mx.mctl.setWidth 64
  | 0x019 => c.mx.mstat
  | 0x01A => c.mx.drow.setWidth 64
  | 0x01C => st.vec.spmode
  | 0x020 => st.ui.vec
  | 0x021 => st.ui.word
  | 0x022 => st.ui.epc
  | 0x024 => BitVec.ofNat 64 st.loopd
  | 0x028 => st.sksz
  | 0x029 => st.skrnd
  | 0x02C => (st.cell (st.uibk 0)).val
  | 0x02D => (st.cell (st.uibk 1)).val
  | 0x02E => (st.cell (st.uibk 2)).val
  | 0x02F => (st.cell (st.uibk 3)).val
  | 0x030 => st.cktab
  | 0x040 => BitVec.ofNat 64 (s.clk - s.mymod.clk0)
  | 0x100 => st.statusWord
  | 0x101 => st.trap.word
  | 0x102 => st.trap.epc
  | 0x103 => st.trap.tval
  | 0x104 => st.tvec
  | 0x105 => st.hsave
  | 0x106 => st.vstate.setWidth 64
  | 0x107 => st.vdirty.setWidth 64
  | 0x108 => st.ptroot
  | 0x109 => st.saveptr
  | 0x110 => st.skmax
  | 0x111 => st.sktab
  | 0x120 => st.lqreg
  | 0x121 => st.lqroot
  | n =>
    if 0x140 ≤ n ∧ n ≤ 0x157 then
      let e := st.loop ((n - 0x140) / 4)
      (match (n - 0x140) % 4 with | 0 => e.idx | 1 => e.cnt | 2 => e.beg | _ => e.fin)
    else if 0x158 ≤ n ∧ n ≤ 0x15D then (st.loop (n - 0x158)).lck
    else if 0x160 ≤ n ∧ n ≤ 0x19F then st.qread ((n - 0x160) / 8) ((n - 0x160) % 8)
    else 0

/-- An address with bit 0 stored as zero. -/
def evenWord (v : Word) : Word := v &&& ~~~1#64

/-- Writes a loop-stack field f of entry n: 0 to 3 IDX, CNT, BEG, END, 4 LCK (07 R124). -/
def Strand.loopField (st : Strand) (n f : Nat) (v : Word) : Strand :=
  let e := st.loop n
  let e := match f with
    | 0 => { e with idx := v }
    | 1 => { e with cnt := v }
    | 2 => { e with beg := evenWord v }
    | 3 => { e with fin := evenWord v }
    | _ => { e with ck := v.getLsbD 9, cki := if v.getLsbD 9 then v.extractLsb' 0 9 else 0 }
  { st with loops := mset n e st.loops }

/-- A write of tag register m (09 R157). -/
def setVtag (t : BitVec 128) (m : Nat) (v : Word) : BitVec 128 :=
  (t &&& ~~~(0xFFFFFFFF#128 <<< (32 * m))) ||| ((v.setWidth 32).setWidth 128 <<< (32 * m))
/-- A write of LFSR state (08 R150). -/
def lfsrStore (v : Word) : Word := if v &&& 0xFFFFFFFF = 0 then 1 else v &&& 0xFFFFFFFF
/-- A write of SKRND (20 R340). -/
def skrndStore (v : Word) : Word := (v &&& 0x1000F) ||| BitVec.ofNat 64 (Nat.min 16 (v.toNat / 256 % 32) * 256)
/-- A write of SKMAX (20 R340). -/
def skmaxStore (v : Word) : Word := BitVec.ofNat 64 (Nat.max 2 (Nat.min 16 (v.toNat % 32)))
/-- The frame field of a page-table root. -/
def rootMask : Word := 0xFFFFFFFFF0000

/-- A write of a system register that has no behaviour beyond storing (05 R85, R86). VL is clamped from the whole word, LOOPD from its own bits.
(DESIGN CHOICE, unsafe: notes/assumptions/57.) -/
def sysWrite (st : Strand) (num : Nat) (v : Word) : Strand :=
  match num with
  | 0x000 => { st with vec := { st.vec with fflags := v.setWidth 6 } }
  | 0x001 => { st with vec := { st.vec with ffirst := setFfirst0 st.vec.ffirst v } }
  | 0x002 => { st with vec := { st.vec with ffirst := setFfirst1 st.vec.ffirst v } }
  | 0x003 => { st with vec := { st.vec with lfsr := lfsrStore v } }
  | 0x008 => { st with vec := { st.vec with vl := BitVec.ofNat 64 (Nat.min v.toNat 2048) } }
  | 0x009 => { st with vec := { st.vec with vstart := v &&& 0x7FF } }
  | 0x00A => { st with replay := none, vec := { st.vec with vcfg := v &&& 0xFFFFFF7 } }
  | 0x00C => { st with vec := { st.vec with vslip := v &&& 7 } }
  | 0x010 => { st with replay := none, vec := { st.vec with vtag := setVtag st.vec.vtag 0 v } }
  | 0x011 => { st with replay := none, vec := { st.vec with vtag := setVtag st.vec.vtag 1 v } }
  | 0x012 => { st with replay := none, vec := { st.vec with vtag := setVtag st.vec.vtag 2 v } }
  | 0x013 => { st with replay := none, vec := { st.vec with vtag := setVtag st.vec.vtag 3 v } }
  | 0x01C => { st with vec := { st.vec with spmode := if v &&& 3 = 3 then 2 else v &&& 3 } }
  | 0x020 => { st with ui := { st.ui with vec := v } }
  | 0x021 => { st with ui := { st.ui with uie := v.getLsbD 40, pend := st.ui.pend &&& ~~~(v.setWidth 32) } }
  | 0x022 => { st with ui := { st.ui with epc := v } }
  | 0x024 => { st with loopd := Nat.min 6 (v.toNat % 8) }
  | 0x028 => { st with sksz := v &&& 31 }
  | 0x029 => { st with skrnd := skrndStore v }
  | 0x02C => st.setCell (if st.status.uiact then 28 else 32) ⟨v, true, .clean, 0⟩
  | 0x02D => st.setCell (if st.status.uiact then 29 else 33) ⟨v, true, .clean, 0⟩
  | 0x02E => st.setCell (if st.status.uiact then 30 else 34) ⟨v, true, .clean, 0⟩
  | 0x02F => st.setCell (if st.status.uiact then 31 else 35) ⟨v, true, .clean, 0⟩
  | 0x030 => { st with cktab := v }
  | 0x100 => { st with status := st.status.write v }
  | 0x101 => { st with trap := { st.trap with int := v.getLsbD 63, svf := v.getLsbD 16, qual := v.extractLsb' 8 8, code := v.extractLsb' 0 8 } }
  | 0x102 => { st with trap := { st.trap with epc := v } }
  | 0x103 => { st with trap := { st.trap with tval := v } }
  | 0x104 => { st with tvec := v }
  | 0x105 => { st with hsave := v }
  | 0x106 => { st with vstate := v.setWidth 2 }
  | 0x107 => { st with vdirty := st.vdirty &&& ~~~(v.setWidth 52) }
  | 0x108 => { st with ptroot := v &&& rootMask }
  | 0x109 => { st with saveptr := v }
  | 0x110 => { st with skmax := skmaxStore v }
  | 0x111 => { st with sktab := v &&& ~~~63#64 }
  | 0x121 => { st with lqroot := v &&& rootMask }
  | n =>
    if 0x140 ≤ n ∧ n ≤ 0x157 then st.loopField ((n - 0x140) / 4) ((n - 0x140) % 4) v
    else if 0x158 ≤ n ∧ n ≤ 0x15D then st.loopField (n - 0x158) 4 v
    else if 0x160 ≤ n ∧ n ≤ 0x19F then st.qwrite ((n - 0x160) / 8) ((n - 0x160) % 8) v
    else st

/-- The privilege of a register number (05 R84); LOOPD is written at S only. -/
def sysPriv (s : State) (num : BitVec 12) (writes : Bool) : Res Unit :=
  need (if s.me.status.prv then decide (num.toNat < 0x200) else decide (num.toNat < 0x100) && !(writes && num == 0x024)) (raise s 0x04)

/-- A vector load or a remote vector store of strand p has not completed. -/
def vecOut (s : State) (p : Nat) : Bool :=
  (s.strand p).prods.any (fun x => !x.vdest.isEmpty || !x.regs.isEmpty) || s.remote.any (fun r => r.strand == p && (r.vd.isSome || r.untag))
/-- What an MFS of register num waits for: the matrix queue, a producer of the other bank's cell, the strand's vector instructions (07 R131, 11 R214). -/
def mfsWaits (s : State) (num : Nat) : Bool :=
  ((num == 0x018 || num == 0x019 || num == 0x01A) && !s.mycore.mx.queue.isEmpty)
    || (decide (0x02C ≤ num) && decide (num ≤ 0x02F) && !(s.me.cell (s.me.uibk (num - 0x02C))).full)
    || (num == 0x009 && vecOut s s.cur)
/-- What the mark of a register cell raises when the cell is read (06 R113, 20 R353). -/
def Mark.raises : Mark → Option TrapInfo
  | .clean => none
  | .poison ea => some { code := 0x10, qual := 1, tval := ea }
  | .peel tv => some { code := 0x11, tval := tv }
/-- The trap of an MFS of register num: a marked cell of the other bank. -/
def mfsTrap (s : State) (num : Nat) : Option TrapInfo :=
  if 0x02C ≤ num ∧ num ≤ 0x02F then (s.me.cell (s.me.uibk (num - 0x02C))).mark.raises else none
/-- The vector instructions of the strand retire before registers that they write are read or written: FFLAGS, FFIRST, and VSTART. -/
def vecSettled (s : State) (num : Nat) : State := if num ≤ 2 ∨ num = 0x009 then settle s (coreOf s.cur) else s
/-- mfs: waits for what the register depends on (07 R131). -/
def execMfs (d : Reg) (num : BitVec 12) (s : State) : Host.Outcome State Fault Refusal := finish do
  sysPriv s num false
  let s := vecSettled s num.toNat
  if mfsWaits s num.toNat then wait s
  else match mfsTrap s num.toNat with
    | some t => .error (.trap t s)
    | none => writeBackS s d (sysRead s s.me s.mycore num.toNat)

/-- mts of a register without a behaviour of its own. -/
def execMts (num : BitVec 12) (o : SrcOps) (s : State) : Host.Outcome State Fault Refusal := finish do
  sysPriv s num true
  operands s [.s o.b o.fb]
  let v := sv s o.b
  let s := if num = 3 then settle s (coreOf s.cur) else vecSettled s num.toNat
  advance (s.updMe (fun st => sysWrite st num.toNat v))

/-- mts LSEED: also loads the generator (08 R150). -/
def execLseedWrite (o : SrcOps) (s : State) : Host.Outcome State Fault Refusal := finish do
  operands s [.s o.b o.fb]
  let v := sv s o.b
  advance (s.updMe (fun st => { st with vec := { st.vec with lseed := v &&& 0xFFFFFFFF, lfsr := lfsrStore v } }))

/-- VPART as stored (03 R54). -/
def vpartStore (v : Word) : Word :=
  let bnd := Nat.min 32 (v.toNat % 64)
  let chb := v.toNat / 256 % 32
  let chn := Nat.min (v.toNat / 65536 % 32) (32 - chb)
  BitVec.ofNat 64 (bnd + chb * 256 + chn * 65536)
/-- The core under a new partition: every channel register is empty (03 R57). -/
def Core.repart (c : Core) (v : Word) : Core :=
  { c with vpart := v, v := (List.range 32).foldl (fun m j => if isChannel v j then mset j { mget VReg.zero m j with full := false } m else m) c.v }
/-- A bound register of strand p is empty and waits for a result group (19 R326). -/
def groupAwaited (s : State) (p : Nat) (b : Binding) : Bool :=
  !(mget VReg.zero (s.core (coreOf p)).v b.reg).full && match s.colls.find? (fun c => c.key = b.coll) with
    | some c => decide ((b.got - b.groups.length) * b.w < c.tot)
    | none => false
/-- A producer to a vector register of the core is outstanding, a result group on its way to a bound one among them (03 R57, 19 R326). -/
def State.vbusy (s : State) (core : Nat) : Bool :=
  (s.core core).v.any (fun e => e.2.tok != 0)
    || [2 * core, 2 * core + 1].any (fun p => (s.strand p).bindings.any (groupAwaited s p))

/-- mts VPART: issues once no producer to a vector register is outstanding; releases the replay buffer of the
strand that writes it, not its sibling's (03 R57, 07 R127).
(DESIGN CHOICE, unsafe: notes/assumptions/57.) -/
def execVpartWrite (o : SrcOps) (s : State) : Host.Outcome State Fault Refusal := finish do
  operands s [.s o.b o.fb]
  let s := settle s (coreOf s.cur)
  if s.vbusy (coreOf s.cur) then wait s
  else
    let v := vpartStore (sv s o.b)
    advance ((s.updMycore (fun c => c.repart v)).updMe (fun st => { st with replay := none }))

/-- mts DBELL: a doorbell to a strand of the module (05 R90). -/
def execDbellWrite (o : SrcOps) (s : State) : Host.Outcome State Fault Refusal := finish do
  needS s
  operands s [.s o.b o.fb]
  let v := (sv s o.b).toNat
  advance (if v < 384 then s.post (.doorbellArrival (moduleOf s.cur * 384 + v)) else s)

/-! ## TLBI (07 R132, R133) -/

/-- Discards the translations that the test holds for, of every strand of the issuer's level-l group. -/
def tlbiOp (s : State) (l : Nat) (f : Tlb → Bool) : State :=
  { s with strands := s.strands.map (fun e =>
      if unitOf l e.1 = unitOf l s.cur then
        let tlb := e.2.tlb.filter (fun t => !f t)
        (e.1, { e.2 with tlb := tlb, walked := e.2.walked.filter (fun w => tlb.any (fun t => t.base == w.2)) })
      else e) }
/-- A cached translation covers an address. -/
def Tlb.covers (t : Tlb) (va : Word) : Bool :=
  let a := va.toNat % 2 ^ 55
  canonical va && (if t.big then t.base == a / 2 ^ 29 * 2 ^ 29 else t.base == a / 65536 * 65536)

/-- tlbi.all. -/
def execTlbiAll (lvl : BitVec 3) (s : State) : Host.Outcome State Fault Refusal := finish do
  needS s
  advance (tlbiOp s lvl.toNat (fun _ => true))
/-- tlbi.va. -/
def execTlbiVa (o : SrcOps) (lvl : BitVec 3) (s : State) : Host.Outcome State Fault Refusal := finish do
  needS s
  operands s [.s o.b o.fb]
  advance (tlbiOp s lvl.toNat (fun t => t.covers (sv s o.b)))

/-! ## IDLE and HALT (07 R134) -/

/-- IDLE wakes: an interrupt is pending, PREQ, or a user-level interrupt with UIE. -/
def Strand.wakes (st : Strand) : Bool :=
  st.status.intdb || !st.reports.isEmpty || st.status.preq || (st.ui.uie && st.ui.pend != 0)

/-- idle: waits until it wakes. -/
def execIdle (s : State) : Host.Outcome State Fault Refusal := finish do
  needS s
  if s.me.wakes then advance s else wait s

/-- Runs f as strand p and gives the place back. -/
def State.asStrand (s : State) (p : Nat) (f : State → Host.Outcome State Fault Refusal) : Host.Outcome State Fault Refusal :=
  match f { s with cur := p } with
  | .next t => .next { t with cur := s.cur }
  | o => o

/-- The strand has executed an IDLE, at S, and waits there. -/
def Strand.atIdle (st : Strand) : Bool :=
  st.run == .waiting && st.status.prv && st.tested == some st.pc && match st.line with
    | some l => l.addr == lineOf st.pc && decide (lineInstr l.data (offOf st.pc) = (0xF440, [0]))
    | none => false

/-- The wait of an IDLE ends: its condition holds and the pc goes on. -/
def execIdleWake (p : Nat) (s : State) : Host.Outcome State Fault Refusal :=
  if (s.strand p).atIdle ∧ (s.strand p).wakes then s.asStrand p (fun s => finish (advance s)) else .next s

end Sys2Proof.Machine
end

