-- ==== Sys2Proof/Machine/Flags.lean ====
section
/-! DEFINITION. FFLAGS, FFIRST and the run of an element-wise vector instruction (08 R146, R148, R149, 09 R159 to R162, 23 R370 to
R375). -/
namespace Sys2Proof.Machine

/-- What one element gives: its bits, its flags, and whether it saturated. -/
structure EOut where
  bits : Nat
  flags : Nat := 0
  sat : Bool := false
  deriving DecidableEq, Repr

/-- An exact copy of a conversion's result. -/
def Conv.out (c : Conv) (flags : Nat) : EOut := ⟨c.bits, flags ||| c.flags, c.sat⟩

/-- FFIRST's six 16-bit fields, NX in [15:0] to SA in [95:80], after element e raised flags: each field the lower index. -/
def firstNote (first : BitVec 96) (e flags : Nat) : BitVec 96 :=
  (List.range 6).foldl (fun f i =>
    if flags.testBit i then
      let old := (f >>> (16 * i)).toNat % 65536
      (f &&& ~~~(0xFFFF#96 <<< (16 * i))) ||| (BitVec.ofNat 96 (Nat.min old e) <<< (16 * i))
    else f) first

/-- FFIRST at the start of an instruction (08 R149). -/
def firstStart (st : Strand) : BitVec 96 := if st.nvs = 0 then BitVec.allOnes 96 else st.vec.ffirst

/-- The element at which the instruction stops, at an interruptible point, when the model's input asks for it before VL (05 R89, 09 R160). -/
def Strand.cutAt (st : Strand) : Option Nat :=
  match st.cut with
  | some n => if 0 < n ∧ st.nvs + n < st.nvl then some (st.nvs + n) else none
  | none => none
/-- The elements of an instruction, from VSTART to VL - 1. -/
def allElems (st : Strand) : List Nat := (List.range (st.nvl - st.nvs)).map (st.nvs + ·)
/-- Those of them that it performs before it stops or ends. -/
def elemRange (st : Strand) : List Nat := (List.range (st.cutAt.getD st.nvl - st.nvs)).map (st.nvs + ·)
/-- The instruction has stopped between elements, VSTART at the lowest one not completed: it is executed again from there (09 R160). -/
def stopAt (s : State) (e : Nat) : Res State :=
  .ok (s.updMe (fun st => { st with vec := { st.vec with vstart := BitVec.ofNat 64 e }, run := .active, cut := none, tested := none }))

/-- What the run over the elements has gathered. -/
structure VRun where
  outs : List (Nat × EOut)
  lfsr : Nat
  stop : Option (Nat × Word)
  deriving DecidableEq, Repr

/-- Runs the elements in ascending order: an inactive one does nothing but take its draw; the lowest active one with a poisoned source
stops the run. -/
def runElems (es : List Nat) (draws : Bool) (lfsr : Nat) (active : Nat → Bool) (poison : Nat → Option Word)
    (f : Nat → Option Nat → EOut) : VRun :=
  es.foldl (fun r e =>
    match r.stop with
    | some _ => r
    | none =>
      let next := if draws then lfsrNext r.lfsr else r.lfsr
      let draw := if draws then some (r.lfsr % 65536) else none
      if !active e then { r with lfsr := next }
      else match poison e with
        | some tv => { r with stop := some (e, tv) }
        | none => { r with outs := r.outs ++ [(e, f e draw)], lfsr := next }) ⟨[], lfsr, none⟩

/-- The registers of a destination group after the elements are written, with the chunks written whole freed of poison (23 R373). -/
def writeGroup (s : State) (base w n : Nat) (outs : List (Nat × Nat)) : List (Nat × BitVec 16384 × BitVec 32) :=
  let per := 16384 / w
  (group base w n).map (fun j =>
    let mine := outs.filter (fun o => base + o.1 / per = j)
    let r := vbase s j
    let v := mine.foldl (fun v o => setElemBits v w (o.1 % per) o.2) r.val
    let clean := (List.range 32).foldl (fun (m : BitVec 32) c =>
      if (mine.countP (fun o => chunkOf w o.1 = c)) * w = 512 then m ||| (1#32 <<< c) else m) 0
    (j, v, r.poison &&& ~~~clean))

/-- Bits of a mask register set or cleared; a chunk written whole loses its poison (23 R373). -/
def writeMask (s : State) (k : Nat) (bits : List (Nat × Bool)) : Nat × BitVec 2048 × BitVec 4 :=
  let r := kreg s k
  let clean := (List.range 4).foldl (fun (m : BitVec 4) c => if bits.countP (fun b => b.1 / 512 = c) = 512 then m ||| (1#4 <<< c) else m) 0
  (k, bits.foldl (fun v b => if b.2 then v ||| (1#2048 <<< b.1) else v &&& ~~~(1#2048 <<< b.1)) r.val, r.poison &&& ~~~clean)

/-- An entry of the window without a result, of the running strand's instruction (09 R162). -/
def VEntry.begun (s : State) : VEntry :=
  let st := s.me
  { strand := s.cur, pc := st.pc, dest := [], mask := [], flags := 0, first := 0, setsFirst := false, lfsr := st.vec.lfsr, vstart := st.vec.vstart
    squashes := 0, ends := true, scalar := none, took := [], loops := st.loops, loopd := st.loopd, vdirty := st.vdirty, vstate := st.vstate
    vtok := 0, before := [], writes := [] }
/-- An entry of the running strand's instruction joins the window. -/
def State.intoWindow (s : State) (e : VEntry) : State := s.updMycore (fun c => { c with window := c.window ++ [e] })
/-- A vector instruction with a scalar result gives it and leaves it in the window for its recheck; VSTART := 0 (09 R162, R175, R181). -/
def scalarLeave (s : State) (d : Reg) (v : Word) : State :=
  let cell := physReg s.me.status.uiact d.toNat
  let e := { VEntry.begun s with scalar := if d = 0 then none else some (cell, v, mget SReg.zero s.me.sregs cell) }
  (s.intoWindow e).updMe (fun st => { st with vec := { st.vec with vstart := 0 } })

/-- A vector instruction leaves its result in the window: its registers, saturation bits, flags and FFIRST, VSTART and LFSR, and the
dirty bits; stop is the element at which one has stopped that has not completed (05 R87, 08 R149, 09 R160, R162). -/
def vecLeave (s : State) (dest : List (Nat × BitVec 16384 × BitVec 32)) (mask : List (Nat × BitVec 2048 × BitVec 4))
    (outs : List (Nat × EOut)) (records : Bool) (stop : Option Nat) (lfsr : Nat) : State :=
  let st := s.me
  let ks := st.ksat
  let sats := (outs.filter (fun o => o.2.sat)).map (fun o => (o.1, true))
  let mask := if ks ≠ 0 ∧ sats ≠ [] then
      let base := match mask.find? (fun m => m.1 = ks) with | some m => m.2.1 | none => (kreg s ks).val
      let v := sats.foldl (fun v b => v ||| (1#2048 <<< b.1)) base
      (ks, v, (kreg s ks).poison) :: mask.filter (fun m => m.1 ≠ ks)
    else mask
  let flags := outs.foldl (fun f o => f ||| o.2.flags) 0
  let e : VEntry := { VEntry.begun s with
    dest := dest, mask := mask, flags := if records then BitVec.ofNat 6 flags else 0
    first := outs.foldl (fun f o => firstNote f o.1 o.2.flags) (firstStart st), setsFirst := records, ends := stop.isNone }
  (s.intoWindow e).updMe (fun st =>
    { st.dirty (mask.foldl (fun b m => b ||| dirtyK m.1) (dirtyV (dest.map (·.1)))) with
      vec := { st.vec with vstart := BitVec.ofNat 64 (stop.getD 0), lfsr := BitVec.ofNat 64 lfsr } })

/-- Ends an element-wise instruction: its result leaves for the window; a poisoned element raises UE_DATA with the elements below it
complete (23 R375); one that stops between elements is executed again from there (09 R160); else channels are consumed and the next
instruction follows. -/
def vecEnd (s : State) (dest : List (Nat × Nat) → List (Nat × BitVec 16384 × BitVec 32))
    (mask : List (Nat × Nat) → List (Nat × BitVec 2048 × BitVec 4)) (r : VRun) (records : Bool) (reads : List Nat) : Res State :=
  let bits := r.outs.map (fun o => (o.1, o.2.bits))
  match r.stop with
  | some (e, tv) => raise (vecLeave s (dest bits) (mask bits) r.outs records (some e) r.lfsr) 0x10 2 tv
  | none => match s.me.cutAt with
    | some e => stopAt (vecLeave s (dest bits) (mask bits) r.outs records (some e) r.lfsr) e
    | none => advance (consume (vecLeave s (dest bits) (mask bits) r.outs records none r.lfsr) (consumed s reads))

/-- A scale register in use: its number, and base and width of the group that it scales (08 R142). -/
abbrev ScaleUse := Nat × Nat × Nat
/-- The scale registers of an instruction with the groups that they scale. -/
def scaleUse (sr : Option Nat) (base w : Nat) : List ScaleUse := sr.toList.map (fun r => (r, base, w))
/-- A poisoned chunk that holds the scale byte of element e (09 R168, 23 R375). -/
def scalePoison (s : State) (sc : List ScaleUse) (e : Nat) : Option Word :=
  sc.findSome? (fun x =>
    if (vreg s x.1).poison.getLsbD (scaleIndex x.2.1 x.2.2 s.me.blk e / 64) then some (poisonTval 1 x.1 (vreg s x.1).poison.toNat) else none)
/-- The poison of element e: mask operand, source groups, scale registers. -/
def elemPoisoned (s : State) (km : BitVec 3) (srcs : List (Nat × Nat)) (sc : List ScaleUse) (e : Nat) : Option Word :=
  ((if km = 0 then none else maskPoison s km.toNat e).or (srcPoison s srcs e)).or (scalePoison s sc e)
/-- The vector registers that an instruction reads: its groups and its scale registers. -/
def readsOf (s : State) (srcs : List (Nat × Nat)) (sc : List ScaleUse) : List Nat :=
  ((srcs.map (fun g => group g.1 g.2 s.me.nvl)).flatten ++ sc.map (·.1)).eraseDups

/-- An element-wise instruction with a vector destination (09 R159): base and width of the destination, mask operand, the groups whose
poison counts, draws, flag recording, the function of an element, and the scale registers. -/
def elementwise (s : State) (d w : Nat) (km : BitVec 3) (srcs : List (Nat × Nat)) (draws records : Bool)
    (f : Nat → Option Nat → EOut) (sc : List ScaleUse := []) : Res State := do
  let st := s.me
  let js := group d w st.nvl
  if !writable s js then wait s
  else
    let es := elemRange st
    let r := runElems es draws st.vec.lfsr.toNat (activeAt s km) (elemPoisoned s km srcs sc) f
    vecEnd s (fun b => if es.isEmpty then [] else writeGroup s d w st.nvl b) (fun _ => []) r records (readsOf s srcs sc)

end Sys2Proof.Machine
end

