-- ==== Sys2Proof/Machine/Matrix.lean ====
section
/-! DEFINITION. Majors 0x60 to 0x67: the matrix engine (12 R217 to R240, 13 R242, 08 R141, R152), and the writes of its system
registers (12 R222). -/
namespace Sys2Proof.Machine

/-! ## Tiles, banks and slots -/

/-- The matrix engine of the running strand's core. -/
def mx (s : State) : Matrix := s.mycore.mx
/-- Changes the matrix engine of core c. -/
def State.updMx (s : State) (c : Nat) (f : Matrix → Matrix) : State := s.updCore c (fun x => { x with mx := f x.mx })
/-- The descriptor of tile t that the issued instructions leave. -/
def Matrix.dsc (m : Matrix) (t : Nat) : BitVec 32 := mget tileDescReset m.desc t
/-- Rows, row bytes and element width code of a descriptor (R217). -/
def dRows (d : BitVec 32) : Nat := d.toNat % 128 + 1
def dRb (d : BitVec 32) : Nat := 16 * (d.toNat / 256 % 16 + 1)
def dEw (d : BitVec 32) : Nat := d.toNat / 65536 % 4
/-- A tile, a bank, a slot. -/
def Matrix.tile (m : Matrix) (t : Nat) : Tile := mget Tile.zero m.tiles t
def Matrix.bank (m : Matrix) (a : Nat) : Bank := mget Bank.zero m.banks a
def Matrix.slot (m : Matrix) (n : Nat) : Slot := mget Slot.empty m.slots n

/-- n bits of a tile from bit off. -/
def tileBits (t : Tile) (off n : Nat) : Nat := (t.data >>> off).toNat % 2 ^ n
/-- A tile with row r of rb bytes replaced; the row's poison is the new row's (23 R373). -/
def Tile.setRow (t : Tile) (r rb : Nat) (v : Nat) (bad : Bool) : Tile :=
  let off := 8 * r * rb
  { data := (t.data &&& ~~~(BitVec.ofNat 262144 (2 ^ (8 * rb) - 1) <<< off)) ||| (BitVec.ofNat 262144 (v % 2 ^ (8 * rb)) <<< off)
    poison := (t.poison &&& ~~~(1#128 <<< r)) ||| (if bad then 1#128 <<< r else 0) }
/-- Row i of a bank: 4,096 bits. -/
def bankRow (b : Bank) (i : Nat) : Nat := (b.data >>> (4096 * i)).toNat % 2 ^ 4096
/-- A bank with row i replaced. -/
def Bank.setRow (b : Bank) (i v : Nat) : Bank :=
  { b with data := (b.data &&& ~~~(BitVec.ofNat 524288 (2 ^ 4096 - 1) <<< (4096 * i))) ||| (BitVec.ofNat 524288 (v % 2 ^ 4096) <<< (4096 * i)) }
/-- Row i of the f32 view of bank a, or of the f64 view of both banks (R221). -/
def Matrix.viewRow (m : Matrix) (f64 : Bool) (a i : Nat) : Nat :=
  if f64 then bankRow (m.bank 0) i + 2 ^ 4096 * bankRow (m.bank 1) i else bankRow (m.bank a) i
/-- The banks a view covers. -/
def viewBanks (f64 : Bool) (a : Nat) : List Nat := if f64 then [0, 1] else [a]
/-- The bank that holds element j of a row of a view (R221). -/
def bankAt (f64 : Bool) (a j : Nat) : Nat := if f64 then j / 64 else a
/-- Row i of bank n is poisoned. -/
def Matrix.rowBad (m : Matrix) (n i : Nat) : Bool := (m.bank n).poison.getLsbD i
/-- A row of a view written, with the poison of its row in each bank. -/
def Matrix.setViewRow (m : Matrix) (f64 : Bool) (a i v : Nat) (bad : Nat → Bool) : Matrix :=
  { m with banks := (viewBanks f64 a).foldl (fun bs n =>
      let b := (mget Bank.zero bs n).setRow i (if f64 && n == 1 then v / 2 ^ 4096 else v)
      mset n { b with poison := (b.poison &&& ~~~(1#128 <<< i)) ||| (if bad n then 1#128 <<< i else 0) } bs) m.banks }
/-- Element j of a row with elements of w bits. -/
def rowElem (v w j : Nat) : Nat := v / 2 ^ (w * j) % 2 ^ w

/-! ## Arithmetic of the array (R220, R223, 08 R141, R152) -/

/-- The tag of a format code. -/
def fmtTag (f : Nat) : Nat := match f with | 0 => 14 | 1 => 13 | 2 => 11 | 3 => 12 | 4 => 8 | 5 => 9 | 6 => 0 | _ => 10
/-- Its bytes and its element width code. -/
def fmtLen (f : Nat) : Nat := match f with | 0 => 8 | 1 => 4 | 2 => 2 | 3 => 2 | _ => 1
def fmtEw (f : Nat) : Nat := match f with | 0 => 3 | 1 => 2 | 2 => 1 | 3 => 1 | _ => 0
/-- The pairs that R220 allows. -/
def fmtPairs (wf af : Nat) : Bool := (decide (1 ≤ wf) && decide (wf ≤ 5) && decide (1 ≤ af) && decide (af ≤ 5)) || (wf == af && (wf == 6 || wf == 7 || wf == 0))

/-- A weight or activation as a value, subnormals flushed under MFTZ. -/
def arrayVal (mftz : Bool) (f bits : Nat) : FV :=
  let v := decodeElem (fmtTag f) bits
  if mftz && f != 6 && f != 7 && isSub (fmtOf (fmtTag f)) v then zeroOf v else v
/-- The exact product of a weight and an activation, with NV for a NaN operand or infinity times zero. A zero product of integers has the sign that
its factors' signs give.
(DESIGN CHOICE, unsafe: notes/assumptions/55.) -/
def arrayMul (wf : Nat) (mftz : Bool) (af a w : Nat) : FV × Nat :=
  if wf = 7 then
    match lgParts a, lgParts w with
    | some (sa, pa), some (sw, pw) => (.fin (sa != sw) (lgMag (pa + pw)).1 (lgMag (pa + pw)).2 false, 0)
    | _, _ => (.fin false 0 0 false, 0)
  else
    let x := arrayVal mftz af a
    let y := arrayVal mftz wf w
    if x.isNan || y.isNan then (.nan false, fNV) else fvMul x y
/-- The exact sum of the products of a group.
(DEDUCED, unsafe: notes/assumptions/31.) -/
def groupSum (ps : List (FV × Nat)) : FV × Nat :=
  match ps with
  | [] => (.fin false 0 0 false, 0)
  | p :: r => r.foldl (fun acc q => let t := fvAdd 0 acc.1 q.1; (t.1, acc.2 ||| q.2 ||| t.2)) p
/-- One rounded update of an accumulator element of a tag. -/
def accAdd (tag : Nat) (acc x : FV) : FV × Nat :=
  let t := fvAdd 0 acc x
  let r := toFormat (fmtOf tag) 0 t.1
  (r.1, t.2 ||| r.2)

/-- One output element: row of activations (by k), the column's weights (by k), the accumulator's bits; bits and flags. -/
def mmaElem (f64 : Bool) (wf af : Nat) (mftz : Bool) (arow wcol : List Nat) (acc : Nat) : Nat × Nat :=
  let tag := if f64 then 14 else 13
  let ps := List.zipWith (arrayMul wf mftz af) arow wcol
  let v0 := match decodeElem tag acc with | .nan _ => FV.nan false | v => v
  let r := if f64 then
      ps.foldl (fun (st : FV × Nat) p => let t := accAdd 14 st.1 p.1; (t.1, st.2 ||| p.2 ||| t.2)) (v0, 0)
    else
      (List.range ((ps.length + 3) / 4)).foldl (fun (st : FV × Nat) g =>
        let sum := groupSum ((ps.drop (4 * g)).take 4)
        let q := toFormat (fmtOf 13) 0 sum.1
        let t := accAdd 13 st.1 q.1
        (t.1, st.2 ||| sum.2 ||| q.2 ||| t.2)) (v0, 0)
  (packFmt (fmtOf tag) r.1, r.2)

/-- The MSTAT flags of floating flags: NX, UF, OF, NV in bits 1 to 4. -/
def mFlags (f : Nat) : BitVec 6 :=
  BitVec.ofNat 6 ((if f.testBit 0 then 2 else 0) + (if f.testBit 1 then 4 else 0) + (if f.testBit 2 then 8 else 0) + (if f.testBit 4 then 16 else 0))

/-! ## Executing in engine order -/

/-- Weights of a dense latch: k by 128 + j to bits, unlisted zero (R234). -/
def denseWeights (m : Matrix) (t n k wf : Nat) : Map Nat :=
  let w := 8 * fmtLen wf
  let per := 128 / n
  let rb := 128 * fmtLen wf / n
  (List.range (k * 128)).foldr (fun i acc =>
    let r := i / 128
    let j := i % 128
    let v := tileBits (m.tile (t + j / per)) (8 * r * rb + w * (j % per)) w
    if v = 0 then acc else (i, v) :: acc) []
/-- Poison of its rows. -/
def densePoison (m : Matrix) (t n : Nat) : BitVec 128 := (List.range n).foldl (fun b i => b ||| (m.tile (t + i)).poison) 0

/-- The metadata nibble of group g, column j (R236). -/
def spNibble (m : Matrix) (tm g j : Nat) : Nat := tileBits (m.tile tm) (8 * g * 64 + 4 * j) 4
/-- A good group. -/
def spGood (n : Nat) : Bool := decide (n % 4 < n / 4)
/-- The lowest bad group: 128 g + j. -/
def spFirstBad (m : Matrix) (tm k : Nat) : Option Nat :=
  (List.range (k / 4 * 128)).find? (fun i => !spGood (spNibble m tm (i / 128) (i % 128)))
/-- Weights of a sparse latch (R226, R236). -/
def sparseWeights (m : Matrix) (t tm k wf : Nat) : Map Nat :=
  let w := 8 * fmtLen wf
  let rb := 128 * fmtLen wf
  (List.range (k * 128)).foldr (fun i acc =>
    let r := i / 128
    let j := i % 128
    let g := r / 4
    let n := spNibble m tm g j
    let v := if !spGood n then 0
      else if n % 4 = r % 4 then tileBits (m.tile t) (8 * (2 * g) * rb + w * j) w
      else if n / 4 = r % 4 then tileBits (m.tile t) (8 * (2 * g + 1) * rb + w * j) w else 0
    if v = 0 then acc else (i, v) :: acc) []
/-- Poison of its rows: the value rows and the metadata row of the group. -/
def sparsePoison (m : Matrix) (t tm k : Nat) : BitVec 128 :=
  (List.range k).foldl (fun b r =>
    let g := r / 4
    if (m.tile tm).poison.getLsbD g || (m.tile t).poison.getLsbD (2 * g) || (m.tile t).poison.getLsbD (2 * g + 1)
    then b ||| (1#128 <<< r) else b) 0

/-- A TMMA over rows 0 to nr - 1 (R238): the bank rows and MSTAT flags. -/
def mmaRun (m : Matrix) (a t af nr rb k : Nat) (z : Bool) : Matrix :=
  let f64 := af == 0
  let w := 8 * fmtLen af
  let ew := if f64 then 64 else 32
  let mftz := m.mctl.getLsbD 1
  let wbad := (List.range k).any (fun r => m.wbad.getLsbD r)
  (List.range nr).foldl (fun m i =>
    let arow := (List.range k).map (fun x => tileBits (m.tile t) (8 * i * rb + w * x) w)
    let old := if z then 0 else m.viewRow f64 a i
    let r := (List.range 128).foldl (fun (acc : Nat × Nat) j =>
      let wcol := (List.range k).map (fun x => mget 0 m.weights (x * 128 + j))
      let e := mmaElem f64 m.latch.wf af mftz arow wcol (rowElem old ew j)
      (acc.1 + e.1 * 2 ^ (ew * j), acc.2 ||| e.2)) (0, 0)
    let bad := fun n => wbad || (m.tile t).poison.getLsbD i || (!z && m.rowBad n i)
    { m.setViewRow f64 a i r.1 bad with flags := m.flags ||| mFlags r.2 }) m

/-- A TACC of elements from vs (R239). -/
def accRun (m : Matrix) (a row0 vs : Nat) (add f64 : Bool) (es : List Nat) : Matrix :=
  let tag := if f64 then 14 else 13
  let w := tagWidth tag
  (es.zipIdx).foldl (fun m p =>
    let e := vs + p.2
    let i := row0 + e / 128
    let j := e % 128
    let old := m.viewRow f64 a i
    let o := rowElem old w j
    let x := decodeElem tag p.1
    let acc := match decodeElem tag o with | .nan _ => FV.nan false | v => v
    let r := if add then (let t := accAdd tag acc (match x with | .nan _ => .nan false | v => v); (packFmt (fmtOf tag) t.1, t.2 ||| (if x.isNan then fNV else 0)))
      else (p.1, 0)
    { m.setViewRow f64 a i (old - o * 2 ^ (w * j) + r.1 * 2 ^ (w * j)) (fun n => m.rowBad n i) with flags := m.flags ||| mFlags r.2 }) m

/-- A TACC of elements vs to n - 1 writes the whole of row i of bank b (23 R373). -/
def rowWhole (f64 : Bool) (row0 vs n b i : Nat) : Bool :=
  let first := (i - row0) * 128 + (if f64 then 64 * b else 0)
  decide (row0 ≤ i) && decide (vs ≤ first) && decide (first + (if f64 then 64 else 128) ≤ n)
/-- TACC.SET over whole rows of banks clears their poison. -/
def accWhole (m : Matrix) (a row0 vs n : Nat) (f64 : Bool) : Matrix :=
  (List.range 128).foldl (fun m i => m.setViewRow f64 a i (m.viewRow f64 a i) (fun b => m.rowBad b i && !rowWhole f64 row0 vs n b i)) m

/-- A TDRAIN fills the registers it emptied, or the push buffer of a bound one (R239, 23 R374): the bits of elements vs to n - 1, poison
from the rows. -/
def drainRun (s : State) (core a row0 vs n : Nat) (f64 : Bool) (d tok : Nat) : State :=
  let w := if f64 then 64 else 32
  let per := 16384 / w
  (group d w n).foldl (fun s j =>
    let c := s.core core
    let b := s.boundAt core j
    let r : VReg := match b with | some (_, x) => ⟨x.buf, true, x.bad, 0⟩ | none => mget VReg.zero c.v j
    if r.tok ≠ tok ∧ b = none then s
    else
      let es := (List.range per).filter (fun x => vs ≤ (j - d) * per + x ∧ (j - d) * per + x < n)
      let v := es.foldl (fun v x =>
        let e := (j - d) * per + x
        setElemBits v w x (rowElem (c.mx.viewRow f64 a (row0 + e / 128)) w (e % 128))) r.val
      let p := (List.range 32).foldl (fun (p : BitVec 32) ch =>
        let mine := es.filter (fun x => w * x / 512 = ch)
        let bad := mine.any (fun x => let e := (j - d) * per + x; c.mx.rowBad (bankAt f64 a (e % 128)) (row0 + e / 128))
        if bad then p ||| (1#32 <<< ch) else if mine.length * w = 512 then p &&& ~~~(1#32 <<< ch) else p) r.poison
      s.putV (2 * core) j v p true) s

/-- Poisons the ECC granules of bytes that a poisoned unit wrote; the write goes on to its home first (23 R374, R377). -/
def poisonBytes (s : State) (p pa n : Nat) : State :=
  let s := drainGroup s (granOf pa) 0 p
  let g := (List.range ((pa + n - 1) / 64 - pa / 64 + 1)).map (fun i => physOf s ((pa / 64 + i) * 64) / 64)
  { s with poison := s.poison.filter (fun e => !g.contains e) ++ g }

/-- A TST to memory writes its rows, whose tag effects its issue has taken (R232, 04 R63). -/
def storeRows (s : State) (c strand t rb : Nat) (rows : List MRow) : State :=
  let tl := (s.core c).mx.tile t
  rows.foldl (fun s r =>
    let a : Acc := ⟨r.pa, r.leaf, r.tlb⟩
    let s := performWrite s strand a r.va r.len (tileBits tl (8 * (r.row * rb + r.off)) (8 * r.len))
    if tl.poison.getLsbD r.row then poisonBytes s strand r.pa r.len else s) (s.updStrand strand (fun st => { st with ordered := st.ordered - 1 }))

/-- Executes one instruction that waits for nothing. -/
def runMop (s : State) (c : Nat) (op : MOp) : State :=
  match op with
  | .zeroTile t => s.updMx c (fun m => { m with tiles := mset t .zero m.tiles })
  | .zeroBank a => s.updMx c (fun m => { m with banks := mset a .zero m.banks })
  | .mov t b => s.updMx c (fun m => { m with tiles := mset t (m.tile b) m.tiles })
  | .load t rb rows => s.updMx c (fun m =>
      { m with tiles := mset t (rows.foldl (fun x r => x.setRow r.1 rb r.2.1.toNat r.2.2) (m.tile t)) m.tiles })
  | .store p t rb rows => storeRows s c p t rb rows
  | .latch t n k wf => s.updMx c (fun m => { m with weights := denseWeights m t n k wf, wbad := densePoison m t n, latch := ⟨true, wf, k, false, false⟩ })
  | .latchCb _ _ _ _ _ _ _ => s
  | .latchSp t tm k wf => s.updMx c (fun m =>
      { m with
        weights := sparseWeights m t tm k wf, wbad := sparsePoison m t tm k, latch := ⟨true, wf, k, true, false⟩
        flags := if (spFirstBad m tm k).isSome then m.flags ||| 0x20 else m.flags })
  | .mma a t af nr rb k z => s.updMx c (fun m => mmaRun m a t af nr rb k z)
  | .drain _ a row0 vs n f64 d tok next =>
      drainRun (match next with | some v => s.updMx c (fun m => { m with drow := v }) | none => s) c a row0 vs n f64 d tok
  | .fill _ => s
  | .shape _ => s
  | .acc a row0 vs add f64 es => s.updMx c (fun m =>
      let m := accRun m a row0 vs add f64 es
      if add then m else accWhole m a row0 vs (vs + es.length) f64)
  | .reg num v => s.updMx c (fun m =>
      if num = 0x018 then { m with mctl := v.setWidth 2 }
      else if num = 0x019 then { m with flags := v.setWidth 6 &&& 0x3E }
      else { m with drow := v.setWidth 7 })

/-- The place of a TCBK whose slot is filling. -/
def MOp.isFill : MOp → Bool | .fill _ => true | _ => false
/-- The queue without what the engine's next step takes from it: the first instruction but a TCBK, which waits for its data alone. -/
def Matrix.toRun (m : Matrix) : List MOp := m.queue.dropWhile MOp.isFill
/-- The queue with that step's instruction replaced by what it leaves. -/
def Matrix.leave (m : Matrix) (ops : List MOp) : Matrix := { m with queue := m.queue.takeWhile MOp.isFill ++ ops ++ m.toRun.drop 1 }
/-- Executes the queue up to a TWLD.CB, which proceeds by its row events (R225); TCBKs keep their places until their data arrive.
(DEDUCED, unsafe: notes/assumptions/30.) -/
def runQueue : Nat → State → Nat → State
  | 0, s, _ => s
  | k + 1, s, c =>
    match (s.core c).mx.toRun with
    | [] => s
    | .latchCb _ _ _ _ _ _ _ :: _ => s.post (.codebookRowExpand c)
    | op :: _ => runQueue k (runMop (s.updMx c (fun m => m.leave [])) c op) c

/-- What an instruction reads and writes of tiles, banks and slots, as handoff keys (03 R58). -/
def MOp.reads : MOp → List Nat
  | .mov _ b => [handT b]
  | .store _ t _ _ => [handT t]
  | .latch t n _ _ => (List.range n).map (fun i => handT (t + i))
  | .latchCb t _ _ _ _ _ _ => [handT t, handC 0, handC 1]
  | .latchSp t tm _ _ => [handT t, handT tm]
  | .mma a t af _ _ _ z => handT t :: (if z then [] else (viewBanks (af == 0) a).map handA)
  | .drain _ a _ _ _ f64 _ _ _ => (viewBanks f64 a).map handA
  | .acc a _ _ add f64 _ => if add then (viewBanks f64 a).map handA else []
  | .zeroTile _ | .zeroBank _ | .load _ _ _ | .fill _ | .shape _ | .reg _ _ => []
def MOp.writes : MOp → List Nat
  | .zeroTile t | .mov t _ | .load t _ _ => [handT t]
  | .zeroBank a => [handA a]
  | .mma a _ af _ _ _ _ => (viewBanks (af == 0) a).map handA
  | .acc a _ _ _ f64 _ => (viewBanks f64 a).map handA
  | .fill n => [handC n]
  | .store _ _ _ _ | .latch _ _ _ _ | .latchCb _ _ _ _ _ _ _ | .latchSp _ _ _ _ | .drain _ _ _ _ _ _ _ _ _ | .shape _ | .reg _ _ => []
/-- A source of the matrix engine that its sibling wrote waits for what the sibling did before (03 R58). -/
def sourcesIn (s : State) (keys : List Nat) : Res Unit := if handed s s.cur keys then wait (handOver s s.cur) else .ok ()

/-- The queue has room (R219). -/
def room (s : State) : Res Unit := if (mx s).queue.length < 4 then .ok () else wait s
/-- An instruction whose issue checks have passed enters the queue. -/
def enqueue (s : State) (op : MOp) : State :=
  let c := coreOf s.cur
  runQueue 5 ((noteHand s s.cur op.writes).updMx c (fun m => { m with queue := m.queue ++ [op] })) c
/-- It enters once the queue has room and what it reads has been handed over. -/
def enter (s : State) (op : MOp) : Res State := do
  sourcesIn s op.reads
  room s
  .ok (enqueue s op)
/-- Every earlier instruction of the engine has completed, or the strand waits. -/
def engineIdle (s : State) : Res Unit := if (mx s).queue.isEmpty then .ok () else wait s
/-- TILE_SHAPE unless c. -/
def shape (s : State) (c : Bool) (qual n : Nat) : Res Unit := need c (raise s 0x0D qual (BitVec.ofNat 64 n))
/-- The poison of tiles, banks and weights, as rows, that the queue leaves; what a TWLD.CB still to come would bring through a bad table does not count: no
matrix instruction stalls or traps on it (R219, R237, 23 R374).
(DEDUCED, unsafe: notes/assumptions/30.) -/
structure Stain where
  tiles : Map (BitVec 128)
  banks : Map (BitVec 128)
  w : BitVec 128
/-- The tile rows that hold the indices of weight row b: bytes 48 b to 48 b + 47 (R217, R235). -/
def cbRows (rb b : Nat) : List Nat := (List.range ((48 * b + 47) / rb - 48 * b / rb + 1)).map (48 * b / rb + ·)
/-- Rows 0 to n - 1. -/
def lowRows (n : Nat) : BitVec 128 := BitVec.ofNat 128 (2 ^ n - 1)
/-- What one queued instruction does to it. -/
def Stain.after (x : Stain) (op : MOp) : Stain :=
  match op with
  | .zeroTile t => { x with tiles := mset t 0 x.tiles }
  | .zeroBank a => { x with banks := mset a 0 x.banks }
  | .mov t b => { x with tiles := mset t (mget 0 x.tiles b) x.tiles }
  | .load t _ rows => { x with tiles := mset t (rows.foldl (fun p r => (p &&& ~~~(1#128 <<< r.1)) ||| (if r.2.2 then 1#128 <<< r.1 else 0)) (mget 0 x.tiles t)) x.tiles }
  | .latch t n _ _ => { x with w := (List.range n).foldl (fun b i => b ||| mget 0 x.tiles (t + i)) 0 }
  | .latchCb t rb k _ _ _ _ => { x with
      w := (List.range k).foldl (fun b r => if (cbRows rb r).any (fun i => (mget 0 x.tiles t).getLsbD i) then b ||| (1#128 <<< r) else b) 0 }
  | .latchSp t tm k _ => { x with
      w := (List.range k).foldl (fun b r =>
        if (mget 0 x.tiles tm).getLsbD (r / 4) || (mget 0 x.tiles t).getLsbD (2 * (r / 4)) || (mget 0 x.tiles t).getLsbD (2 * (r / 4) + 1)
        then b ||| (1#128 <<< r) else b) 0 }
  | .mma a t af nr _ k z =>
    let bs := viewBanks (af == 0) a
    let now := fun (n : Nat) => (if x.w &&& lowRows k = 0 then mget 0 x.tiles t ||| (if z then 0 else mget 0 x.banks n) else BitVec.allOnes 128) &&& lowRows nr
    { x with banks := bs.foldl (fun m n => mset n ((mget 0 x.banks n &&& ~~~(lowRows nr)) ||| now n) m) x.banks }
  | .acc a row0 vs add f64 es =>
    let whole := fun (n : Nat) => (List.range 128).foldl (fun (b : BitVec 128) i =>
      if rowWhole f64 row0 vs (vs + es.length) n i then b ||| (1#128 <<< i) else b) 0
    if add then x else { x with banks := (viewBanks f64 a).foldl (fun m n => mset n (mget 0 x.banks n &&& ~~~(whole n)) m) x.banks }
  | .store _ _ _ _ => x
  | .drain _ _ _ _ _ _ _ _ _ => x
  | .fill _ => x
  | .shape _ => x
  | .reg _ _ => x
/-- The poison that the issued instructions of an engine leave. -/
def Matrix.stain (m : Matrix) : Stain :=
  m.queue.foldl Stain.after ⟨m.tiles.map (fun t => (t.1, t.2.poison)), m.banks.map (fun b => (b.1, b.2.poison)), m.wbad⟩
/-- VDIRTY bits of a tile, a bank, a slot (05 R86). -/
def dirtyT (t : Nat) : BitVec 52 := 1#52 <<< (40 + t)
def dirtyA (f64 : Bool) (a : Nat) : BitVec 52 := (viewBanks f64 a).foldl (fun b n => b ||| (1#52 <<< (48 + n))) 0
def dirtyC (n : Nat) : BitVec 52 := 1#52 <<< (50 + n)
/-- Marks registers dirty for the running strand. -/
def State.dirty (s : State) (b : BitVec 52) : State := s.updMe (fun st => st.dirty b)

/-! ## TSHAPE, TZERO, TMOV (R230, R233) -/

/-- The reserved bits of a descriptor. -/
def descReserved : BitVec 32 := 0xFFFCF080

/-- tshape. -/
def execTshape (t : BitVec 3) (o : SrcOps) (s : State) : Host.Outcome State Fault Refusal := finish do
  needVs s
  operands s [.s o.b o.fb]
  let d := (sv s o.b).setWidth 32
  shape s (d &&& descReserved == 0) 0x01 t.toNat
  room s
  advance (enqueue (s.updMx (coreOf s.cur) (fun m => { m with desc := mset t.toNat d m.desc })) (.shape t.toNat))
/-- tzero of a tile. -/
def execTzero (t : BitVec 3) (s : State) : Host.Outcome State Fault Refusal := finish do
  needVs s
  room s
  advance ((enqueue s (.zeroTile t.toNat)).dirty (dirtyT t.toNat))
/-- tzero of a bank. -/
def execTzeroAcc (a : BitVec 1) (s : State) : Host.Outcome State Fault Refusal := finish do
  needVs s
  room s
  advance ((enqueue s (.zeroBank a.toNat)).dirty (dirtyA false a.toNat))
/-- tmov: bytes and descriptor; a source row that the earlier instructions leave poisoned raises UE_DATA (R219, 23 R375, R376). -/
def execTmov (t b : BitVec 3) (s : State) : Host.Outcome State Fault Refusal := finish do
  needVs s
  sourcesIn s [handT b.toNat]
  match (List.range 128).find? (fun r => (mget 0 (mx s).stain.tiles b.toNat).getLsbD r) with
  | some r => raise s 0x10 3 (BitVec.ofNat 64 (b.toNat * 256 + r * 65536))
  | none =>
    room s
    let s := s.updMx (coreOf s.cur) (fun m => { m with desc := mset t.toNat (m.dsc b.toNat) m.desc })
    advance ((enqueue s (.mov t.toNat b.toNat)).dirty (dirtyT t.toNat))

/-! ## TLD and TST (R218, R229, R231, R232) -/

/-- SW is allowed for row bytes rb. -/
def swLegal (sw rb : Nat) : Bool := rb / 16 % 2 ^ sw == 0
/-- The offset of byte (r, c) from the tile's place. -/
def swPlace (sw rb r c : Nat) : Nat := r * rb + 16 * ((c / 16) ^^^ (r % 2 ^ sw)) + c % 16
/-- A scratchpad range of n bytes (06 R114): its core. Of an empty range the start counts alone: it must be a place in a scratchpad, or its end.
(DESIGN CHOICE, safe: notes/assumptions/58.) -/
def spRange (s : State) (va : Word) (n : Nat) : Res Nat :=
  match spCore s s.cur va with
  | some c => if spOff va + n ≤ Config.scratchBytes then .ok c else raise s 0x08 6 va
  | none => raise s 0x08 6 va
/-- The rows of a tile read from a scratchpad: row, bytes, poison (R218, R231). -/
def tldRows (s : State) (core off sw rb n : Nat) : List (Nat × BitVec 2048 × Bool) :=
  (List.range n).map (fun r =>
    let parts := (List.range (rb / 16)).map (fun q => (q, scratchRead s core (off + swPlace sw rb r (16 * q)) 16))
    (r, BitVec.ofNat 2048 (parts.foldl (fun acc p => acc + p.2.1 * 256 ^ (16 * p.1)) 0), parts.any (fun p => p.2.2)))

/-- tld from scratchpad: the data are read now and enter the tile in engine order. -/
def tldSp (s : State) (t : Nat) (b : Reg) (fb : Bool) (sw : Nat) (disp : Word) : Res State := do
  needVs s
  operands s [.s b fb]
  let d := (mx s).dsc t
  let rb := dRb d
  let n := dRows d * rb
  let va := sv s b + disp
  shape s (swLegal sw rb) 0x07 t
  aligned s va 64
  let core ← spRange s va n
  let off := spOff va
  if remoteBusy s core then wait s
  else if core = coreOf s.cur ∧ handed s s.cur (handWords off n) = true then wait (handOver s s.cur)
  else match (spUnits off n).find? (fun u => mget 0 (s.core core).swz u != sw) with
  | some u => raise s 0x0A (mget 0 (s.core core).swz u) (va + BitVec.ofNat 64 (64 * u - off))
  | none =>
    room s
    advance (((enqueue s (.load t rb (tldRows s core off sw rb (dRows d)))).dirty (dirtyT t)).updMe (fun st => { st with vec := { st.vec with vstart := 0 } }))

/-- Poisons whole words of a scratchpad. -/
def poisonWords (s : State) (core off n : Nat) : State :=
  let ws := (List.range ((off + n - 1) / 8 - off / 8 + 1)).map (off / 8 + ·)
  s.updCore core (fun c => { c with spoison := c.spoison.filter (fun w => !ws.contains w) ++ ws })

/-- The rows of tile t written to a scratchpad, poison with them, and the swizzle tags of their units (R218, R231). -/
def tstWrite (s : State) (core off sw t rb n : Nat) : State :=
  let tl := (mx s).tile t
  let s := (List.range n).foldl (fun s r =>
    (List.range (rb / 16)).foldl (fun s q =>
      let at_ := off + swPlace sw rb r (16 * q)
      let s := scratchWrite s core at_ 16 (tileBits tl (8 * (r * rb + 16 * q)) 128)
      if tl.poison.getLsbD r then poisonWords s core at_ 16 else s) s) s
  setSwz s core (spUnits off (n * rb)) sw

/-- tst to scratchpad: once the engine has completed every earlier instruction. -/
def tstSp (s : State) (t : Nat) (b : Reg) (fb : Bool) (sw : Nat) (disp : Word) : Res State := do
  needVs s
  operands s [.s b fb]
  let d := (mx s).dsc t
  let rb := dRb d
  let n := dRows d * rb
  let va := sv s b + disp
  shape s (swLegal sw rb) 0x07 t
  aligned s va 64
  let core ← spRange s va n
  engineIdle s
  sourcesIn s [handT t]
  if remoteBusy s core then wait s
  else advance ((tstWrite (if core = coreOf s.cur then noteHand s s.cur (handWords (spOff va) n) else s) core (spOff va) sw t rb (dRows d)).updMe (fun st => { st with vec := { st.vec with vstart := 0 } }))

/-- The pieces of a span that lie in one turn granule each: offset, address, length. -/
def pieces (va : Word) (n : Nat) : List (Nat × Word × Nat) :=
  let f := Nat.min n (256 - va.toNat % 256)
  if f = n then [(0, va, n)] else [(0, va, f), (f, va + BitVec.ofNat 64 f, n - f)]

/-- What the rows of a memory TLD or TST gather: TLD data, TST pieces, the row and trap that stop it. -/
structure Rows where
  s : State
  data : List (Nat × BitVec 2048 × Bool)
  parts : List MRow
  stop : Option (Nat × TrapInfo)

/-- Checks and, for a TLD, reads the pieces of one row. -/
def rowPieces (s : State) (q : Ask) (r : Nat) (ps : List (Nat × Word × Nat)) : State × Except TrapInfo (Nat × Bool × List MRow) :=
  ps.foldl (fun acc p =>
    match acc with
    | (s, .error e) => (s, .error e)
    | (s, .ok (v, bad, ms)) =>
      match checkAccess s s.cur p.2.1 q with
      | (.error c, s) => (s, .error { code := c.code, qual := c.qual, tval := p.2.1 })
      | (.ok a, s) =>
        let m : MRow := ⟨r, p.1, p.2.2, p.2.1, a.pa, a.leaf, a.tlb⟩
        if q.kind == .read then
          let x := readAcc s a p.2.1 p.2.2
          (x.2, .ok (v + x.1.1 * 256 ^ p.1, bad || x.1.2, ms ++ [m]))
        else (s, .ok (v, bad, ms ++ [m]))) (s, .ok (0, false, []))

/-- The writes of a row whose checks have all passed are issued: they take their tag effects (R232, 04 R63). -/
def issueRow (s : State) (ms : List MRow) : State :=
  ms.foldl (fun s r => if unreachable s (moduleOf s.cur) r.pa then s else issueWrite s s.cur ⟨r.pa, r.leaf, r.tlb⟩ r.va r.len) s
/-- The addresses of the pieces of the rows from VSTART on. -/
def rowAddrs (s : State) (qn rb nrow : Nat) : List Word :=
  let st := s.me
  (((List.range nrow).filter (fun r => decide (st.nvs ≤ r) && decide ((st.qpos qn).toNat + r < st.qtot qn))).map (fun r =>
    (pieces (st.qaddr qn ((st.qpos qn).toNat + r)) rb).map (fun p => p.2.1))).flatten
/-- A row's access would pass one of the strand's own: a TLD reads now, a TST keeps its place among the tile stores (03 R48, R49). -/
def rowBusy (s : State) (load : Bool) (va : Word) : Bool :=
  if load then busyGran s s.cur va false
  else match (translate s s.cur va).1 with
    | .error _ => false
    | .ok t => busyOther s s.cur (granOf (physIn s t (va.toNat % 2 ^ 55) true)) true
/-- The rows of a memory TLD or TST from VSTART on (R232). -/
def gatherRows (s : State) (qn rb nrow : Nat) (kind : Kind) : Rows :=
  let st := s.me
  let t0 := toSigned 64 (st.qw qn 1).toNat
  let unit := t0.natAbs == rb && decide (2 ≤ st.qc0 qn)
  ((List.range nrow).filter (fun r => st.nvs ≤ r)).foldl (fun (acc : Rows) r =>
    if acc.stop.isSome then acc
    else
      let k := (st.qpos qn).toNat + r
      if st.qtot qn ≤ k then acc
      else
        let a := st.qaddr qn k
        if a.toNat % 16 ≠ 0 then { acc with stop := some (r, { code := 0x06, tval := a }) }
        else match rowPieces acc.s { kind := kind, unit := unit } r (pieces a rb) with
          | (s, .error e) => { acc with s := s, stop := some (r, e) }
          | (s, .ok (v, bad, ms)) => { acc with s := if kind == .read then s else issueRow s ms, data := acc.data ++ [(r, BitVec.ofNat 2048 v, bad)], parts := acc.parts ++ ms })
    ⟨s, [], [], none⟩

/-- A memory TLD or TST: the rows that pass enter the queue; the first that fails raises with VSTART at it, and with no row before it nothing has entered
(R229). -/
def tileMem (s : State) (o : TldmOps) (load : Bool) : Res State := do
  needVs s
  let d := (mx s).dsc o.t.toNat
  let rb := dRb d
  room s
  sourcesIn s (if load then [] else [handT o.t.toNat])
  if (rowAddrs s o.q.toNat rb (dRows d)).any (rowBusy s load) then wait s else
  let r := gatherRows s o.q.toNat rb (dRows d) (if load then .read else .write)
  let s := if r.stop.isSome && r.data.isEmpty then r.s
    else if load then (enqueue r.s (.load o.t.toNat rb r.data)).dirty (dirtyT o.t.toNat) else enqueue r.s (.store s.cur o.t.toNat rb r.parts)
  match r.stop with
  | some (k, t) => .error (.trap t (s.updMe (fun st => { st with vec := { st.vec with vstart := BitVec.ofNat 64 k } })))
  | none => advance (walkAhead (s.updMe (fun st =>
      let st := if o.adv then st.qadvance o.q.toNat (BitVec.ofNat 64 (dRows d)) else st
      { st with vec := { st.vec with vstart := 0 } })) o.q.toNat)

/-- tld from scratchpad. -/
def execTld (o : TldOps0) (s : State) : Host.Outcome State Fault Refusal := finish (tldSp s o.t.toNat o.b o.fb o.sw.toNat 0)
/-- tld with a displacement. -/
def execTldDisp (o : TldOps) (s : State) : Host.Outcome State Fault Refusal := finish (tldSp s o.t.toNat o.b o.fb o.sw.toNat (o.disp.signExtend 64))
/-- tld through a stream register. -/
def execTldMem (o : TldmOps) (s : State) : Host.Outcome State Fault Refusal := finish (tileMem s o true)
/-- tst to scratchpad. -/
def execTst (o : TldOps0) (s : State) : Host.Outcome State Fault Refusal := finish (tstSp s o.t.toNat o.b o.fb o.sw.toNat 0)
/-- tst with a displacement. -/
def execTstDisp (o : TldOps) (s : State) : Host.Outcome State Fault Refusal := finish (tstSp s o.t.toNat o.b o.fb o.sw.toNat (o.disp.signExtend 64))
/-- tst through a stream register. -/
def execTstMem (o : TldmOps) (s : State) : Host.Outcome State Fault Refusal := finish (tileMem s o false)

/-! ## TWLD (R234 to R236) -/

/-- What a latch leaves for the issue checks of later instructions. -/
def latchIssue (s : State) (l : Latch) (op : MOp) : Res State := do
  sourcesIn s op.reads
  room s
  advance (enqueue (s.updMx (coreOf s.cur) (fun m => { m with iLatch := l })) op)

/-- twld. With several tiles of its set at fault, a wrong width of any comes before a wrong shape, each at the lowest tile (R229, R234).
(DESIGN CHOICE, unsafe: notes/assumptions/58.) -/
def execTwld (t wf : BitVec 3) (s : State) : Host.Outcome State Fault Refusal := finish do
  needVs s
  let n := fmtTiles wf
  let f := wf.toNat
  let ts := (List.range n).map (t.toNat + ·)
  let k := dRows ((mx s).dsc t.toNat)
  match ts.find? (fun x => dEw ((mx s).dsc x) != fmtEw f) with
  | some x => raise s 0x0D 0x02 (BitVec.ofNat 64 x)
  | none =>
    match ts.find? (fun x => dRb ((mx s).dsc x) != 128 * fmtLen f / n || dRows ((mx s).dsc x) != k) with
    | some x => raise s 0x0D 0x03 (BitVec.ofNat 64 x)
    | none => latchIssue s ⟨true, f, k, false, false⟩ (.latch t.toNat n k f)

/-- twld.cb. -/
def execTwldCb (t : BitVec 3) (cbm : BitVec 2) (s : State) : Host.Outcome State Fault Refusal := finish do
  needVs s
  let d := (mx s).dsc t.toNat
  let nb := dRows d * dRb d
  shape s (dEw d == 0) 0x02 t.toNat
  shape s (nb % 48 == 0 && decide (nb / 48 ≤ 128)) 0x03 t.toNat
  latchIssue s ⟨true, 2, nb / 48, false, true⟩ (.latchCb t.toNat (dRb d) (nb / 48) cbm.toNat 0 [] 0)

/-- twld.sp. With both tiles at fault, the values' width and shape come before the metadata's (R229, R236).
(DESIGN CHOICE, unsafe: notes/assumptions/58.) -/
def execTwldSp (t tm wf : BitVec 3) (s : State) : Host.Outcome State Fault Refusal := finish do
  needVs s
  let f := wf.toNat
  let d := (mx s).dsc t.toNat
  let e := (mx s).dsc tm.toNat
  let k := 2 * dRows d
  shape s (dEw d == fmtEw f) 0x02 t.toNat
  shape s (dRb d == 128 * fmtLen f && k % 4 == 0 && decide (k ≤ 128)) 0x03 t.toNat
  shape s (dEw e == 0) 0x02 tm.toNat
  shape s (dRb e == 64 && dRows e == k / 4) 0x03 tm.toNat
  if (mx s).iMctl.getLsbD 0 then
    engineIdle s
    match spFirstBad (mx s) tm.toNat k with
    | some i => raise s 0x0E 0 (BitVec.ofNat 64 i)
    | none => latchIssue s ⟨true, f, k, true, false⟩ (.latchSp t.toNat tm.toNat k f)
  else latchIssue s ⟨true, f, k, true, false⟩ (.latchSp t.toNat tm.toNat k f)

/-! ## Codebook slots (R225, R237, 13 R242) -/

/-- The slot that row b reads. -/
def cbSlot (cbm b : Nat) : Nat := if cbm = 1 then 0 else b % 2
/-- An issued TWLD.CB that has not completed still is to read the table that slot n holds. -/
def cbPending (m : Matrix) (n : Nat) : Bool :=
  m.queue.any (fun op => match op with
    | .latchCb _ _ k cbm row _ _ => (List.range k).any (fun b => decide (row ≤ b) && cbSlot cbm b == n)
    | _ => false)

/-- tcbk: waits while the slot fills or its table is still to be read, and for a place in the queue (R219); then the slot fills. -/
def tcbkOp (s : State) (o : TcbkOps) (mem : Bool) (disp : Word) : Res State := do
  needVs s
  operands s [.s o.b o.fb]
  let n := o.cb.toNat
  let sl := (mx s).slot n
  if sl.st = 1 ∨ (sl.st = 2 ∧ cbPending (mx s) n = true) then wait s
  else
    room s
    let va := sv s o.b + disp
    aligned s va 16
    let (v, bad, s) ← (if mem then do
        let (a, s) ← access s va { kind := .read }
        let x := readAcc s a va 16
        .ok (x.1.1, x.1.2, x.2)
      else do
        let core ← spRange s va 16
        if remoteBusy s core then wait s
        else if core = coreOf s.cur ∧ handed s s.cur (handWords (spOff va) 16) = true then wait (handOver s s.cur)
        let x := scratchRead s core (spOff va) 16
        .ok (x.1, x.2, s) : Res (Nat × Bool × State))
    let c := coreOf s.cur
    let s := s.updMx c (fun m => { m with slots := mset n ⟨1, BitVec.ofNat 128 v, bad⟩ m.slots })
    advance (((enqueue s (.fill n)).post (.codebookFill c n false)).dirty (dirtyC n))

/-- tcbk from memory. -/
def execTcbk (o : TcbkOps) (s : State) : Host.Outcome State Fault Refusal := finish (tcbkOp s o true 0)
/-- tcbk from memory with a displacement. -/
def execTcbkDisp (o : TcbkOps) (disp : BitVec 16) (s : State) : Host.Outcome State Fault Refusal := finish (tcbkOp s o true (disp.signExtend 64))
/-- tcbk.s. -/
def execTcbkS (o : TcbkOps) (s : State) : Host.Outcome State Fault Refusal := finish (tcbkOp s o false 0)
/-- tcbk.s with a displacement. -/
def execTcbkSDisp (o : TcbkOps) (disp : BitVec 16) (s : State) : Host.Outcome State Fault Refusal := finish (tcbkOp s o false (disp.signExtend 64))

/-- The queue without the place of the TCBK to slot n, which has completed. -/
def Matrix.filled (m : Matrix) (n : Nat) : Matrix := { m with queue := m.queue.eraseP (fun op => op == .fill n) }
/-- The 16 bytes of a codebook slot arrive, and its TCBK gives up its place; bad is an uncorrectable error in them (R225, R237). -/
def execCodebookFill (core slot : Nat) (bad : Bool) (s : State) : Host.Outcome State Fault Refusal :=
  let sl := (s.core core).mx.slot slot
  if sl.st = 1 then
    .next (State.post (s.updMx core (fun m => { m.filled slot with slots := mset slot { sl with st := 2, bad := sl.bad || bad } m.slots }))
      (.codebookRowExpand core))
  else .next s

/-- Row b of a TWLD.CB under a table: index 128 b + j to an entry (R235). -/
def cbRow (tl : Tile) (table : BitVec 128) (b : Nat) : Map Nat :=
  (List.range 128).foldr (fun j acc =>
    let v := (table >>> (16 * tileBits tl (3 * (128 * b + j)) 3)).toNat % 65536
    if v = 0 then acc else (128 * b + j, v) :: acc) []

/-- A TWLD.CB at the head of the engine expands its next row from a full slot; a poisoned slot, or a poisoned tile row among those that hold its indices,
latches a poisoned weight; the last row completes the latch (R225, R235, 23 R374). -/
def execCodebookRowExpand (core : Nat) (s : State) : Host.Outcome State Fault Refusal :=
  let m := (s.core core).mx
  match m.toRun with
  | .latchCb t rb k cbm row w bad :: _ =>
    let sl := m.slot (cbSlot cbm row)
    if sl.st ≠ 2 then .next s
    else
      let w := w ++ cbRow (m.tile t) sl.table row
      let bad := if sl.bad || (cbRows rb row).any (fun r => (m.tile t).poison.getLsbD r) then bad ||| (1#128 <<< row) else bad
      let m := if cbm = 0 then { m with slots := mset (cbSlot cbm row) .empty m.slots } else m
      if row + 1 < k then
        .next (State.post (s.updMx core (fun _ => m.leave [.latchCb t rb k cbm (row + 1) w bad])) (.codebookRowExpand core))
      else
        .next (runQueue 5 (s.updMx core (fun _ =>
          { m.leave [] with weights := w, wbad := bad, latch := ⟨true, 2, k, false, true⟩ })) core)
  | _ => .next s

/-! ## TMMA (R238) -/

/-- The issue checks of a TMMA, and its entry into the queue. -/
def tmmaOp (s : State) (o : TmmaOps) (sp : Bool) : Res State := do
  needVs s
  let m := mx s
  let t := o.t.toNat
  let af := o.af.toNat
  let d := m.dsc t
  let k := dRb d / fmtLen af
  shape s (dEw d == fmtEw af) 0x02 t
  shape s (decide (1 ≤ k)) 0x03 t
  shape s (m.iLatch.valid && decide (k ≤ m.iLatch.k)) 0x04 t
  shape s (fmtPairs m.iLatch.wf af) 0x05 t
  shape s (!sp || m.iLatch.sp) 0x06 t
  shape s (af != 0 || o.a == 0) 0x03 o.a.toNat
  let s ← enter s (.mma o.a.toNat t af (dRows d) (dRb d) k o.z)
  advance (s.dirty (dirtyA (af == 0) o.a.toNat))

/-- tmma. -/
def execTmma (o : TmmaOps) (s : State) : Host.Outcome State Fault Refusal := finish (tmmaOp s o false)
/-- tmma.sp. -/
def execTmmaSp (o : TmmaOps) (s : State) : Host.Outcome State Fault Refusal := finish (tmmaOp s o true)

/-! ## TDRAIN and TACC (R239) -/

/-- The view that a register's tag names: f32, or f64 of both banks. -/
def viewOf (s : State) (d : Reg) (a : BitVec 1) : Res Bool := do
  let t := s.me.tag d.toNat
  legal s ((t == 13 || (t == 14 && a == 0)) && groupOk s d.toNat (tagWidth t) s.me.nvl)
  .ok (t == 14)
/-- The rows lie within row 127. -/
def rowsFit (s : State) (a row0 : Nat) : Res Unit := shape s (decide ((row0 : Int) + ((s.me.nvl : Int) - 1) / 128 ≤ 127)) 0x08 a

/-- A drain from row0 into the group at d. -/
def drainOp (s : State) (d : Reg) (a row0 : Nat) (f64 : Bool) (next : Option (BitVec 7)) : Res State := do
  rowsFit s a row0
  let w := if f64 then 64 else 32
  let n := s.me.nvl
  let js := group d.toNat w n
  room s
  sourcesIn s ((viewBanks f64 a).map handA)
  if !writable s js then wait s
  else
    let (tok, s) := s.token
    let vs := s.me.nvs
    let s := emptyV s js tok
    let s := enqueue s (.drain s.cur a row0 vs n f64 d.toNat tok next)
    advance ((s.dirty (dirtyV js)).updMe (fun st => { st with vec := { st.vec with vstart := 0 } }))

/-- tdrain. -/
def execTdrain (o : TdrainOps) (s : State) : Host.Outcome State Fault Refusal := finish do
  needVs s
  let s := settle s (coreOf s.cur)
  let f64 ← viewOf s o.d o.a
  operands s [.s o.c o.fc]
  drainOp s o.d o.a.toNat (sv s o.c).toNat f64 none
/-- tdrain.n: from MDRAIN.DROW, which advances at issue. -/
def execTdrainN (d : Reg) (a : BitVec 1) (s : State) : Host.Outcome State Fault Refusal := finish do
  needVs s
  let s := settle s (coreOf s.cur)
  let f64 ← viewOf s d a
  let row0 := (mx s).iDrow.toNat
  let next := BitVec.ofNat 7 (row0 + (s.me.nvl + 127) / 128)
  let s' ← drainOp s d a.toNat row0 f64 (some next)
  .ok (s'.updMx (coreOf s.cur) (fun m => { m with iDrow := next }))

/-- A TACC of the group at d (R239, 23 R375). -/
def taccOp (s : State) (o : TaccOps) (add : Bool) : Res State := do
  needVs s
  let s := settle s (coreOf s.cur)
  let f64 ← viewOf s o.d o.a
  let w := if f64 then 64 else 32
  let n := s.me.nvl
  operands s (.s o.c o.fc :: groupOps o.d.toNat w n o.fd)
  let row0 := (sv s o.c).toNat
  rowsFit s o.a.toNat row0
  room s
  let vs := s.me.nvs
  let es := (List.range n).filter (fun e => vs ≤ e)
  let stain := (mx s).stain
  sourcesIn s (if add then (viewBanks f64 o.a.toNat).map handA else [])
  let bad := es.findSome? (fun e =>
    match srcPoison s [(o.d.toNat, w)] e with
    | some tv => some (e, { code := 0x10, qual := 2, tval := tv : TrapInfo })
    | none =>
      let b := bankAt f64 o.a.toNat (e % 128)
      if add && (mget 0 stain.banks b).getLsbD (row0 + e / 128)
      then some (e, { code := 0x10, qual := 3, tval := BitVec.ofNat 64 (1 + b * 256 + (row0 + e / 128) * 65536) }) else none)
  let go := fun (s : State) (m : Nat) => (enqueue s (.acc o.a.toNat row0 vs add f64 ((es.filter (fun e => e < m)).map (fun e => elem s o.d.toNat w e)))).dirty
    (dirtyA f64 o.a.toNat)
  match bad with
  | some (e, t) => .error (.trap t ((go s e).updMe (fun st => { st with vec := { st.vec with vstart := BitVec.ofNat 64 e } })))
  | none =>
    let s := consume (go s n) (consumed s (group o.d.toNat w n))
    advance (s.updMe (fun st => { st with vec := { st.vec with vstart := 0 } }))

/-- tacc.set. -/
def execTaccSet (o : TaccOps) (s : State) : Host.Outcome State Fault Refusal := finish (taccOp s o false)
/-- tacc.add. -/
def execTaccAdd (o : TaccOps) (s : State) : Host.Outcome State Fault Refusal := finish (taccOp s o true)

/-! ## TSTAT and the system registers (R222, R240) -/

/-- tstat: the descriptor that the earlier instructions leave. -/
def execTstat (d : Reg) (t : BitVec 3) (s : State) : Host.Outcome State Fault Refusal := finish do
  needVs s
  room s
  writeBackS s d (((mx s).dsc t.toNat).setWidth 64)
/-- What tile stores of the core's two strands have in its buffers and on its way enters coherence order; what a home does not let pass is still to come. -/
def drainCore (s : State) : State :=
  let q := if s.cur % 2 = 0 then s.cur + 1 else s.cur - 1
  drainOwn (drainOwn s s.cur) q
/-- tstat.idle: MSTAT once the engine has completed, with the accesses of its instructions performed (R240, 04 R78). -/
def execTstatIdle (d : Reg) (s : State) : Host.Outcome State Fault Refusal := finish do
  needVs s
  engineIdle s
  let s := drainCore s
  need ((ownGranules s (2 * coreOf s.cur)).isEmpty && (ownGranules s (2 * coreOf s.cur + 1)).isEmpty) (wait s)
  writeBackS s d (mx s).mstat

/-- mts of MCTL, MSTAT or MDRAIN: enters the queue; the strand waits only for room. -/
def execMatrixRegWrite (num : BitVec 12) (o : SrcOps) (s : State) : Host.Outcome State Fault Refusal := finish do
  operands s [.s o.b o.fb]
  room s
  let v := sv s o.b
  let s := s.updMx (coreOf s.cur) (fun m =>
    if num = 0x018 then { m with iMctl := v.setWidth 2 } else if num = 0x01A then { m with iDrow := v.setWidth 7 } else m)
  advance (enqueue s (.reg num.toNat v))

end Sys2Proof.Machine
end

