-- ==== Sys2Proof/Machine/Vector.lean ====
section
/-! DEFINITION. Majors 0x40 to 0x49: vector configuration, arithmetic, masks, conversion, lookup and moves (09 R166 to R181). -/
namespace Sys2Proof.Machine

/-! ## Configuration (09 R169) -/

/-- vsetvl: VL := min(sB, vlmax), VSTART := 0, sD := VL. -/
def execVsetvl (o : UnOps) (s : State) : Host.Outcome State Fault Refusal := finish do
  needVs s
  operands s [.s o.b o.fb]
  let vl := BitVec.ofNat 64 (Nat.min (sv s o.b).toNat s.me.vlmax)
  writeBackS (s.updMe (fun st => { st with vec := { st.vec with vl := vl, vstart := 0 } })) o.d vl

/-- The tags with registers d to d + cnt - 1 given tag t. -/
def setTags (v : BitVec 128) (d cnt : Nat) (t : BitVec 4) : BitVec 128 :=
  (List.range cnt).foldl (fun v i => (v &&& ~~~(15#128 <<< (4 * (d + i)))) ||| (t.setWidth 128 <<< (4 * (d + i)))) v

/-- vtag: the tags of CNT registers; the replay buffer is released. It names the registers: it waits for a STRM on the channel of one (19 R328). -/
def execVtag (d cntm1 : Reg) (tag : BitVec 4) (s : State) : Host.Outcome State Fault Refusal := finish do
  needVs s
  legal s ((List.range (cntm1.toNat + 1)).all (fun i => nameOk s (d.toNat + i)))
  if (List.range (cntm1.toNat + 1)).any (fun i => fabBusy s (coreOf s.cur) (d.toNat + i)) then wait s
  else advance (s.updMe (fun st => { st with replay := none, vec := { st.vec with vtag := setTags st.vec.vtag d.toNat (cntm1.toNat + 1) tag } }))

/-- The writable bits of VCFG (09 R157). -/
def vcfgMask : Word := 0xFFFFFF7

/-- vcfg: VCFG := sB; the replay buffer is released. -/
def execVcfg (o : SrcOps) (s : State) : Host.Outcome State Fault Refusal := finish do
  needVs s
  operands s [.s o.b o.fb]
  advance (s.updMe (fun st => { st with replay := none, vec := { st.vec with vcfg := sv s o.b &&& vcfgMask } }))

/-! ## The right operand: a group or a scalar (09 R167) -/

/-- The operand of register field Rc: a vector register, or the low bits of a scalar under vB's tag. -/
structure RcOp where
  scalar : Bool
  n : Reg
  f : Bool
  deriving DecidableEq, Repr

/-- Its tag. -/
def RcOp.tag (r : RcOp) (st : Strand) (tb : Nat) : Nat := if r.scalar then tb else st.tag r.n.toNat
/-- Its operand tests. -/
def RcOp.ops (r : RcOp) (st : Strand) (t : Nat) : List Opnd := if r.scalar then [.s r.n r.f] else groupOps r.n.toNat (tagWidth t) st.nvl r.f
/-- Its group, for overlaps and poison. -/
def RcOp.grp (r : RcOp) (t : Nat) : List (Nat × Nat) := if r.scalar then [] else [(r.n.toNat, tagWidth t)]
/-- Its element e. -/
def RcOp.at (r : RcOp) (s : State) (t e : Nat) : Nat :=
  if r.scalar then (sv s r.n).toNat % 2 ^ tagWidth t else elem s r.n.toNat (tagWidth t) e

/-- The scale register in force for a source, when block scaling is on for it. -/
def scaleReg (st : Strand) (isB scalar : Bool) : Option Nat :=
  if isB then (if st.vec.vcfg.getLsbD 23 && !scalar then some (st.cfg 21 17) else none)
  else (if st.vec.vcfg.getLsbD 22 then some (st.cfg 16 12) else none)
/-- The rules on block scaling: BLK, the source's tag, the scale register's tag (08 R142, 09 R157, R168), and that it may be named (19 R324). -/
def scaleLegal (s : State) (sr : Option Nat) (t : Nat) : Bool :=
  match sr with | none => true | some r => s.me.cfg 11 10 != 3 && scalable t && s.me.tag r == 15 && nameOk s r
/-- The scale byte of element e of a source. -/
def scaleAt (s : State) (sr : Option Nat) (base t e : Nat) : Option Nat :=
  sr.map (fun r => scaleByte s r base (tagWidth t) s.me.blk e)
/-- A scale register's operand test. -/
def scaleOps (sr : Option Nat) : List Opnd := match sr with | none => [] | some r => [.v r false]

/-! ## Float arithmetic (09 R170, R171) -/

/-- An exact result in the operation format: NaN operands, one rounding, FTZ_OUT, then the destination's tag (08 R143 to R147). -/
def floatResult (st : Strand) (opf td : Nat) (nan sig : Bool) (x : FV × Nat) (srcFlags : Nat) : EOut :=
  let mode := if st.rm = 5 then 0 else st.rm
  let f := fmtOf opf
  let x : FV × Nat := if nan then (.nan false, if sig then fNV else 0) else x
  let r := toFormat f mode x.1
  let ftz := st.vec.vcfg.getLsbD 6 && isSub f r.1
  let v := if ftz then zeroOf r.1 else r.1
  let fl := srcFlags ||| x.2 ||| (if ftz then fUF ||| fNX else r.2)
  let v := match v with | .nan _ => FV.nan false | y => y
  (toTag td mode none (st.vec.vcfg.getLsbD 4) false v).out fl

/-- The binary and unary operations of 09 R170 on values of the operation format. -/
def floatOp (op mode : Nat) (a b : FV) : FV × Nat :=
  match op with
  | 0 => fvAdd mode a b
  | 1 => fvAdd mode a (b.withSign (!b.neg))
  | 2 => fvMul a b
  | 3 => fvDiv a b
  | 4 => (fvMin a b, 0)
  | 5 => (fvMax a b, 0)
  | 6 => fvSqrt a
  | 7 => (a.withSign false, 0)
  | 8 => (a.withSign (!a.neg), 0)
  | _ => (a.withSign b.neg, 0)

/-- The log-domain product of lg6 operands, with block scales in the log domain (08 R141). -/
def lgMulOut (xa xb : Option Nat) (a b : Nat) : EOut :=
  if xa = some 255 ∨ xb = some 255 then ⟨0x0F, fNV ||| fSA, true⟩
  else match lgParts a, lgParts b with
    | some (sa, pa), some (sb, pb) =>
      let k := fun (x : Option Nat) => match x with | some v => 4 * ((v : Int) - 127) | none => 0
      let p := pa + pb + k xa + k xb
      let sign := if sa != sb then 32 else 0
      if 15 < p then ⟨sign + 0x0F, fOF ||| fNX ||| fSA, true⟩
      else if p < -15 then ⟨0, fUF ||| fNX, false⟩
      else ⟨sign + ofIntAt 5 p, 0, false⟩
    | _, _ => ⟨0, 0, false⟩

/-- The operation format's value of element e of a source, with the flags of getting it there. -/
def srcVal (st : Strand) (opf t : Nat) (scale : Option Nat) (bits : Nat) : FV × Nat :=
  toOp opf st.rm (st.vec.vcfg.getLsbD 4) (st.vec.vcfg.getLsbD 5) t scale bits

/-- A signalling NaN among the raw operands. -/
def rawSig (t bits : Nat) : Bool := (decodeElem t bits).isSig

/-- The tag of the right operand of a float operation; vB's when it is unary. -/
def rightTag (s : State) (b : Reg) (rc : Option RcOp) : Nat :=
  match rc with | some r => r.tag s.me (s.me.tag b.toNat) | none => s.me.tag b.toNat
/-- The scale register of the right operand. -/
def rightScale (s : State) (rc : Option RcOp) : Option Nat := match rc with | some r => scaleReg s.me true r.scalar | none => none
/-- The source groups of a float operation. -/
def floatSrcs (s : State) (b : Reg) (rc : Option RcOp) : List (Nat × Nat) :=
  (b.toNat, tagWidth (s.me.tag b.toNat)) :: (match rc with | some r => r.grp (rightTag s b rc) | none => [])

/-- The checks of a float operation of major 0x41 after VSTATE_OFF, in the order of 02 R41 (09 R163, R168, R170). RM of 6 or 7 is illegal for
every operation of the major, those included whose results need no rounding.
(DESIGN CHOICE, unsafe: notes/assumptions/55.) -/
def floatGate (s : State) (d b : Reg) (fb : Bool) (rc : Option RcOp) (km : BitVec 3) : Res Unit := do
  let st := s.me
  let tb := st.tag b.toNat
  let td := st.tag d.toNat
  let tc := rightTag s b rc
  let sa := scaleReg st false false
  let sb := rightScale s rc
  let ts := [tb, tc, td]
  legal s (ts.any tagFloat && ts.all (· != 15) && decide (st.rm < 6) && scaleLegal s sa tb && scaleLegal s sb tc
    && groupOk s b.toNat (tagWidth tb) st.nvl && groupOk s d.toNat (tagWidth td) st.nvl
    && (match rc with | some r => r.scalar || groupOk s r.n.toNat (tagWidth tc) st.nvl | none => true))
  operands s (groupOps b.toNat (tagWidth tb) st.nvl fb ++ (match rc with | some r => r.ops st tc | none => [])
    ++ scaleOps sa ++ scaleOps sb ++ maskOps km)
  destOverlap s true (d.toNat, tagWidth td) st.nvl ((floatSrcs s b rc).map (fun g => (g.1, g.2, st.nvl)))
  scaleOverlap s (sa.toList ++ sb.toList) (((d.toNat, tagWidth td) :: floatSrcs s b rc).map (fun g => (g.1, group g.1 g.2 st.nvl)))

/-- Element e of a float operation: lg6 products in the log domain, else in the operation format (08 R141, R143 to R147, 09 R170). -/
def floatElem (s : State) (op : Nat) (d b : Reg) (rc : Option RcOp) (e : Nat) : EOut :=
  let st := s.me
  let tb := st.tag b.toNat
  let td := st.tag d.toNat
  let tc := rightTag s b rc
  let sa := scaleReg st false false
  let sb := rightScale s rc
  let opf := opFormat (match rc with | some _ => [tb, tc, td] | none => [tb, td]) (sa.isSome || sb.isSome)
  let mode := if st.rm = 5 then 0 else st.rm
  let x := elem s b.toNat (tagWidth tb) e
  let y := match rc with | some r => r.at s tc e | none => 0
  let xa := scaleAt s sa b.toNat tb e
  let xb := match rc with | some r => scaleAt s sb r.n.toNat tc e | none => none
  if op = 2 ∧ tb = 10 ∧ tc = 10 ∧ td = 10 then lgMulOut xa xb x y
  else
    let va := srcVal st opf tb xa x
    let vb := match rc with | some _ => srcVal st opf tc xb y | none => va
    let sig := rawSig tb x || (rc.isSome && rawSig tc y)
    let nan := if op = 4 ∨ op = 5 then va.1.isNan && vb.1.isNan else va.1.isNan || vb.1.isNan
    let r := floatResult st opf td nan sig (floatOp op mode va.1 vb.1) (va.2 ||| vb.2)
    if sig then { r with flags := r.flags ||| fNV } else r

/-- A float operation of major 0x41; unary when rc is none (09 R170). -/
def floatArith (s : State) (op : Nat) (d b : Reg) (fb : Bool) (rc : Option RcOp) (km : BitVec 3) : Res State := do
  needVs s
  let s := settle s (coreOf s.cur)
  floatGate s d b fb rc km
  elementwise s d.toNat (tagWidth (s.me.tag d.toNat)) km (floatSrcs s b rc) false true (fun e _ => floatElem s op d b rc e)
    (scaleUse (scaleReg s.me false false) b.toNat (tagWidth (s.me.tag b.toNat))
      ++ match rc with | some r => scaleUse (rightScale s rc) r.n.toNat (tagWidth (rightTag s b rc)) | none => [])

/-- vadd (09 R170). -/
def execVadd (o : V3) (s : State) : Host.Outcome State Fault Refusal :=
  finish (floatArith s 0 o.d o.b o.fb (some ⟨o.s, o.c, o.fc⟩) o.km)
/-- vsub (09 R170). -/
def execVsub (o : V3) (s : State) : Host.Outcome State Fault Refusal :=
  finish (floatArith s 1 o.d o.b o.fb (some ⟨o.s, o.c, o.fc⟩) o.km)
/-- vmul (09 R170). -/
def execVmul (o : V3) (s : State) : Host.Outcome State Fault Refusal :=
  finish (floatArith s 2 o.d o.b o.fb (some ⟨o.s, o.c, o.fc⟩) o.km)
/-- vdiv (09 R170). -/
def execVdiv (o : V3) (s : State) : Host.Outcome State Fault Refusal :=
  finish (floatArith s 3 o.d o.b o.fb (some ⟨o.s, o.c, o.fc⟩) o.km)
/-- vmin (09 R170). -/
def execVmin (o : V3) (s : State) : Host.Outcome State Fault Refusal :=
  finish (floatArith s 4 o.d o.b o.fb (some ⟨o.s, o.c, o.fc⟩) o.km)
/-- vmax (09 R170). -/
def execVmax (o : V3) (s : State) : Host.Outcome State Fault Refusal :=
  finish (floatArith s 5 o.d o.b o.fb (some ⟨o.s, o.c, o.fc⟩) o.km)
/-- vsqrt (09 R170). -/
def execVsqrt (o : V2) (s : State) : Host.Outcome State Fault Refusal := finish (floatArith s 6 o.d o.b o.fb none o.km)
/-- vabs (09 R170). -/
def execVabs (o : V2) (s : State) : Host.Outcome State Fault Refusal := finish (floatArith s 7 o.d o.b o.fb none o.km)
/-- vneg (09 R170). -/
def execVneg (o : V2) (s : State) : Host.Outcome State Fault Refusal := finish (floatArith s 8 o.d o.b o.fb none o.km)
/-- vsgnj (09 R170). -/
def execVsgnj (o : V3) (s : State) : Host.Outcome State Fault Refusal :=
  finish (floatArith s 9 o.d o.b o.fb (some ⟨o.s, o.c, o.fc⟩) o.km)

/-- The right operand of a form with S. -/
def rc4 (o : V4) : RcOp := ⟨o.s, o.c, o.fc⟩
/-- The right operand of a form with S. -/
def rc3 (o : V3) : RcOp := ⟨o.s, o.c, o.fc⟩
/-- The source groups of a fused form. -/
def fusedSrcs (s : State) (o : V4) : List (Nat × Nat) :=
  (o.b.toNat, tagWidth (s.me.tag o.b.toNat)) :: ((rc4 o).grp ((rc4 o).tag s.me (s.me.tag o.b.toNat)) ++ [(o.a.toNat, tagWidth (s.me.tag o.a.toNat))])
/-- The checks of a fused form after VSTATE_OFF (09 R163, R168, R171). -/
def fusedGate (s : State) (o : V4) : Res Unit := do
  let st := s.me
  let tb := st.tag o.b.toNat
  let td := st.tag o.d.toNat
  let ta := st.tag o.a.toNat
  let tc := (rc4 o).tag st tb
  let sa := scaleReg st false false
  let sb := scaleReg st true o.s
  legal s ((tagFloat tb || tagFloat tc || tagFloat td) && [tb, tc, ta, td].all (· != 15) && decide (st.rm < 6)
    && scaleLegal s sa tb && scaleLegal s sb tc
    && groupOk s o.b.toNat (tagWidth tb) st.nvl && groupOk s o.d.toNat (tagWidth td) st.nvl && groupOk s o.a.toNat (tagWidth ta) st.nvl
    && (o.s || groupOk s o.c.toNat (tagWidth tc) st.nvl))
  operands s (groupOps o.b.toNat (tagWidth tb) st.nvl o.fb ++ (rc4 o).ops st tc ++ groupOps o.a.toNat (tagWidth ta) st.nvl o.fa
    ++ scaleOps sa ++ scaleOps sb ++ maskOps o.km)
  destOverlap s true (o.d.toNat, tagWidth td) st.nvl ((fusedSrcs s o).map (fun g => (g.1, g.2, st.nvl)))
  scaleOverlap s (sa.toList ++ sb.toList) (((o.d.toNat, tagWidth td) :: fusedSrcs s o).map (fun g => (g.1, group g.1 g.2 st.nvl)))
/-- Element e of a fused form: ±(a × b) ± c, exact, rounded once; np negates the product, nc the addend. -/
def fusedElem (s : State) (np nc : Bool) (o : V4) (e : Nat) : EOut :=
  let st := s.me
  let tb := st.tag o.b.toNat
  let td := st.tag o.d.toNat
  let ta := st.tag o.a.toNat
  let tc := (rc4 o).tag st tb
  let sa := scaleReg st false false
  let sb := scaleReg st true o.s
  let opf := opFormat [tb, tc, ta, td] (sa.isSome || sb.isSome)
  let mode := if st.rm = 5 then 0 else st.rm
  let x := elem s o.b.toNat (tagWidth tb) e
  let y := (rc4 o).at s tc e
  let z := elem s o.a.toNat (tagWidth ta) e
  let va := srcVal st opf tb (scaleAt s sa o.b.toNat tb e) x
  let vb := srcVal st opf tc (scaleAt s sb o.c.toNat tc e) y
  let vc := srcVal st opf ta none z
  let sig := rawSig tb x || rawSig tc y || rawSig ta z
  let p := fvMul va.1 vb.1
  let bad := p.2 != 0
  let p1 := if np then p.1.withSign (!p.1.neg) else p.1
  let c1 := if nc then vc.1.withSign (!vc.1.neg) else vc.1
  let nan := va.1.isNan || vb.1.isNan || vc.1.isNan || bad
  let r := floatResult st opf td nan sig (fvAdd mode p1 c1) (va.2 ||| vb.2 ||| vc.2)
  if sig || bad then { r with flags := r.flags ||| fNV } else r
/-- A fused form (09 R171). -/
def fusedArith (s : State) (np nc : Bool) (o : V4) : Res State := do
  needVs s
  let s := settle s (coreOf s.cur)
  fusedGate s o
  elementwise s o.d.toNat (tagWidth (s.me.tag o.d.toNat)) o.km (fusedSrcs s o) false true (fun e _ => fusedElem s np nc o e)
    (scaleUse (scaleReg s.me false false) o.b.toNat (tagWidth (s.me.tag o.b.toNat))
      ++ scaleUse (scaleReg s.me true o.s) o.c.toNat (tagWidth ((rc4 o).tag s.me (s.me.tag o.b.toNat))))

/-- vfma: a × b + c (09 R171). -/
def execVfma (o : V4) (s : State) : Host.Outcome State Fault Refusal := finish (fusedArith s false false o)
/-- vfms: a × b - c. -/
def execVfms (o : V4) (s : State) : Host.Outcome State Fault Refusal := finish (fusedArith s false true o)
/-- vfnma: -(a × b) + c. -/
def execVfnma (o : V4) (s : State) : Host.Outcome State Fault Refusal := finish (fusedArith s true false o)
/-- vfnms: -(a × b) - c. -/
def execVfnms (o : V4) (s : State) : Host.Outcome State Fault Refusal := finish (fusedArith s true true o)

/-! ## Integer and bit operations (09 R172, R173) -/

/-- An integer element, extended by its own signedness. -/
def intVal (t b : Nat) : Int := if tagSigned t then toSigned (tagWidth t) b else (b : Int)

/-- The rows of 09 R172 but vadds and vsubs: n is the widest participant width, shift the unsigned right operand. -/
def intOp (op n : Nat) (a b : Int) (shift : Nat) : Int :=
  let pa := ofIntAt n a
  let pb := ofIntAt n b
  let sh := shift % n
  match op with
  | 0 => a + b
  | 1 => a - b
  | 2 => a * b
  | 3 => a * b / 2 ^ n
  | 4 => (pa &&& pb : Nat)
  | 5 => (pa ||| pb : Nat)
  | 6 => (pa ^^^ pb : Nat)
  | 7 => (pa * 2 ^ sh % 2 ^ n : Nat)
  | 8 => (pa / 2 ^ sh : Nat)
  | 9 => toSigned n pa / 2 ^ sh
  | 10 => if a ≤ b then a else b
  | 11 => if a ≤ b then b else a
  | 12 => a + b
  | _ => a - b

/-- An integer result in a tag: saturated, setting its bit, or wrapped. -/
def intOut (sat : Bool) (td : Nat) (x : Int) : EOut :=
  let w := tagWidth td
  let hi : Int := if tagSigned td then 2 ^ (w - 1) - 1 else 2 ^ w - 1
  let lo : Int := if tagSigned td then -2 ^ (w - 1) else 0
  if sat && decide (hi < x) then ⟨ofIntAt w hi, 0, true⟩
  else if sat && decide (x < lo) then ⟨ofIntAt w lo, 0, true⟩
  else ⟨ofIntAt w x, 0, false⟩

/-- The source groups of a two-source form. -/
def srcs3 (o : V3) (s : State) : List (Nat × Nat) :=
  (o.b.toNat, tagWidth (s.me.tag o.b.toNat)) :: (rc3 o).grp ((rc3 o).tag s.me (s.me.tag o.b.toNat))
/-- The checks of an integer operation of major 0x43 after VSTATE_OFF (09 R163, R172). -/
def intGate (s : State) (o : V3) : Res Unit := do
  let st := s.me
  let tb := st.tag o.b.toNat
  let td := st.tag o.d.toNat
  let tc := (rc3 o).tag st tb
  legal s (tagInt tb && tagInt tc && tagInt td
    && groupOk s o.b.toNat (tagWidth tb) st.nvl && groupOk s o.d.toNat (tagWidth td) st.nvl && (o.s || groupOk s o.c.toNat (tagWidth tc) st.nvl))
  operands s (groupOps o.b.toNat (tagWidth tb) st.nvl o.fb ++ (rc3 o).ops st tc ++ maskOps o.km)
  destOverlap s true (o.d.toNat, tagWidth td) st.nvl ((srcs3 o s).map (fun g => (g.1, g.2, st.nvl)))
/-- Element e of an integer operation. -/
def intElem (s : State) (op : Nat) (o : V3) (e : Nat) : EOut :=
  let tb := s.me.tag o.b.toNat
  let td := s.me.tag o.d.toNat
  let tc := (rc3 o).tag s.me tb
  let n := Nat.max (tagWidth tb) (Nat.max (tagWidth tc) (tagWidth td))
  let y := (rc3 o).at s tc e
  let shift := if o.s then (sv s o.c).toNat else y
  intOut (decide (12 ≤ op)) td (intOp op n (intVal tb (elem s o.b.toNat (tagWidth tb) e)) (intVal tc y) shift)
/-- An integer operation of major 0x43 (09 R172). -/
def intArith (s : State) (op : Nat) (o : V3) : Res State := do
  needVs s
  let s := settle s (coreOf s.cur)
  intGate s o
  elementwise s o.d.toNat (tagWidth (s.me.tag o.d.toNat)) o.km (srcs3 o s) false false (fun e _ => intElem s op o e)

/-- vadd.i (09 R172). -/
def execVaddI (o : V3) (s : State) : Host.Outcome State Fault Refusal := finish (intArith s 0 o)
/-- vsub.i (09 R172). -/
def execVsubI (o : V3) (s : State) : Host.Outcome State Fault Refusal := finish (intArith s 1 o)
/-- vmul.i (09 R172). -/
def execVmulI (o : V3) (s : State) : Host.Outcome State Fault Refusal := finish (intArith s 2 o)
/-- vmulh (09 R172). -/
def execVmulh (o : V3) (s : State) : Host.Outcome State Fault Refusal := finish (intArith s 3 o)
/-- vand (09 R172). -/
def execVand (o : V3) (s : State) : Host.Outcome State Fault Refusal := finish (intArith s 4 o)
/-- vor (09 R172). -/
def execVor (o : V3) (s : State) : Host.Outcome State Fault Refusal := finish (intArith s 5 o)
/-- vxor (09 R172). -/
def execVxor (o : V3) (s : State) : Host.Outcome State Fault Refusal := finish (intArith s 6 o)
/-- vsll (09 R172). -/
def execVsll (o : V3) (s : State) : Host.Outcome State Fault Refusal := finish (intArith s 7 o)
/-- vsrl (09 R172). -/
def execVsrl (o : V3) (s : State) : Host.Outcome State Fault Refusal := finish (intArith s 8 o)
/-- vsra (09 R172). -/
def execVsra (o : V3) (s : State) : Host.Outcome State Fault Refusal := finish (intArith s 9 o)
/-- vmin.i (09 R172). -/
def execVminI (o : V3) (s : State) : Host.Outcome State Fault Refusal := finish (intArith s 10 o)
/-- vmax.i (09 R172). -/
def execVmaxI (o : V3) (s : State) : Host.Outcome State Fault Refusal := finish (intArith s 11 o)
/-- vadds (09 R172). -/
def execVadds (o : V3) (s : State) : Host.Outcome State Fault Refusal := finish (intArith s 12 o)
/-- vsubs (09 R172). -/
def execVsubs (o : V3) (s : State) : Host.Outcome State Fault Refusal := finish (intArith s 13 o)

/-- The checks of a unary bit operation after VSTATE_OFF (09 R163, R173). -/
def unaryGate (s : State) (o : V2) : Res Unit := do
  let st := s.me
  let tb := st.tag o.b.toNat
  let td := st.tag o.d.toNat
  legal s (tagInt tb && tagInt td && groupOk s o.b.toNat (tagWidth tb) st.nvl && groupOk s o.d.toNat (tagWidth td) st.nvl)
  operands s (groupOps o.b.toNat (tagWidth tb) st.nvl o.fb ++ maskOps o.km)
  destOverlap s true (o.d.toNat, tagWidth td) st.nvl [(o.b.toNat, tagWidth tb, st.nvl)]
/-- A unary bit operation at vB's width, zero-extended into vD (09 R173). -/
def intUnary (s : State) (f : Nat → Nat → Nat) (o : V2) : Res State := do
  needVs s
  let s := settle s (coreOf s.cur)
  unaryGate s o
  let w := tagWidth (s.me.tag o.b.toNat)
  elementwise s o.d.toNat (tagWidth (s.me.tag o.d.toNat)) o.km [(o.b.toNat, w)] false false (fun e _ =>
    ⟨f w (elem s o.b.toNat w e) % 2 ^ tagWidth (s.me.tag o.d.toNat), 0, false⟩)

/-- Leading zeros at width w. -/
def vecClz (w x : Nat) : Nat := if x = 0 then w else w - 1 - Nat.log2 x
/-- Index of the lowest set bit, or w. -/
def vecCtz (w x : Nat) : Nat := ((List.range w).find? (fun i => x.testBit i)).getD w
/-- Number of ones. -/
def vecPopc (w x : Nat) : Nat := (List.range w).countP (fun i => x.testBit i)
/-- Bit i to bit w - 1 - i. -/
def vecBrev (w x : Nat) : Nat := (List.range w).foldl (fun acc i => if x.testBit i then acc + 2 ^ (w - 1 - i) else acc) 0

/-- vclz (09 R173). -/
def execVclz (o : V2) (s : State) : Host.Outcome State Fault Refusal := finish (intUnary s vecClz o)
/-- vctz (09 R173). -/
def execVctz (o : V2) (s : State) : Host.Outcome State Fault Refusal := finish (intUnary s vecCtz o)
/-- vpopc (09 R173). -/
def execVpopc (o : V2) (s : State) : Host.Outcome State Fault Refusal := finish (intUnary s vecPopc o)
/-- vffs (09 R173). -/
def execVffs (o : V2) (s : State) : Host.Outcome State Fault Refusal := finish (intUnary s vecCtz o)
/-- vbrev (09 R173). -/
def execVbrev (o : V2) (s : State) : Host.Outcome State Fault Refusal := finish (intUnary s vecBrev o)

/-! ## Compare (09 R174) -/

/-- The bit of a comparison from the order of its operands; none is unordered. -/
def cmpBit (op : Nat) (o : Option Ordering) : Bool :=
  match op, o with
  | 0, some .eq => true
  | 1, some .eq => false
  | 1, _ => true
  | 2, some .lt => true
  | 3, some .lt => true
  | 3, some .eq => true
  | 4, some .gt => true
  | 5, some .gt => true
  | 5, some .eq => true
  | 6, none => true
  | _, _ => false

/-- The right operand of a comparison. -/
def cmpRc (o : VCmpOps) : RcOp := ⟨o.s, o.c, o.fc⟩
/-- The source groups of a comparison. -/
def cmpSrcs (o : VCmpOps) (s : State) : List (Nat × Nat) :=
  (o.b.toNat, tagWidth (s.me.tag o.b.toNat)) :: (cmpRc o).grp ((cmpRc o).tag s.me (s.me.tag o.b.toNat))
/-- The comparison is made on numbers of the operation format and records flags. -/
def cmpFloat (o : VCmpOps) (s : State) : Bool :=
  tagFloat (s.me.tag o.b.toNat) || tagFloat ((cmpRc o).tag s.me (s.me.tag o.b.toNat))
/-- A source is block-scaled. -/
def cmpScaled (o : VCmpOps) (s : State) : Bool := (scaleReg s.me false false).isSome || (scaleReg s.me true o.s).isSome
/-- The scale registers of a comparison. -/
def cmpScales (o : VCmpOps) (s : State) : List ScaleUse :=
  scaleUse (scaleReg s.me false false) o.b.toNat (tagWidth (s.me.tag o.b.toNat))
    ++ scaleUse (scaleReg s.me true o.s) o.c.toNat (tagWidth ((cmpRc o).tag s.me (s.me.tag o.b.toNat)))
/-- The checks of a comparison after VSTATE_OFF (09 R168, R174). -/
def cmpGate (s : State) (op : Nat) (o : VCmpOps) : Res Unit := do
  let st := s.me
  let tb := st.tag o.b.toNat
  let tc := (cmpRc o).tag st tb
  let sa := scaleReg st false false
  let sb := scaleReg st true o.s
  legal s (tb != 15 && tc != 15 && (op != 6 || cmpFloat o s) && (!(cmpFloat o s || cmpScaled o s) || decide (st.rm < 6)) && scaleLegal s sa tb && scaleLegal s sb tc
    && groupOk s o.b.toNat (tagWidth tb) st.nvl && (o.s || groupOk s o.c.toNat (tagWidth tc) st.nvl))
  operands s (groupOps o.b.toNat (tagWidth tb) st.nvl o.fb ++ (cmpRc o).ops st tc ++ scaleOps sa ++ scaleOps sb ++ maskOps o.km)
  scaleOverlap s (sa.toList ++ sb.toList) ((cmpSrcs o s).map (fun g => (g.1, group g.1 g.2 st.nvl)))
/-- The bit of element e of a comparison, with its flags. -/
def cmpElem (s : State) (op : Nat) (o : VCmpOps) (e : Nat) : EOut :=
  let st := s.me
  let tb := st.tag o.b.toNat
  let tc := (cmpRc o).tag st tb
  let sa := scaleReg st false false
  let sb := scaleReg st true o.s
  let opf := opFormat [tb, tc] (cmpScaled o s)
  let x := elem s o.b.toNat (tagWidth tb) e
  let y := (cmpRc o).at s tc e
  if !cmpFloat o s && !cmpScaled o s then ⟨(cmpBit op (some (compare (intVal tb x) (intVal tc y)))).toNat, 0, false⟩
  else
    let va := srcVal st opf tb (scaleAt s sa o.b.toNat tb e) x
    let vb := srcVal st opf tc (scaleAt s sb o.c.toNat tc e) y
    let sig := rawSig tb x || rawSig tc y
    let nan := va.1.isNan || vb.1.isNan
    let nv := sig || (nan && decide (2 ≤ op) && decide (op ≤ 5))
    ⟨(cmpBit op (if nan then none else some (fvCmp false va.1 vb.1))).toNat, va.2 ||| vb.2 ||| (if nv then fNV else 0), false⟩
/-- vcmp: writes bits of kD (09 R174). -/
def compareOp (s : State) (op : Nat) (o : VCmpOps) : Res State := do
  needVs s
  let s := settle s (coreOf s.cur)
  cmpGate s op o
  let st := s.me
  let r := runElems (elemRange st) false st.vec.lfsr.toNat (activeAt s o.km)
    (elemPoisoned s o.km (cmpSrcs o s) (cmpScales o s)) (fun e _ => cmpElem s op o e)
  vecEnd s (fun _ => []) (fun b => if (elemRange st).isEmpty then [] else [writeMask s o.d.toNat (b.map (fun x => (x.1, x.2 == 1)))]) r
    (cmpFloat o s || cmpScaled o s) (readsOf s (cmpSrcs o s) (cmpScales o s))

/-- vcmp.eq (09 R174). -/
def execVcmpEq (o : VCmpOps) (s : State) : Host.Outcome State Fault Refusal := finish (compareOp s 0 o)
/-- vcmp.ne (09 R174). -/
def execVcmpNe (o : VCmpOps) (s : State) : Host.Outcome State Fault Refusal := finish (compareOp s 1 o)
/-- vcmp.lt (09 R174). -/
def execVcmpLt (o : VCmpOps) (s : State) : Host.Outcome State Fault Refusal := finish (compareOp s 2 o)
/-- vcmp.le (09 R174). -/
def execVcmpLe (o : VCmpOps) (s : State) : Host.Outcome State Fault Refusal := finish (compareOp s 3 o)
/-- vcmp.gt (09 R174). -/
def execVcmpGt (o : VCmpOps) (s : State) : Host.Outcome State Fault Refusal := finish (compareOp s 4 o)
/-- vcmp.ge (09 R174). -/
def execVcmpGe (o : VCmpOps) (s : State) : Host.Outcome State Fault Refusal := finish (compareOp s 5 o)
/-- vcmp.un (09 R174). -/
def execVcmpUn (o : VCmpOps) (s : State) : Host.Outcome State Fault Refusal := finish (compareOp s 6 o)

/-! ## Mask operations (09 R175) -/

/-- VL ones. -/
def vlMask (n : Nat) : BitVec 2048 := BitVec.ofNat 2048 (2 ^ n - 1)

/-- A poisoned chunk of a mask register below VL. -/
def maskSrcPoison (s : State) (ks : List (BitVec 3)) : Option Word :=
  ks.findSome? (fun k => ((List.range ((s.me.nvl + 511) / 512)).map (· * 512)).findSome? (fun e => maskPoison s k.toNat e))

/-- A mask operation that writes kD: bits below VL from f, VSTART := 0. -/
def maskOp (s : State) (d : BitVec 3) (srcs : List (BitVec 3 × Bool)) (f : State → BitVec 2048) : Res State := do
  needVs s
  let s := settle s (coreOf s.cur)
  operands s (srcs.map (fun k => .k k.1.toNat k.2))
  match maskSrcPoison s (srcs.map (·.1)) with
  | some tv => raise s 0x10 2 tv
  | none =>
    let m := vlMask s.me.nvl
    let old := kreg s d.toNat
    let v := (old.val &&& ~~~m) ||| (f s &&& m)
    let clean : BitVec 4 := (List.range 4).foldl (fun (b : BitVec 4) c => if 512 * c + 512 ≤ s.me.nvl then b ||| (1#4 <<< c) else b) 0
    advance (vecLeave s [] [(d.toNat, v, old.poison &&& ~~~clean)] [] false none s.me.vec.lfsr.toNat)

/-- A mask operation that writes a scalar (09 R175). -/
def maskScalar (s : State) (d : Reg) (b : BitVec 3) (fb : Bool) (f : List Nat → Nat → Nat) : Res State := do
  needVs s
  let s := settle s (coreOf s.cur)
  operands s [.k b.toNat fb]
  match maskSrcPoison s [b] with
  | some tv => raise s 0x10 2 tv
  | none =>
    let ones := (List.range s.me.nvl).filter (fun e => (kreg s b.toNat).val.getLsbD e)
    let v := BitVec.ofNat 64 (f ones s.me.nvl)
    writeBackS (scalarLeave s d v) d v

/-- kand (09 R175). -/
def execKand (o : K3) (s : State) : Host.Outcome State Fault Refusal :=
  finish (maskOp s o.d [(o.b, o.fb), (o.c, o.fc)] (fun t => (kreg t o.b.toNat).val &&& (kreg t o.c.toNat).val))
/-- kor (09 R175). -/
def execKor (o : K3) (s : State) : Host.Outcome State Fault Refusal :=
  finish (maskOp s o.d [(o.b, o.fb), (o.c, o.fc)] (fun t => (kreg t o.b.toNat).val ||| (kreg t o.c.toNat).val))
/-- kxor (09 R175). -/
def execKxor (o : K3) (s : State) : Host.Outcome State Fault Refusal :=
  finish (maskOp s o.d [(o.b, o.fb), (o.c, o.fc)] (fun t => (kreg t o.b.toNat).val ^^^ (kreg t o.c.toNat).val))
/-- kandn (09 R175). -/
def execKandn (o : K3) (s : State) : Host.Outcome State Fault Refusal :=
  finish (maskOp s o.d [(o.b, o.fb), (o.c, o.fc)] (fun t => (kreg t o.b.toNat).val &&& ~~~(kreg t o.c.toNat).val))
/-- knot (09 R175). -/
def execKnot (o : K2) (s : State) : Host.Outcome State Fault Refusal := finish (maskOp s o.d [(o.b, o.fb)] (fun t => ~~~(kreg t o.b.toNat).val))
/-- kmov (09 R175). -/
def execKmov (o : K2) (s : State) : Host.Outcome State Fault Refusal := finish (maskOp s o.d [(o.b, o.fb)] (fun t => (kreg t o.b.toNat).val))
/-- kset (09 R175). -/
def execKset (d : BitVec 3) (s : State) : Host.Outcome State Fault Refusal := finish (maskOp s d [] (fun _ => BitVec.allOnes 2048))
/-- kclr (09 R175). -/
def execKclr (d : BitVec 3) (s : State) : Host.Outcome State Fault Refusal := finish (maskOp s d [] (fun _ => 0))
/-- kpopc: ones among bits 0 to VL - 1 (09 R175). -/
def execKpopc (o : KS) (s : State) : Host.Outcome State Fault Refusal := finish (maskScalar s o.d o.b o.fb (fun ones _ => ones.length))
/-- kfirst: the lowest set bit below VL, else VL (09 R175). -/
def execKfirst (o : KS) (s : State) : Host.Outcome State Fault Refusal := finish (maskScalar s o.d o.b o.fb (fun ones vl => ones.headD vl))

/-! ## Conversion, scale and quantise (09 R176 to R178) -/

/-- The rounding mode of a conversion. -/
def cvtMode (o : CvtOps) (st : Strand) : Nat := if o.mode = 7 then st.rm else o.mode.toNat
/-- The checks of a conversion after VSTATE_OFF (09 R163, R168, R176). -/
def cvtGate (s : State) (o : CvtOps) : Res Unit := do
  let st := s.me
  let tb := st.tag o.b.toNat
  let td := st.tag o.d.toNat
  let sa := scaleReg st false false
  legal s (tb != 15 && td != 15 && decide (cvtMode o st < 6) && scaleLegal s sa tb
    && groupOk s o.b.toNat (tagWidth tb) st.nvl && groupOk s o.d.toNat (tagWidth td) st.nvl)
  operands s (groupOps o.b.toNat (tagWidth tb) st.nvl o.fb ++ scaleOps sa ++ maskOps o.km)
  destOverlap s true (o.d.toNat, tagWidth td) st.nvl [(o.b.toNat, tagWidth tb, st.nvl)]
  scaleOverlap s sa.toList [(o.d.toNat, group o.d.toNat (tagWidth td) st.nvl), (o.b.toNat, group o.b.toNat (tagWidth tb) st.nvl)]
/-- The conversion takes a draw per element: stochastic rounding into a format that narrows. -/
def cvtDraws (s : State) (o : CvtOps) : Bool := cvtMode o s.me == 5 && narrows (s.me.tag o.b.toNat) (s.me.tag o.d.toNat)
/-- Element e of a conversion (08 R143 to R147). FTZ_OUT acts where the destination's tag is the operation format.
(DESIGN CHOICE, unsafe: notes/assumptions/55.) -/
def cvtElem (s : State) (o : CvtOps) (e : Nat) (draw : Option Nat) : EOut :=
  let st := s.me
  let tb := st.tag o.b.toNat
  let td := st.tag o.d.toNat
  let mode := cvtMode o st
  let sa := scaleReg st false false
  let opf := opFormat [tb, td] sa.isSome
  let x := elem s o.b.toNat (tagWidth tb) e
  if tagInt tb && tagInt td && sa.isNone then (toInteger td 0 none (decodeElem tb x)).out 0
  else
    let v := toOp opf mode (st.vec.vcfg.getLsbD 4) (st.vec.vcfg.getLsbD 5) tb (scaleAt s sa o.b.toNat tb e) x
    let m := if mode = 5 ∧ cvtDraws s o = false then 0 else mode
    (toTag td m draw (st.vec.vcfg.getLsbD 4) (st.vec.vcfg.getLsbD 6 && td == opf) v.1).out v.2
/-- vcvt (09 R176). -/
def execVcvt (o : CvtOps) (s : State) : Host.Outcome State Fault Refusal := finish do
  needVs s
  let s := settle s (coreOf s.cur)
  cvtGate s o
  elementwise s o.d.toNat (tagWidth (s.me.tag o.d.toNat)) o.km [(o.b.toNat, tagWidth (s.me.tag o.b.toNat))] (cvtDraws s o) true (cvtElem s o)
    (scaleUse (scaleReg s.me false false) o.b.toNat (tagWidth (s.me.tag o.b.toNat)))

/-- The tag of the exponents of vscale. -/
def scaleTag (s : State) (o : V3) : Nat := if o.s then 6 else s.me.tag o.c.toNat
/-- The source groups of vscale. -/
def scaleSrcs (s : State) (o : V3) : List (Nat × Nat) := (o.b.toNat, tagWidth (s.me.tag o.b.toNat)) :: (rc3 o).grp (scaleTag s o)
/-- The checks of vscale after VSTATE_OFF (09 R163, R177). -/
def scaleGate (s : State) (o : V3) : Res Unit := do
  let st := s.me
  let tb := st.tag o.b.toNat
  let td := st.tag o.d.toNat
  let tc := scaleTag s o
  legal s (tagFloat tb && tagFloat td && tagInt tc && decide (st.rm < 6)
    && groupOk s o.b.toNat (tagWidth tb) st.nvl && groupOk s o.d.toNat (tagWidth td) st.nvl && (o.s || groupOk s o.c.toNat (tagWidth tc) st.nvl))
  operands s (groupOps o.b.toNat (tagWidth tb) st.nvl o.fb ++ (rc3 o).ops st tc ++ maskOps o.km)
  destOverlap s true (o.d.toNat, tagWidth td) st.nvl ((scaleSrcs s o).map (fun g => (g.1, g.2, st.nvl)))
/-- Element e of vscale: a × 2^k, rounded once into vD's tag (09 R177). FTZ_OUT acts where that tag is the operation format.
(DESIGN CHOICE, unsafe: notes/assumptions/55.) -/
def scaleElem (s : State) (o : V3) (e : Nat) : EOut :=
  let st := s.me
  let tb := st.tag o.b.toNat
  let td := st.tag o.d.toNat
  let tc := scaleTag s o
  let opf := opFormat [tb, td] false
  let mode := if st.rm = 5 then 0 else st.rm
  let v := srcVal st opf tb none (elem s o.b.toNat (tagWidth tb) e)
  let k := intVal tc ((rc3 o).at s tc e)
  let x := match v.1 with | .fin n m ex t => FV.fin n m (if m = 0 then ex else ex + k) t | y => y
  (toTag td mode none (st.vec.vcfg.getLsbD 4) (st.vec.vcfg.getLsbD 6 && td == opf) x).out v.2
/-- vscale (09 R177). -/
def execVscale (o : V3) (s : State) : Host.Outcome State Fault Refusal := finish do
  needVs s
  let s := settle s (coreOf s.cur)
  scaleGate s o
  elementwise s o.d.toNat (tagWidth (s.me.tag o.d.toNat)) o.km (scaleSrcs s o) false true (fun e _ => scaleElem s o e)

/-- EMAX of 09 R178. -/
def emaxOf (t : Nat) : Int := match t with | 8 => 8 | 9 => 15 | 10 => 3 | 0 => 6 | _ => 7

/-- The scale byte of a block from the magnitudes of its active elements (09 R178): 0xFF with NV for a NaN or an infinity. -/
def blockScale (td : Nat) (vs : List FV) : Nat :=
  if vs.any (fun v => match v with | .nan _ => true | .inf _ => true | _ => false) then 255
  else
    let m := vs.foldl (fun acc v => if fvCmp false acc (v.withSign false) == .lt then v.withSign false else acc) (.fin false 0 0 false)
    match m with
    | .fin _ man ex _ =>
      if man = 0 then 0x7F
      else
        let x := topOf man ex - emaxOf td + 127
        if x < 0 then 0 else if 254 < x then 254 else x.toNat
    | _ => 255

/-- The checks of vqnt after VSTATE_OFF (09 R163, R178). -/
def qntGate (s : State) (o : V2) : Res Unit := do
  let st := s.me
  let tb := st.tag o.b.toNat
  let sr := st.cfg 16 12
  legal s (scalable (st.tag o.d.toNat) && (tb == 11 || tb == 12 || tb == 13 || tb == 14) && st.tag sr == 15 && nameOk s sr && decide (st.rm < 6)
    && st.cfg 11 10 != 3 && groupOk s o.b.toNat (tagWidth tb) st.nvl && groupOk s o.d.toNat 8 st.nvl)
  operands s (groupOps o.b.toNat (tagWidth tb) st.nvl o.fb ++ maskOps o.km)
  destOverlap s false (o.d.toNat, 8) st.nvl [(o.b.toNat, tagWidth tb, st.nvl)]
  scaleOverlap s [sr] [(o.d.toNat, group o.d.toNat 8 st.nvl), (o.b.toNat, group o.b.toNat (tagWidth tb) st.nvl)]
/-- The scale byte of block k, from the magnitudes of its active elements (09 R178). -/
def qntScale (s : State) (o : V2) (k : Nat) : Nat :=
  let st := s.me
  let tb := st.tag o.b.toNat
  let td := st.tag o.d.toNat
  blockScale td (((allElems st).filter (fun e => e / st.blk = k && activeAt s o.km e)).map (fun e =>
    (srcVal st (opFormat [tb, td] false) tb none (elem s o.b.toNat (tagWidth tb) e)).1))
/-- The conversion takes a draw per element. -/
def qntDraws (s : State) (o : V2) : Bool := s.me.rm == 5 && narrows (s.me.tag o.b.toNat) (s.me.tag o.d.toNat)
/-- Element e of vqnt: the source over its block's scale, rounded into vD's tag; NaN in a block whose scale is 0xFF, which raises NV at its
first active element (09 R178).
(DEDUCED, unsafe: notes/assumptions/21.) -/
def qntElem (s : State) (o : V2) (e : Nat) (draw : Option Nat) : EOut :=
  let st := s.me
  let tb := st.tag o.b.toNat
  let td := st.tag o.d.toNat
  let k := e / st.blk
  let x := elem s o.b.toNat (tagWidth tb) e
  let v := srcVal st (opFormat [tb, td] false) tb none x
  let sc := qntScale s o k
  let first := ((allElems st).filter (fun e => e / st.blk = k && activeAt s o.km e)).head?
  let nv := if sc = 255 ∧ first = some e then fNV else 0
  let y := if sc = 255 then FV.nan v.1.isSig
    else match v.1 with | .fin n m ex t => .fin n m (if m = 0 then ex else ex + 127 - (sc : Int)) t | z => z
  let m := if st.rm = 5 ∧ qntDraws s o = false then 0 else st.rm
  (toTag td m draw (st.vec.vcfg.getLsbD 4) false y).out (v.2 ||| nv ||| (if rawSig tb x then fNV else 0))
/-- The index of the scale byte of block k of vqnt. -/
def qntIndex (s : State) (o : V2) (k : Nat) : Nat := scaleIndex o.d.toNat 8 s.me.blk (k * s.me.blk)
/-- The scale register with the scale byte of each block of the elements written. -/
def qntScales (s : State) (o : V2) (es : List Nat) : BitVec 16384 :=
  let blk := s.me.blk
  ((es.map (fun e => e / blk)).eraseDups).foldl (fun v k =>
    setElemBits v 8 (qntIndex s o k) (qntScale s o k)) (vreg s (s.me.cfg 16 12)).val
/-- The chunks of the scale register that vqnt writes whole (23 R373). -/
def qntClean (s : State) (o : V2) (es : List Nat) : BitVec 32 :=
  let ix := ((es.map (fun e => e / s.me.blk)).eraseDups).map (qntIndex s o)
  (List.range 32).foldl (fun (m : BitVec 32) c => if ix.countP (fun i => i / 64 = c) = 64 then m ||| (1#32 <<< c) else m) 0
/-- What vqnt writes: the scale register and the elements of vD. -/
def qntDest (s : State) (o : V2) (bits : List (Nat × Nat)) : List (Nat × BitVec 16384 × BitVec 32) :=
  let sr := s.me.cfg 16 12
  if bits.isEmpty then [] else (sr, qntScales s o (bits.map (·.1)), (vreg s sr).poison &&& ~~~qntClean s o (bits.map (·.1))) :: writeGroup s o.d.toNat 8 s.me.nvl bits
/-- VSTART rounded down to a block: vqnt restarts a block from its first element, and stops between blocks only (09 R160, R178). -/
def qntStart (s : State) : State :=
  s.updMe (fun st => { st with vec := { st.vec with vstart := BitVec.ofNat 64 (st.nvs / st.blk * st.blk) }, cut := st.cut.map (· / st.blk * st.blk) })
/-- vqnt: quantises block by block and writes one scale byte a block (09 R178). -/
def execVqnt (o : V2) (s : State) : Host.Outcome State Fault Refusal := finish do
  needVs s
  let s := settle s (coreOf s.cur)
  qntGate s o
  let s := qntStart s
  let st := s.me
  let tb := st.tag o.b.toNat
  if !writable s (st.cfg 16 12 :: group o.d.toNat 8 st.nvl) then wait s
  else
    let run := fun (es : List Nat) => runElems es (qntDraws s o) st.vec.lfsr.toNat (activeAt s o.km)
      (fun e => (if o.km = 0 then none else maskPoison s o.km.toNat e).or (srcPoison s [(o.b.toNat, tagWidth tb)] e)) (qntElem s o)
    let r := run (elemRange st)
    let r := match r.stop with
      | some (e, tv) =>
        let start := e / st.blk * st.blk
        { run ((elemRange st).filter (fun z => z < start)) with stop := some (start, tv) }
      | none => r
    vecEnd s (qntDest s o) (fun _ => []) r true (group o.b.toNat (tagWidth tb) st.nvl)

/-! ## Lookup and unpack (09 R179, R180) -/

/-- The checks of vlut after VSTATE_OFF (09 R163, R179). -/
def lutGate (s : State) (o : VV) : Res Unit := do
  let st := s.me
  let tb := st.tag o.b.toNat
  let tc := st.tag o.c.toNat
  legal s (tagInt tb && tc == st.tag o.d.toNat && tc != 15 && groupOk s o.c.toNat (tagWidth tc) 1
    && groupOk s o.b.toNat (tagWidth tb) st.nvl && groupOk s o.d.toNat (tagWidth tc) st.nvl)
  operands s (groupOps o.b.toNat (tagWidth tb) st.nvl o.fb ++ [.v o.c.toNat o.fc] ++ maskOps o.km)
  destOverlap s false (o.d.toNat, tagWidth tc) st.nvl [(o.b.toNat, tagWidth tb, st.nvl), (o.c.toNat, tagWidth tc, 1)]
/-- The element of vC that element e of vlut names. -/
def lutIndex (s : State) (o : VV) (e : Nat) : Nat :=
  elem s o.b.toNat (tagWidth (s.me.tag o.b.toNat)) e % (16384 / tagWidth (s.me.tag o.c.toNat))
/-- The poison that element e of vlut meets: mask, index, entry. -/
def lutPoison (s : State) (o : VV) (e : Nat) : Option Word :=
  (if o.km = 0 then none else maskPoison s o.km.toNat e).or
    ((srcPoison s [(o.b.toNat, tagWidth (s.me.tag o.b.toNat))] e).or (srcPoison s [(o.c.toNat, tagWidth (s.me.tag o.c.toNat))] (lutIndex s o e)))
/-- vlut: each element is looked up in the single register vC (09 R179). -/
def execVlut (o : VV) (s : State) : Host.Outcome State Fault Refusal := finish do
  needVs s
  let s := settle s (coreOf s.cur)
  lutGate s o
  let st := s.me
  let wc := tagWidth (st.tag o.c.toNat)
  if !writable s (group o.d.toNat wc st.nvl) then wait s
  else
    let r := runElems (elemRange st) false st.vec.lfsr.toNat (activeAt s o.km) (lutPoison s o)
      (fun e _ => ⟨elem s o.c.toNat wc (lutIndex s o e), 0, false⟩)
    vecEnd s (fun b => if (elemRange st).isEmpty then [] else writeGroup s o.d.toNat wc st.nvl b) (fun _ => []) r false
      ((o.c.toNat :: group o.b.toNat (tagWidth (st.tag o.b.toNat)) st.nvl).eraseDups)

/-- Field widths of vunpk. -/
def unpkBits (k : BitVec 3) : Nat := match k.toNat with | 0 => 1 | 1 => 2 | 2 => 3 | 3 => 4 | _ => 6

/-- The checks of vunpk after VSTATE_OFF (09 R163, R180). -/
def unpkGate (s : State) (o : UnpkOps) : Res Unit := do
  let st := s.me
  let w := tagWidth (st.tag o.d.toNat)
  let k := unpkBits o.k
  legal s (tagInt (st.tag o.d.toNat) && groupOk s o.b.toNat k st.nvl && groupOk s o.d.toNat w st.nvl)
  operands s (groupOps o.b.toNat k st.nvl o.fb ++ maskOps o.km)
  destOverlap s false (o.d.toNat, w) st.nvl [(o.b.toNat, k, st.nvl)]
/-- The field of k bits at bits k·e of the stream of the group at b, as a number. -/
def unpkField (s : State) (b k e : Nat) : Nat :=
  (List.range k).foldl (fun acc i =>
    let p := k * e + i
    if (vreg s (b + p / 16384)).val.getLsbD (p % 16384) then acc + 2 ^ i else acc) 0
/-- The poison that element e of vunpk meets: mask, then the chunks of its field. -/
def unpkPoison (s : State) (o : UnpkOps) (e : Nat) : Option Word :=
  (if o.km = 0 then none else maskPoison s o.km.toNat e).or ((List.range (unpkBits o.k)).findSome? (fun i =>
    let p := unpkBits o.k * e + i
    let j := o.b.toNat + p / 16384
    if (vreg s j).poison.getLsbD (p % 16384 / 512) then some (poisonTval 1 j (vreg s j).poison.toNat) else none))
/-- Element e of vunpk, extended with its sign or with zeros. -/
def unpkElem (s : State) (o : UnpkOps) (e : Nat) : EOut :=
  let k := unpkBits o.k
  let x := unpkField s o.b.toNat k e
  ⟨ofIntAt (tagWidth (s.me.tag o.d.toNat)) (if o.sx then toSigned k x else (x : Int)), 0, false⟩
/-- vunpk: element e is the field at bits k·e of the stream of vB's group (09 R180). -/
def execVunpk (o : UnpkOps) (s : State) : Host.Outcome State Fault Refusal := finish do
  needVs s
  let s := settle s (coreOf s.cur)
  let st := s.me
  let w := tagWidth (st.tag o.d.toNat)
  unpkGate s o
  if !writable s (group o.d.toNat w st.nvl) then wait s
  else
    let r := runElems (elemRange st) false st.vec.lfsr.toNat (activeAt s o.km) (unpkPoison s o) (fun e _ => unpkElem s o e)
    vecEnd s (fun b => if (elemRange st).isEmpty then [] else writeGroup s o.d.toNat w st.nvl b) (fun _ => []) r false
      (group o.b.toNat (unpkBits o.k) st.nvl)

/-! ## Select, move, broadcast and extract (09 R181) -/

/-- The checks of vsel after VSTATE_OFF (09 R163, R181). -/
def selGate (s : State) (o : VV) : Res Unit := do
  let st := s.me
  let t := st.tag o.d.toNat
  let w := tagWidth t
  legal s (st.tag o.b.toNat == t && st.tag o.c.toNat == t
    && groupOk s o.b.toNat w st.nvl && groupOk s o.c.toNat w st.nvl && groupOk s o.d.toNat w st.nvl)
  operands s (groupOps o.b.toNat w st.nvl o.fb ++ groupOps o.c.toNat w st.nvl o.fc ++ [.k o.km.toNat false])
  destOverlap s true (o.d.toNat, w) st.nvl [(o.b.toNat, w, st.nvl), (o.c.toNat, w, st.nvl)]
/-- The source register of element e of vsel. -/
def selSource (s : State) (o : VV) (e : Nat) : Nat := if (kreg s o.km.toNat).val.getLsbD e then o.b.toNat else o.c.toNat
/-- vsel: kM selects between vB and vC (09 R181). -/
def execVsel (o : VV) (s : State) : Host.Outcome State Fault Refusal := finish do
  needVs s
  let s := settle s (coreOf s.cur)
  let st := s.me
  let w := tagWidth (st.tag o.d.toNat)
  selGate s o
  if !writable s (group o.d.toNat w st.nvl) then wait s
  else
    let r := runElems (elemRange st) false st.vec.lfsr.toNat (fun _ => true)
      (fun e => (maskPoison s o.km.toNat e).or (srcPoison s [(selSource s o e, w)] e)) (fun e _ => ⟨elem s (selSource s o e) w e, 0, false⟩)
    vecEnd s (fun b => if (elemRange st).isEmpty then [] else writeGroup s o.d.toNat w st.nvl b) (fun _ => []) r false
      ((group o.b.toNat w st.nvl ++ group o.c.toNat w st.nvl).eraseDups)

/-- The checks of vmov after VSTATE_OFF (09 R163, R181). -/
def movGate (s : State) (o : V2) : Res Unit := do
  let st := s.me
  let w := tagWidth (st.tag o.d.toNat)
  legal s (tagWidth (st.tag o.b.toNat) == w && groupOk s o.b.toNat w st.nvl && groupOk s o.d.toNat w st.nvl)
  operands s (groupOps o.b.toNat w st.nvl o.fb ++ maskOps o.km)
  destOverlap s true (o.d.toNat, w) st.nvl [(o.b.toNat, w, st.nvl)]
/-- vmov: each active element, bit for bit; equal widths (09 R181). -/
def execVmov (o : V2) (s : State) : Host.Outcome State Fault Refusal := finish do
  needVs s
  let s := settle s (coreOf s.cur)
  let st := s.me
  let w := tagWidth (st.tag o.d.toNat)
  movGate s o
  elementwise s o.d.toNat w o.km [(o.b.toNat, w)] false false (fun e _ => ⟨elem s o.b.toNat w e, 0, false⟩)

/-- The checks of vbcast after VSTATE_OFF (09 R181). -/
def bcastGate (s : State) (o : V2) : Res Unit := do
  legal s (s.me.tag o.d.toNat != 15 && groupOk s o.d.toNat (tagWidth (s.me.tag o.d.toNat)) s.me.nvl)
  operands s (.s o.b o.fb :: maskOps o.km)
/-- vbcast: each active element := the low bits of sB (09 R181). -/
def execVbcast (o : V2) (s : State) : Host.Outcome State Fault Refusal := finish do
  needVs s
  let s := settle s (coreOf s.cur)
  let st := s.me
  let t := st.tag o.d.toNat
  bcastGate s o
  elementwise s o.d.toNat (tagWidth t) o.km [] false false (fun _ _ => ⟨(sv s o.b).toNat % 2 ^ tagWidth t, 0, false⟩)

/-- The checks of vextr after VSTATE_OFF (09 R181). -/
def extrGate (s : State) (o : BinOps) : Res Unit := do
  let w := tagWidth (s.me.tag o.b.toNat)
  legal s (s.me.tag o.b.toNat != 15 && groupOk s o.b.toNat w s.me.nvl)
  operands s (groupOps o.b.toNat w s.me.nvl o.fb ++ [.s o.c o.fc])
/-- vextr: sD := element u(sC) of vB, or 0 past VL; VSTART := 0 (09 R181). -/
def execVextr (o : BinOps) (s : State) : Host.Outcome State Fault Refusal := finish do
  needVs s
  let s := settle s (coreOf s.cur)
  let st := s.me
  let t := st.tag o.b.toNat
  let w := tagWidth t
  extrGate s o
  let i := (sv s o.c).toNat
  let v : Word := if st.nvl ≤ i then 0 else wrapAt 64 (intVal t (elem s o.b.toNat w i))
  match (if st.nvl ≤ i then none else srcPoison s [(o.b.toNat, w)] i) with
  | some tv => raise s 0x10 2 tv
  | none =>
    writeBackS (consume (scalarLeave s o.d v) (consumed s (group o.b.toNat w st.nvl))) o.d v

end Sys2Proof.Machine
end

