-- ==== Sys2Proof/Machine/VectorMem.lean ====
section
/-! DEFINITION. Majors 0x50 to 0x53: stream registers, vector loads and stores of memory and scratchpad (10 R182 to R199), and the
arrival of load data and of remote scratchpad accesses (03 R47, 06 R115). -/
namespace Sys2Proof.Machine

/-! ## QCFG (10 R195) -/

/-- qcfg: word W of qD. -/
def execQcfg (o : QcfgOps) (s : State) : Host.Outcome State Fault Refusal := finish do
  operands s [.s o.b o.fb]
  advance (s.updMe (fun st => st.qwrite o.q.toNat o.w.toNat (sv s o.b)))
/-- qrd. -/
def execQrd (d : Reg) (q w : BitVec 3) (s : State) : Host.Outcome State Fault Refusal :=
  finish (writeBackS s d (s.me.qread q.toNat w.toNat))
/-- qrst. -/
def execQrst (q : BitVec 3) (s : State) : Host.Outcome State Fault Refusal :=
  finish (advance (s.updMe (fun st => (st.dropWalk q.toNat).qwrite q.toNat 6 0)))

/-! ## The elements of a vector access (10 R192, R193) -/

/-- What the elements of an access have done: the state, the loaded elements with poison, the element that stopped it, the physical addresses that were
read at their home by element, and the writes still to be made. -/
structure VMem where
  s : State
  outs : List (Nat × Nat × Bool)
  stop : Option (Nat × TrapInfo)
  homes : List (Nat × Nat)
  writes : List VWrite

/-- The elements from VSTART on that are active and not past the end of a stream, up to where the instruction stops between two of them. -/
def memElems (s : State) (km : BitVec 3) (past : Nat → Bool) : List Nat := (elemRange s.me).filter (fun e => activeAt s km e && !past e)
/-- The poison of an element's sources: mask, index or data groups (23 R375). -/
def memPoison (s : State) (km : BitVec 3) (srcs : List (Nat × Nat)) (e : Nat) : Option TrapInfo :=
  ((if km = 0 then none else maskPoison s km.toNat e).or (srcPoison s srcs e)).map (fun tv => { code := 0x10, qual := 2, tval := tv })
/-- The checks of one element's memory access. -/
def elemAccess (s : State) (a : Word) (n : Nat) (q : Ask) : Except TrapInfo Acc × State :=
  if a.toNat % n ≠ 0 then (.error { code := 0x06, tval := a }, s)
  else match checkAccess s s.cur a q with
    | (.error c, s) => (.error { code := c.code, qual := c.qual, tval := a }, s)
    | (.ok x, s) => (.ok x, s)

/-- The translations of a vector access, made together before its elements: the state, and the elements whose address has none with its cause
(10 R191). The walks themselves set no A, D or ONCE: the elements that are accessed do (10 R190).
(DESIGN CHOICE, unsafe: notes/assumptions/58.) -/
def translateAll (s : State) (es : List Nat) (addr : Nat → Word) : State × List (Nat × Cause) :=
  es.foldl (fun (acc : State × List (Nat × Cause)) e =>
    match translate acc.1 acc.1.cur (addr e) with
    | (.ok _, s) => (s, acc.2)
    | (.error c, s) => (s, acc.2 ++ [(e, c)])) (s, [])
/-- One element's checks: the poison of its sources, its alignment, its translation as made, the rest. -/
def elemGo (s : State) (e : Nat) (a : Word) (n : Nat) (q : Ask) (bad : Nat → Option TrapInfo) (none_ : List (Nat × Cause)) :
    Except TrapInfo Acc × State :=
  match bad e with
  | some t => (.error t, s)
  | none => match (if a.toNat % n = 0 then none_.find? (fun x => x.1 == e) else none) with
    | some x => (.error { code := x.2.code, qual := x.2.qual, tval := a }, s)
    | none => elemAccess s a n q

/-- Loads elements of n bytes, ascending, up to the first that fails. -/
def loadElems (s : State) (es : List Nat) (addr : Nat → Word) (n : Nat) (unit : Bool) (bad : Nat → Option TrapInfo) : VMem :=
  let tr := translateAll s es addr
  es.foldl (fun (m : VMem) e =>
    if m.stop.isSome then m
    else match elemGo m.s e (addr e) n { kind := .read, unit := unit } bad tr.2 with
      | (.error t, s) => { m with s := s, stop := some (e, t) }
      | (.ok a, s) =>
        let far := atHome s s.cur a || m.homes.any (fun h => h.2 / 256 == granOf a.pa)
        let r := readAcc s a (addr e) n
        { m with s := r.2, outs := m.outs ++ [(e, r.1.1, r.1.2)], homes := if far then m.homes ++ [(e, a.pa)] else m.homes }) ⟨tr.1, [], none, [], []⟩

/-- The elements of a store of n bytes, ascending, up to the first that fails: each takes its effect on its tag at issue, its bytes are written once the
instruction has retired (23 R371); a module that no port reaches takes none (19 R319). -/
def storeElems (s : State) (es : List Nat) (addr : Nat → Word) (n : Nat) (unit : Bool) (bad : Nat → Option TrapInfo) (data : Nat → Nat) : VMem :=
  let tr := translateAll s es addr
  es.foldl (fun (m : VMem) e =>
    if m.stop.isSome then m
    else match elemGo m.s e (addr e) n { kind := .write, unit := unit } bad tr.2 with
      | (.error t, s) => { m with s := s, stop := some (e, t) }
      | (.ok a, s) => { m with
          s := if unreachable s (moduleOf s.cur) a.pa then s else issueWrite s s.cur a (addr e) n
          writes := m.writes ++ [.mem a.pa a.leaf a.tlb (addr e) n (data e)] }) ⟨tr.1, [], none, [], []⟩

/-- A register with elements written: chunks written whole by clean elements lose their poison, chunks that receive poison take it
(23 R373, R374). -/
def loadedReg (r : VReg) (base w j : Nat) (outs : List (Nat × Nat × Bool)) : BitVec 16384 × BitVec 32 :=
  let per := 16384 / w
  let mine := outs.filter (fun o => base + o.1 / per = j)
  let v := mine.foldl (fun v o => setElemBits v w (o.1 % per) o.2.1) r.val
  let p := (List.range 32).foldl (fun (p : BitVec 32) c =>
    let here := mine.filter (fun o => chunkOf w o.1 = c)
    if here.any (fun o => o.2.2) then p ||| (1#32 <<< c) else if here.length * w = 512 then p &&& ~~~(1#32 <<< c) else p) r.poison
  (v, p)

/-- The ECC granules of memory that the elements of a load read at their homes, each with the register and the chunk that receive its bytes. -/
def srcsOf (base w : Nat) (homes : List (Nat × Nat)) : List (Nat × Nat × Nat) :=
  (homes.map (fun h => (h.2 / 64, base + h.1 / (16384 / w), chunkOf w h.1))).eraseDups
/-- The loaded elements of a vector load: the registers are empty until the data arrive (10 R194); its requests travel as one to the home of the first
element that none of the strand's copies serves; a bound register's push buffer takes its elements when the instruction retires (19 R324). -/
def issueVec (s : State) (base w n : Nat) (outs : List (Nat × Nat × Bool)) (ea : Word) (homes : List (Nat × Nat) := []) : State :=
  let pa := (homes.head?).map (·.2)
  let m := match pa with | some pa => toHome s s.cur pa | none => (0, s)
  let s := m.2
  let core := coreOf s.cur
  let js := group base w n
  let vals := js.map (fun j => let x := loadedReg (vbase s j) base w j outs; (j, x.1, x.2))
  let free := vals.filter (fun x => (s.boundAt core x.1).isNone)
  let t := s.token
  let e : VEntry := { VEntry.begun s with dest := vals, vtok := t.1, before := free.map (fun x => (x.1, vreg s x.1)) }
  let s := ((emptyV t.2 js t.1).intoWindow e).dirty (dirtyV (if outs.isEmpty then [] else js))
  if free.isEmpty then s
  else (s.updMe (fun st => { st with prods := st.prods ++
      [{ tok := t.1, sdest := none, sval := 0, smark := .clean, vdest := free, ea := ea, msg := m.1, home := pa, srcs := srcsOf base w homes }] })).post
    (.loadDataArrival s.cur 0 false)

/-- The loaded elements of a vector load that stops: the elements below are written, those from there on keep what they held; at a failed check the group is
full at trap entry (10 R192), between elements a channel of its owner stays empty (03 R56, 09 R160).
(DESIGN CHOICE, safe: notes/assumptions/58.) -/
def settleVec (s : State) (base w n : Nat) (outs : List (Nat × Nat × Bool)) (full : Bool) : State :=
  (group base w n).foldl (fun s j =>
    let x := loadedReg (vbase s j) base w j outs
    let s := s.putV s.cur j x.1 x.2 false
    if full && (s.boundAt (coreOf s.cur) j).isNone then s.updMycore (fun c => { c with v := mset j { mget VReg.zero c.v j with full := true } c.v }) else s)
    (s.dirty (dirtyV (if outs.isEmpty then [] else group base w n)))
/-- The writes of a vector store that stops: they are made before its trap is taken, or before it is executed again (09 R162, 10 R192). -/
def settleWrites (s : State) (ws : List VWrite) : State := ws.foldl (fun s w => performV s s.cur w) (noteHand s s.cur (ws.map VWrite.keys).flatten)
/-- A vector store that has completed stands in the window with its writes (09 R162, 23 R371). -/
def leaveStore (s : State) (ws : List VWrite) : State := s.intoWindow { VEntry.begun s with writes := ws }

/-- A vector access has run to its end: the stream advances, VSTART is 0. -/
def memDone (s : State) (q : Option (Nat × Bool)) : State :=
  s.updMe (fun st =>
    let st := match q with | some (n, true) => st.qadvance n (st.vec.vl) | _ => st
    { st with vec := { st.vec with vstart := 0 } })
/-- The walk-ahead of the stream register that an access has gone through, if any. -/
def memAhead (s : State) (q : Option (Nat × Bool)) : State := match q with | some (n, _) => walkAhead s n | none => s

/-- Ends a vector access: VSTART at the failing element and its trap, or VSTART 0 and the stream's advance. -/
def endMem (s : State) (stop : Option (Nat × TrapInfo)) (q : Option (Nat × Bool)) : Res State :=
  match stop with
  | some (e, t) => .error (.trap t (s.updMe (fun st => { st with vec := { st.vec with vstart := BitVec.ofNat 64 e } })))
  | none => advance (memAhead (memDone s q) q)

/-- Where the elements of an access lie: a base, a stream register, or a base with an index group. -/
inductive VPlace where
  | base (b : Word)
  | stream (q : Nat) (adv : Bool)
  | index (b : Word) (c tag sc : Nat)

/-- The address of element e of n bytes. -/
def VPlace.addr (pl : VPlace) (s : State) (n e : Nat) : Word :=
  match pl with
  | .base b => b + BitVec.ofNat 64 (e * n)
  | .stream q _ => s.me.qaddr q ((s.me.qpos q).toNat + e)
  | .index b c t sc => b + ((BitVec.ofInt 64 (intVal t (elem s c (tagWidth t) e))) <<< sc)
/-- The element lies past the end of the stream. -/
def VPlace.past (pl : VPlace) (s : State) (e : Nat) : Bool :=
  match pl with
  | .stream q _ => decide (s.me.qtot q ≤ (s.me.qpos q).toNat + e)
  | _ => false
/-- A stream access of unit stride (10 R190). -/
def VPlace.unit (pl : VPlace) (s : State) (n : Nat) : Bool :=
  match pl with
  | .stream q _ => (toSigned 64 (s.me.qw q 1).toNat).natAbs == n && decide (2 ≤ s.me.qc0 q)
  | _ => false
/-- The stream and whether it advances. -/
def VPlace.adv (pl : VPlace) : Option (Nat × Bool) := match pl with | .stream q a => some (q, a) | _ => none
/-- The index group. -/
def VPlace.idx (pl : VPlace) : List (Nat × Nat) := match pl with | .index _ c t _ => [(c, tagWidth t)] | _ => []

/-- A vector load from memory, its place given (10 R197, R198). -/
def loadMem (s : State) (d : Nat) (km : BitVec 3) (pl : VPlace) : Res State := do
  let st := s.me
  let w := tagWidth (st.tag d)
  let n := w / 8
  let js := group d w st.nvl
  match pl.idx.find? (fun g => groupsMeet js (group g.1 g.2 st.nvl)) with
  | some g => overlapTrap s d g.1 false
  | none => .ok ()
  if !writable s js || (memElems s km (pl.past s)).any (fun e => busyGran s s.cur (pl.addr s n e) false) then wait s
  else
    let m := loadElems s (memElems s km (pl.past s)) (pl.addr s n) n (pl.unit s n) (memPoison s km pl.idx)
    match m.stop, st.cutAt with
    | some _, _ => endMem (settleVec m.s d w st.nvl m.outs true) m.stop pl.adv
    | none, some e => stopAt (settleVec m.s d w st.nvl m.outs false) e
    | none, none =>
      let s' := issueVec m.s d w st.nvl m.outs (pl.addr s n 0) m.homes
      endMem (consume s' (consumed s ((pl.idx.map (fun g => group g.1 g.2 st.nvl)).flatten))) none pl.adv

/-- A vector store to memory, its place given. -/
def storeMem (s : State) (e : Nat) (km : BitVec 3) (pl : VPlace) : Res State :=
  let st := s.me
  let w := tagWidth (st.tag e)
  let n := w / 8
  if (memElems s km (pl.past s)).any (fun i => busyGran s s.cur (pl.addr s n i) true) then wait s else
  let m := storeElems s (memElems s km (pl.past s)) (pl.addr s n) n (pl.unit s n) (memPoison s km (pl.idx ++ [(e, w)])) (elem s e w)
  match m.stop, st.cutAt with
  | some _, _ => endMem (settleWrites m.s m.writes) m.stop pl.adv
  | none, some i => stopAt (settleWrites m.s m.writes) i
  | none, none => endMem (consume (leaveStore m.s m.writes) (consumed s (group e w st.nvl ++ (pl.idx.map (fun g => group g.1 g.2 st.nvl)).flatten).eraseDups)) none pl.adv

/-- The data register is no scale register, and its group is in order (10 R192). -/
def dataOk (s : State) (d : Nat) : Bool := s.me.tag d != 15 && groupOk s d (tagWidth (s.me.tag d)) s.me.nvl
/-- The operand tests of a data group that is stored. -/
def dataOps (s : State) (e : Nat) (fd : Bool) : List Opnd := groupOps e (tagWidth (s.me.tag e)) s.me.nvl fd
/-- An index group carries an integer tag. -/
def indexOk (s : State) (c : Nat) : Bool := tagInt (s.me.tag c) && groupOk s c (tagWidth (s.me.tag c)) s.me.nvl

/-- vld from a base register. -/
def execVld (o : VldOps) (s : State) : Host.Outcome State Fault Refusal := finish do
  needVs s
  let s := settle s (coreOf s.cur)
  legal s (dataOk s o.d.toNat)
  operands s (.s o.b o.fb :: maskOps o.km)
  loadMem s o.d.toNat o.km (.base (sv s o.b + dispWord o.disp))
/-- vld through a stream register. -/
def execVldStream (o : VldqOps) (s : State) : Host.Outcome State Fault Refusal := finish do
  needVs s
  let s := settle s (coreOf s.cur)
  legal s (dataOk s o.d.toNat)
  operands s (maskOps o.km)
  loadMem s o.d.toNat o.km (.stream o.q.toNat o.adv)
/-- vst to a base register. -/
def execVst (o : VstOps) (s : State) : Host.Outcome State Fault Refusal := finish do
  needVs s
  let s := settle s (coreOf s.cur)
  legal s (dataOk s o.e.toNat)
  operands s (.s o.b o.fb :: (dataOps s o.e.toNat o.fd ++ maskOps o.km))
  storeMem s o.e.toNat o.km (.base (sv s o.b + dispWord o.disp))
/-- vst through a stream register. -/
def execVstStream (o : VstqOps) (s : State) : Host.Outcome State Fault Refusal := finish do
  needVs s
  let s := settle s (coreOf s.cur)
  legal s (dataOk s o.e.toNat)
  operands s (dataOps s o.e.toNat o.fd ++ maskOps o.km)
  storeMem s o.e.toNat o.km (.stream o.q.toNat o.adv)
/-- vgath. -/
def execVgath (o : GathOps) (s : State) : Host.Outcome State Fault Refusal := finish do
  needVs s
  let s := settle s (coreOf s.cur)
  legal s (dataOk s o.d.toNat && indexOk s o.c.toNat)
  operands s (.s o.b o.fb :: (dataOps s o.c.toNat o.fc ++ maskOps o.km))
  loadMem s o.d.toNat o.km (.index (sv s o.b + dispWord o.disp) o.c.toNat (s.me.tag o.c.toNat) o.sc.toNat)
/-- vscat. -/
def execVscat (o : ScatOps) (s : State) : Host.Outcome State Fault Refusal := finish do
  needVs s
  let s := settle s (coreOf s.cur)
  legal s (dataOk s o.e.toNat && indexOk s o.c.toNat)
  operands s (.s o.b o.fb :: (dataOps s o.c.toNat o.fc ++ dataOps s o.e.toNat o.fd ++ maskOps o.km))
  storeMem s o.e.toNat o.km (.index (sv s o.b + dispWord o.disp) o.c.toNat (s.me.tag o.c.toNat) o.sc.toNat)

/-! ## Scratchpad (10 R199) -/

/-- A remote access may arrive: Dexlink has delivered it; no earlier one of its class from the same core to the same target is on its way, nor one of
its strand to that target in either class (19 R313, R332); and an MCAST has visited the targets on the die that stand before it on the snake
(19 R315). -/
def remoteDue (s : State) (r : Remote) : Bool :=
  s.arrived r.msg && !((s.remote.takeWhile (fun x => x != r)).any (fun x =>
    (coreOf x.strand == coreOf r.strand && x.core == r.core && (x.strand == r.strand || (x.mc == 0) == (r.mc == 0)))
      || (r.mc != 0 && x.mc == r.mc && x.core / 48 == r.core / 48)))
/-- No port could deliver it: nothing is done at the target, and the strand hears of it (19 R319). -/
def remoteLost (s : State) (r : Remote) : Bool := s.lost.contains r.msg
/-- A remote access has ended: its packet and its place are gone. -/
def remoteOver (s : State) (r : Remote) : State :=
  let t := { s with remote := s.remote.erase r }.delivered r.msg
  if remoteLost s r then t.report r.strand 6 r.ea else t

/-- Writes the bytes of a remote access at its target. -/
def remoteWrite (s : State) (r : Remote) : State :=
  r.write.foldl (fun s w =>
    let s := scratchWrite s r.core w.1 w.2.length (numOf w.2)
    if r.untag then setSwz s r.core (spUnits w.1 w.2.length) 0 else s) s

/-- What the elements of a scratchpad access come to: each with its core and offset, and the element that stops it. -/
structure SpElems where
  es : List (Nat × Nat × Nat)
  stop : Option (Nat × TrapInfo)

/-- The elements of a scratchpad access, ascending, up to the first that fails a check. -/
def spElems (s : State) (es : List Nat) (addr : Nat → Word) (n : Nat) (bad : Nat → Option TrapInfo) : SpElems :=
  es.foldl (fun (m : SpElems) e =>
    if m.stop.isSome then m
    else match bad e with
      | some t => { m with stop := some (e, t) }
      | none => match spCheck s s.cur (addr e) n with
        | .error c => { m with stop := some (e, { code := c.code, qual := c.qual, tval := addr e }) }
        | .ok core => { m with es := m.es ++ [(e, core, spOff (addr e))] }) ⟨[], none⟩

/-- The other cores that elements name. -/
def spCores (s : State) (es : List (Nat × Nat × Nat)) : List Nat := ((es.map (fun e => e.2.1)).eraseDups).filter (fun c => c ≠ coreOf s.cur)
/-- The elements of the own core, whose order its pending accesses from its own strands come before. -/
def spOwn (s : State) (es : List (Nat × Nat × Nat)) : List (Nat × Nat × Nat) := es.filter (fun e => e.2.1 = coreOf s.cur)
/-- An access to the own core's scratchpad has to wait for one of the core's own that travels there (03 R51, 19 R313). -/
def spOwnBusy (s : State) (es : List (Nat × Nat × Nat)) : Bool :=
  !(spOwn s es).isEmpty && s.remote.any (fun r => coreOf r.strand == coreOf s.cur && r.core == coreOf s.cur)
/-- The scratchpad words of the own core among elements of n bytes. -/
def spWords (s : State) (es : List (Nat × Nat × Nat)) (n : Nat) : List Nat := ((spOwn s es).map (fun e => handWords e.2.2 n)).flatten
/-- Reads an element of a scratchpad. -/
def spRead (s : State) (n : Nat) (e : Nat × Nat × Nat) : Nat × Nat × Bool := let r := scratchRead s e.2.1 e.2.2 n; (e.1, r.1, r.2)

/-- The registers of a scratchpad load that names other cores are empty; its local elements are written and the others' accesses travel. -/
def farLoad (s : State) (d w n : Nat) (es : List (Nat × Nat × Nat)) (ea : Word) : State :=
  let js := group d w s.me.nvl
  let near := (es.filter (fun e => e.2.1 = coreOf s.cur)).map (spRead s n)
  let t := s.token
  let e : VEntry := { VEntry.begun s with vtok := t.1, before := js.map (fun j => (j, vreg s j)) }
  let s' := js.foldl (fun s j =>
    let x := loadedReg (vreg s j) d w j near
    s.updMycore (fun c => { c with v := mset j ⟨x.1, false, x.2, t.1⟩ c.v })) ((noteHand t.2 s.cur (js.map handV)).intoWindow e)
  let s' := (spCores s es).foldl (fun s c => sendRemote s
    { strand := s.cur, core := c, write := [], untag := false, mc := 0, tok := t.1, dest := none, off := 0, len := s.me.nvl
      zext := false, ea := ea, vd := some d, w := w, elems := (es.filter (fun e => e.2.1 = c)).map (fun e => (e.1, e.2.2)), msg := 0 }) s'
  s'.dirty (dirtyV (if es.isEmpty then [] else js))

/-- The elements of a scratchpad access by the running strand, up to the first that fails. -/
def spReach (s : State) (km : BitVec 3) (pl : VPlace) (n : Nat) (data : List (Nat × Nat)) : SpElems :=
  spElems s (memElems s km (fun _ => false)) (pl.addr s n) n (memPoison s km (pl.idx ++ data))

/-- A vector scratchpad load: local elements are read now; another core's travel, and the registers fill when all have arrived. -/
def spLoad (s : State) (d : Nat) (km : BitVec 3) (pl : VPlace) : Res State := do
  let st := s.me
  let w := tagWidth (st.tag d)
  let n := w / 8
  let js := group d w st.nvl
  match pl.idx.find? (fun g => groupsMeet js (group g.1 g.2 st.nvl)) with
  | some g => overlapTrap s d g.1 false
  | none => .ok ()
  if !writable s js then wait s
  else
    let m := spReach s km pl n []
    let others := spCores s m.es
    let eaten := consumed s ((pl.idx.map (fun g => group g.1 g.2 st.nvl)).flatten)
    let now := fun (_ : Unit) =>
      let outs := m.es.map (spRead s n)
      match m.stop, st.cutAt with
      | some _, _ => endMem (settleVec s d w st.nvl outs true) m.stop none
      | none, some e => stopAt (settleVec s d w st.nvl outs false) e
      | none, none => endMem (consume (issueVec s d w st.nvl outs (pl.addr s n 0)) eaten) none none
    if spOwnBusy s m.es then wait s
    else if handed s s.cur (spWords s m.es n) then wait (handOver s s.cur)
    else if others.isEmpty then now ()
    else if m.stop.isSome ∨ st.cutAt.isSome ∨ js.any (fun j => (s.boundAt (coreOf s.cur) j).isSome) then
      if s.remote.any (fun x => coreOf x.strand == coreOf s.cur && others.contains x.core) then wait s else now ()
    else endMem (consume (farLoad s d w n m.es (pl.addr s n 0)) eaten) none none

/-- What the elements of a scratchpad store write: local ones the own scratchpad, another core's travel; the units written take tag 0. -/
def spWrites (s : State) (e w n : Nat) (es : List (Nat × Nat × Nat)) : List VWrite :=
  (spOwn s es).map (fun x => .near x.2.2 n (elem s e w x.1)) ++ (spCores s es).map (fun c => .far
    { strand := s.cur, core := c, untag := true, mc := 0, tok := 0, dest := none, off := 0, len := 0, zext := false
      ea := BitVec.ofNat 64 ((es.head?.map (fun x => x.2.2)).getD 0), vd := none, w := w, elems := [], msg := 0
      write := (es.filter (fun x => x.2.1 = c)).map (fun x => (x.2.2, bytesOf n (elem s e w x.1))) })

/-- A vector scratchpad store. -/
def spStore (s : State) (e : Nat) (km : BitVec 3) (pl : VPlace) : Res State :=
  let st := s.me
  let w := tagWidth (st.tag e)
  let n := w / 8
  let m := spReach s km pl n [(e, w)]
  if spOwnBusy s m.es then wait s else
  let ws := spWrites s e w n m.es
  match m.stop, st.cutAt with
  | some _, _ => endMem (settleWrites s ws) m.stop none
  | none, some i => stopAt (settleWrites s ws) i
  | none, none => endMem (consume (leaveStore s ws) (consumed s (group e w st.nvl ++ (pl.idx.map (fun g => group g.1 g.2 st.nvl)).flatten).eraseDups)) none none

/-- vlds. -/
def execVlds (o : VldsOps) (s : State) : Host.Outcome State Fault Refusal := finish do
  needVs s
  let s := settle s (coreOf s.cur)
  legal s (dataOk s o.d.toNat)
  operands s (.s o.b o.fb :: maskOps o.km)
  spLoad s o.d.toNat o.km (.base (sv s o.b + dispWord o.disp))
/-- vsts. -/
def execVsts (o : VstOps) (s : State) : Host.Outcome State Fault Refusal := finish do
  needVs s
  let s := settle s (coreOf s.cur)
  legal s (dataOk s o.e.toNat)
  operands s (.s o.b o.fb :: (dataOps s o.e.toNat o.fd ++ maskOps o.km))
  spStore s o.e.toNat o.km (.base (sv s o.b + dispWord o.disp))
/-- vldsx. -/
def execVldsx (o : LdsxOps) (s : State) : Host.Outcome State Fault Refusal := finish do
  needVs s
  let s := settle s (coreOf s.cur)
  legal s (dataOk s o.d.toNat && indexOk s o.c.toNat)
  operands s (.s o.b o.fb :: (dataOps s o.c.toNat o.fc ++ maskOps o.km))
  spLoad s o.d.toNat o.km (.index (sv s o.b + dispWord o.disp) o.c.toNat (s.me.tag o.c.toNat) o.sc.toNat)
/-- vstsx. -/
def execVstsx (o : ScatOps) (s : State) : Host.Outcome State Fault Refusal := finish do
  needVs s
  let s := settle s (coreOf s.cur)
  legal s (dataOk s o.e.toNat && indexOk s o.c.toNat)
  operands s (.s o.b o.fb :: (dataOps s o.c.toNat o.fc ++ dataOps s o.e.toNat o.fd ++ maskOps o.km))
  spStore s o.e.toNat o.km (.index (sv s o.b + dispWord o.disp) o.c.toNat (s.me.tag o.c.toNat) o.sc.toNat)

/-! ## Events -/

/-- A vector register of a core is filled by its producer. -/
def Core.fillV (c : Core) (n tok : Nat) (v : BitVec 16384) (p : BitVec 32) : Core :=
  if (mget VReg.zero c.v n).tok = tok then { c with v := mset n ⟨v, true, p, 0⟩ c.v } else c

/-- The data of a load when one ECC granule of its memory, or all of them (none), cannot be delivered: the units that receive its bytes are poisoned (23 R374). -/
def Prod.spoiled (d : Prod) (e : Option Nat) : Prod :=
  { d with
    smark := if d.sdest.isSome then .poison d.ea else d.smark
    vdest := d.vdest.map (fun x => (x.1, x.2.1, d.srcs.foldl (fun (p : BitVec 32) u =>
      if u.2.1 = x.1 ∧ e.all (· == u.1) = true then p ||| (1#32 <<< u.2.2) else p) x.2.2)) }
/-- The ECC granules of memory that a load reads at their homes. -/
def Prod.units (d : Prod) : List Nat := match d.sdest, d.home with | some _, some pa => [pa / 64] | _, _ => (d.srcs.map (·.1)).eraseDups
/-- An uncorrectable error in what a load of strand p reads at its home: one of its ECC granules is poisoned where it stands, in the copies that the
strand's read has made, and in what the load delivers (23 R373, R374). Which, when it reads several, is a free number. -/
def loadSpoilt (s : State) (p : Nat) (d : Prod) : Prod × State :=
  match d.units with
  | [] => (d, s)
  | u :: us =>
    let n := s.draw
    let e := (u :: us).getD (n.1 % (us.length + 1)) u
    let s := if (degradedAt n.2 (e * 64)).isNone && !deadAt n.2 (e * 64) then poisonAt n.2 (physOf n.2 (e * 64)) else n.2
    (d.spoiled (some e), { s with inbound := s.inbound.map (fun c =>
      if c.gran = copyKey s (e / 4) ∧ ownCopy (coreOf p) c = true then { c with poison := c.poison ||| (1#4 <<< (e % 4)) } else c) })
/-- The request of a load has reached the home: what is still to be read is read there, and the answer sets off (06 R110, 19 R309). -/
def loadServed (s : State) (p : Nat) (d : Prod) (pa : Nat) (bad : Bool) : State :=
  let r := lateRead (s.delivered d.msg) p d
  let x := if bad then loadSpoilt r.2 p { d with sval := r.1.1, smark := r.1.2 } else ({ d with sval := r.1.1, smark := r.1.2 }, r.2)
  let a := fromHome x.2 pa (coreOf p)
  (a.2.updStrand p (fun st => { st with prods := st.prods.map (fun y => if y = d then { x.1 with late := none, home := none, msg := a.1 } else y) })).post
    (.loadDataArrival p 0 false)
/-- A read of another core's scratchpad for the token's registers is on its way. -/
def tokenOut (s : State) (p tok : Nat) : Bool := s.remote.any (fun r => r.tok == tok) || (s.strand p).prods.any (fun d => d.tok == tok)
/-- The data of a load stand at the core: its destinations become full. -/
def loadArrived (s : State) (p : Nat) (d : Prod) : State :=
  let s := (s.delivered d.msg).updStrand p (fun st =>
    let st := { st with prods := st.prods.erase d }
    match d.sdest with
    | some n => st.fill n d.tok d.sval d.smark
    | none => st)
  s.updCore (coreOf p) (fun c =>
    let c := d.vdest.foldl (fun c e => c.fillV e.1 d.tok e.2.1 e.2.2) c
    if tokenOut s p d.tok then c else d.regs.foldl (fun c j => let r := mget VReg.zero c.v j; c.fillV j d.tok r.val r.poison) c)
/-- Load data arrives: the first load of strand p, from the k-th on, whose message has arrived is served at the home, which may find its data
uncorrectable, or its answer has come and fills its destination; data that no port could bring are poison, which is reported (06 R113, 19 R319). -/
def execLoadDataArrival (p k : Nat) (bad : Bool) (s : State) : Host.Outcome State Fault Refusal :=
  match ((s.strand p).prods.drop k).find? (fun d => s.arrived d.msg) with
  | none => .next s
  | some d =>
    if s.lost.contains d.msg then
      let s := (s.report p 6 d.ea).updStrand p (fun st => { st with prods := st.prods.map (fun y => if y = d then d.spoiled none else y) })
      let s := s.updCore (coreOf p) (fun c => { c with v := d.regs.foldl (fun m j =>
        let r := mget VReg.zero m j
        if r.tok = d.tok then mset j { r with poison := BitVec.allOnes 32 } m else m) c.v })
      .next (loadArrived s p (d.spoiled none))
    else match d.home with
      | some pa => .next (loadServed s p d pa bad)
      | none => .next (loadArrived s p d)

/-- The elements of a remote vector read at its target; all poisoned when no port could bring them. -/
def remoteOuts (s : State) (r : Remote) : List (Nat × Nat × Bool) :=
  r.elems.map (fun e => let x := spRead s (r.w / 8) (e.1, r.core, e.2); (x.1, x.2.1, x.2.2 || remoteLost s r))
/-- The words of the own core's scratchpad that an access which has travelled to it writes, or reads. -/
def Remote.keys (r : Remote) : List Nat :=
  if r.core ≠ coreOf r.strand then []
  else if r.write.isEmpty then (if r.vd.isSome then (r.elems.map (fun e => handWords e.2 (r.w / 8))).flatten else handWords r.off r.len)
  else (r.write.map (fun w => handWords w.1 w.2.length)).flatten
/-- The answer of a target core sets off: a packet of the response class (19 R309). -/
def answerRemote (s : State) (r : Remote) (d : Prod) : State :=
  let a := if remoteLost s r then (0, s) else sendAnswer s r.core (coreOf r.strand) none
  (a.2.updStrand r.strand (fun st => { st with prods := st.prods ++ [{ d with msg := a.1 }] })).post (.loadDataArrival r.strand 0 false)
/-- A remote read is performed at its target: a scalar's value travels back; a vector's elements stand in their registers, which are empty until the last
answer of the token. -/
def remoteReadAt (s t : State) (r : Remote) : State :=
  match r.vd with
  | some d =>
    let outs := remoteOuts s r
    let js := group d r.w r.len
    let t := js.foldl (fun t j =>
      let v := mget VReg.zero (t.core (coreOf r.strand)).v j
      if v.tok ≠ r.tok then t
      else
        let x := loadedReg v d r.w j outs
        t.updCore (coreOf r.strand) (fun c => { c with v := mset j { v with val := x.1, poison := x.2 } c.v })) t
    answerRemote t r { tok := r.tok, sdest := none, sval := 0, smark := .clean, vdest := [], ea := r.ea, regs := js }
  | none =>
    let v := scratchRead s r.core r.off r.len
    answerRemote t r { tok := r.tok, sdest := r.dest, sval := extendLoad r.zext r.len v.1, vdest := [], ea := r.ea
                       smark := if v.2 || remoteLost s r then .poison r.ea else .clean }

/-- The first remote scratchpad access that belongs to no MCAST, from the k-th on, that may arrive at its target is performed in the target's order
(06 R115). -/
def execRemoteScratchpadArrival (k : Nat) (s : State) : Host.Outcome State Fault Refusal :=
  match ((s.remote.filter (fun r => r.mc = 0)).drop k).find? (remoteDue s) with
  | none => .next s
  | some r =>
    if r.write.isEmpty && handed s r.strand r.keys then .next ((handOver s r.strand).post (.remoteScratchpadArrival k))
    else
      let t := remoteOver s r
      if r.write.isEmpty then .next (remoteReadAt s t r)
      else .next (if remoteLost s r then t else remoteWrite (noteHand t r.strand r.keys) r)

end Sys2Proof.Machine
end

