-- ==== Sys2Proof/Machine/Streams.lean ====
section
/-! DEFINITION. Majors 0x54, 0x55 and 0x6D: STRM, STRMC, STRMQ, COPY and MCAST, with the completion of a transfer and the arrival of
MCAST data (10 R201 to R207, 19 R328, R331, R332). An element of a transfer is performed at the transfer's completion event, as far as sched
says before it, or as far as a free number says when STRMC or STRMQ looks; data that an .out transfer sends are read at issue. -/
namespace Sys2Proof.Machine

/-! ## Ports (10 R204) -/

/-- Two ports count as one. -/
def samePort (a b : Port) : Bool :=
  match a, b with
  | .vec c v, .vec d w => c == d && v == w
  | .sp c o n, .sp d p m => c == d && decide (o < p + m) && decide (p < o + n)
  | .fab p r, .fab q t => p == q && r == t
  | _, _ => false
/-- The transfers that hold their ports before x does. -/
def ahead (s : State) (x : Xfer) : List Xfer :=
  (s.xfers.takeWhile (fun y => y != x)).filter (fun y => y.saved.isNone && samePort y.port x.port)
/-- The port of x is free for it. -/
def startable (s : State) (x : Xfer) : Bool := (ahead s x).isEmpty
/-- An .in transfer is still to fill bytes of a window: an .out transfer from it waits at issue. -/
def windowBusy (s : State) (pt : Port) : Bool := s.xfers.any (fun y => y.saved.isNone && !y.out && samePort y.port pt)
/-- STRM and COPY instructions outstanding on a core. -/
def dispatched (s : State) (core : Nat) : Nat := (s.xfers.filter (fun x => x.kind != .mcast && coreOf x.strand == core)).length
/-- A core's dispatcher can take one more. -/
def dispatchRoom (s : State) : Bool := decide (dispatched s (coreOf s.cur) < 16)

/-! ## Elements -/

/-- The port is a vector group. -/
def Xfer.isVec (x : Xfer) : Bool := match x.port with | .vec _ _ => true | _ => false

/-- Runs f with the strand of a transfer translating as the transfer's context does; the translations of its issue, with the bits set in them, come back
beside. What f translates anew stands before them, and stays with the strand when it runs that context. -/
def asContext {α : Type} (s : State) (x : Xfer) (f : State → State × α) : State × List Tlb × α :=
  let st := s.strand x.strand
  let own := x.own s
  let r := f (x.context s)
  let tlb := (r.1.strand x.strand).tlb
  let new := tlb.take (tlb.length - x.pages.length - (if own then st.tlb.length else 0))
  let rest := tlb.drop new.length
  (r.1.updStrand x.strand (fun y => { y with ptroot := st.ptroot, tlb := if own then new ++ rest.drop x.pages.length else st.tlb }),
    rest.take x.pages.length, r.2)

/-- Performs the memory side of the next element: a failing check, or poisoned data that no vector group takes, stops the transfer
(10 R202, 23 R375).
(DEDUCED, unsafe: notes/assumptions/14.) -/
def transferElem (s : State) (x : Xfer) : State × Xfer :=
  let k := x.done
  if x.stop.isSome || decide (x.count ≤ k) then (s, x)
  else if x.past k then (s, { x with done := k + 1, data := if x.out then x.data else x.data ++ [(0, false)] })
  else
    let a := x.addr k
    if a.toNat % x.esz ≠ 0 then (s, { x with stop := some (6, 0) })
    else
      let r := asContext s x (fun s =>
      match checkAccess s x.strand a { kind := if x.out then .write else .read, unit := x.unit, prv := some x.prv } with
      | (.error c, s) => (s, { x with stop := some (c.code, c.qual) })
      | (.ok acc, s) =>
        if x.out then
          let d := x.data.getD k (0, false)
          if d.2 then (s, { x with stop := some (0x10, 1) }) else (writeBytes s x.strand acc a x.esz d.1, { x with done := k + 1 })
        else
          let s := if atHome s x.strand acc then sendFlit s (moduleOf x.strand) (s.answers (paModule acc.pa)) else s
          let r := readAccAs s x.strand acc a x.esz
          if r.1.2 && !x.isVec then (r.2, { x with stop := some (0x10, 1) })
          else (r.2, { x with done := k + 1, data := x.data ++ [r.1] }))
      (r.1, { r.2.2 with pages := r.2.1 })

/-- The elements that an .in transfer has read: element, value, poison. -/
def Xfer.outs (x : Xfer) : List (Nat × Nat × Bool) :=
  (List.range x.done).filterMap (fun k => if x.past k then none else (x.data[k]?).map (fun d => (k, d.1, d.2)))

/-- The registers of a transfer's group. -/
def Xfer.group (x : Xfer) (base : Nat) : List Nat := Machine.group base (8 * x.esz) x.count

/-- Writes what an .in transfer has read since element k0 into its port; at the end the group of a vector port is full. -/
def fillPort (s : State) (x : Xfer) (k0 : Nat) (ends : Bool) : State :=
  if x.out then s
  else match x.port with
    | .vec core base =>
      (x.group base).foldl (fun s j =>
        match s.boundAt core j with
        | some (_, b) => let r := loadedReg ⟨b.buf, true, b.bad, 0⟩ base (8 * x.esz) j x.outs; s.putV (2 * core) j r.1 r.2 ends
        | none =>
          let v := mget VReg.zero (s.core core).v j
          if v.tok ≠ x.vtok then s
          else
            let r := loadedReg v base (8 * x.esz) j x.outs
            s.updCore core (fun c => { c with v := mset j ⟨r.1, ends, r.2, if ends then 0 else x.vtok⟩ c.v })) s
    | .sp core off _ =>
      let new := x.outs.filter (fun o => k0 ≤ o.1)
      let s := new.foldl (fun s o => scratchWrite s core (off + o.1 * x.esz) x.esz o.2.1) s
      let got := x.outs.length * x.esz
      let s := s.updCore core (fun c =>
        { c with spoison := if new.isEmpty then c.spoison else c.spoison.filter (fun w => ¬ (off ≤ 8 * w ∧ 8 * w + 8 ≤ off + got)) })
      if x.kind = .copy then new.foldl (fun s o => setSwz s core (spUnits (off + o.1 * x.esz) x.esz) 0) s else s
    | .fab _ _ => s

/-- The next group's worth of elements of a transfer on a fabric channel, when the channel can take or give one: the group is pushed or
popped whole; a failing element, or a poisoned one, stops the transfer before that (19 R328, 23 R375).
(DESIGN CHOICE, unsafe: notes/assumptions/15.) -/
def fabricChunk (s : State) (x : Xfer) : State × Xfer :=
  match x.port with
  | .fab p r =>
    match (s.strand p).bindings.find? (fun b => b.reg = r) with
    | none => (s, x)
    | some b =>
      let core := coreOf p
      if x.stop.isSome || decide (x.count ≤ x.done) || b.w = 0 then (s, x)
      else if x.out then
        if 2 ≤ pushesOut s p b then (s, x)
        else
          -- the memory is read: an .in transfer as far as its accesses go
          let rd := (List.range b.w).foldl (fun (t : State × Xfer) _ => transferElem t.1 t.2) (s, { x with out := false })
          let x' : Xfer := { rd.2 with out := true }
          if x'.stop.isSome then (rd.1, x')
          else
            let v := (rd.2.outs.filter (fun o => x.done ≤ o.1)).foldl (fun v o => setElemBits v (8 * x.esz) (o.1 - x.done) o.2.1) b.buf
            (rd.1.putV p r v b.bad true, x')
      else
        let v := mget VReg.zero (s.core core).v r
        if !v.full then (s, x)
        else
          let dat := (List.range b.w).map (fun e => (elemBits v.val (8 * x.esz) e, v.poison.getLsbD (chunkOf (8 * x.esz) e)))
          let wr := (List.range b.w).foldl (fun (t : State × Xfer) _ => transferElem t.1 t.2)
            (s, { x with out := true, data := (List.range x.done).map (fun _ => (0, false)) ++ dat })
          let x' : Xfer := { wr.2 with out := false, data := [] }
          if x'.stop.isSome then (wr.1, x')
          else ((wr.1.updCore core (fun c => { c with v := mset r { v with full := false } c.v })).post (.resultGroupFill p r), x')
  | _ => (s, x)

/-- Replaces a transfer. -/
def State.setXfer (s : State) (x : Xfer) : State := { s with xfers := s.xfers.map (fun y => if y.tok = x.tok then x else y) }

/-- Performs up to n more elements of a transfer whose port is free (of a fabric channel: n groups). -/
def runTransfer (s : State) (x : Xfer) (n : Nat) : State × Xfer :=
  if !startable s x then (s, x)
  else match x.port with
    | .fab _ _ => (List.range n).foldl (fun (t : State × Xfer) _ => fabricChunk t.1 t.2) (s, x)
    | _ =>
      let r := (List.range n).foldl (fun (t : State × Xfer) _ => transferElem t.1 t.2) (s, x)
      (fillPort r.1 r.2 x.done false, r.2)

/-- The status word (10 R203): COUNT in bytes for COPY and MCAST. -/
def Xfer.status (x : Xfer) : Word :=
  let c := x.stop.getD (0, 0)
  BitVec.ofNat 64 (c.1 * 2 ^ 56 + c.2 * 2 ^ 48 + (if x.kind = .strm then x.done else x.done * x.esz) % 2 ^ 32)

/-- The outstanding transfers of a strand that are not saved. -/
def mine (s : State) (p : Nat) : List Xfer := s.xfers.filter (fun x => x.strand == p && x.saved.isNone)
/-- Sets the completion of every transfer that waited for a port going again. -/
def wakeTransfers (s : State) (pt : Port) : State :=
  (s.xfers.filter (fun y => y.saved.isNone && samePort y.port pt)).foldl (fun s y =>
    let s := if y.kind = .mcast then (s.remote.filter (fun r => r.mc = y.tok)).foldl (fun s _ => s.post (.mcastTargetWrite y.strand 0)) s else s
    s.post (.transferCompletion y.strand ((mine s y.strand).idxOf y))) s

/-- Every fabric transfer of a strand is looked at again. -/
def wakeFabric (s : State) (p : Nat) : State :=
  (mine s p).foldl (fun t x => match x.port with | .fab _ _ => t.post (.transferCompletion p ((mine s p).idxOf x)) | _ => t) s

/-- The granules on their way out that strand p of a transfer has written and its performed elements lie in. -/
def xferGranules (s : State) (x : Xfer) : List Nat :=
  (ownGranules s x.strand).filter (fun g => (List.range x.done).any (fun k => !x.past k &&
    match x.translated s (x.addr k) with
    | .ok t => granOf (physIn s t ((x.addr k).toNat % 2 ^ 55) true) == g
    | .error _ => false))
/-- Every write of a transfer is performed: it has entered coherence order at its home (04 R69, R78). -/
def drainXfer (s : State) (x : Xfer) : State := (xferGranules s x).foldl (fun t g => gapEvent (drainGroup t g 1 x.strand) g) s
/-- A home lets a write of the transfer not pass (15 R262, 22 R368). -/
def xferHeld (s : State) (x : Xfer) : Bool := (xferGranules s x).any (fun g => eventHeld s (g * 256))
/-- A transfer completes: its status register becomes full, a requested PEND bit is set, its vector group is full, its port is free
(10 R202, 05 R92). What the strand has read ahead goes: a read of the status orders later loads as ACQ does (04 R78, 06 R112). -/
def completeXfer (s : State) (x : Xfer) : State :=
  let s := drainXfer (fillPort s x x.done true) x
  let s := { s with xfers := s.xfers.filter (fun y => y.tok ≠ x.tok) }
  let s := s.updStrand x.strand (fun st =>
    let st := match x.dest with | some d => st.fill d x.tok x.status .clean | none => st
    let st := if x.saved.isNone then { st with early := [] } else st
    if x.ui then { st with ui := { st.ui with pend := st.ui.pend ||| (1#32 <<< x.num) } } else st)
  wakeTransfers s x.port

/-- Every push of a transfer on a fabric channel is performed. -/
def fabricDone (s : State) (x : Xfer) : Bool :=
  match x.port with
  | .fab p r => match (s.strand p).bindings.find? (fun b => b.reg = r) with
    | some b => !x.out || pushesOut s p b == 0
    | none => true
  | _ => true

/-- A transfer that may be performed now: of the strand, its port free. -/
def movable (s : State) (x : Xfer) : Bool := x.kind != .mcast && startable s x
/-- The transfer that a completion event names: the k-th outstanding one of strand p, or, when that cannot go on, the first that can, one with a local
port first. -/
def xferNamed (s : State) (p k : Nat) : Option Xfer :=
  let xs := mine s p
  match (xs[k]?).filter (movable s) with
  | some x => some x
  | none => (xs.find? (fun x => movable s x && (match x.port with | .fab _ _ => false | _ => true))).or (xs.find? (movable s))
/-- A transfer of strand p is performed to its end and completes (10 R202), once the homes let its writes pass. -/
def execTransferCompletion (p k : Nat) (s : State) : Host.Outcome State Fault Refusal :=
  match xferNamed s p k with
  | none => .next s
  | some x =>
    let r := runTransfer s x (x.count - x.done)
    let s := r.1.setXfer r.2
    if (r.2.stop.isSome || decide (r.2.count ≤ r.2.done)) && startable s r.2 && fabricDone s r.2 then
      (if xferHeld s r.2 then .next (s.post (.transferCompletion p k)) else .next (completeXfer s r.2))
    else .next s

/-- How far n more elements take a transfer: a scratchpad window takes whole aligned 8-byte words (03 R60). -/
def Xfer.goes (x : Xfer) (n : Nat) : Nat :=
  let to_ := Nat.min x.count (x.done + n)
  match x.port with
  | .sp _ off _ => if x.out || to_ == x.count then to_ - x.done else ((off + to_ * x.esz) / 8 * 8 - off) / x.esz - x.done
  | _ => to_ - x.done
/-- The k-th transfer of strand p goes on by up to n elements, before its completion (10 R202). -/
def moveXfer (s : State) (p k n : Nat) : State :=
  match (mine s p)[k]? with
  | none => s
  | some x =>
    if movable s x then
      let r := runTransfer s x (x.goes n)
      r.1.setXfer r.2
    else s

/-! ## STRM (10 R202, 19 R328) -/

/-- The writes of a transfer to memory take their tag effects at its issue, up to the first element that fails its checks or whose data are
poisoned (R78, R202, 04 R63). -/
def issueTags (s : State) (x : Xfer) : State :=
  ((List.range x.count).foldl (fun (acc : State × Bool) k =>
    if acc.2 then acc
    else if x.past k then acc
    else if (x.addr k).toNat % x.esz ≠ 0 || (x.data.getD k (0, false)).2 then (acc.1, true)
    else match checkAccess acc.1 x.strand (x.addr k) { kind := .write, unit := x.unit } with
      | (.error _, s) => (s, true)
      | (.ok a, s) => (if unreachable s (moduleOf x.strand) a.pa then s else issueWrite s x.strand a (x.addr k) x.esz, false)) (s, false)).1
/-- The translations of a transfer's elements at its issue: made together, a failing one by its element anew (10 R191, 07 R133). -/
def issuePages (s : State) (x : Xfer) : List Tlb × State :=
  if x.kind == .mcast then ([], s)
  else (List.range x.count).foldl (fun (acc : List Tlb × State) k =>
    if x.past k then acc
    else match translate acc.2 x.strand (x.addr k) with
      | (.ok t, s) => (if acc.1.contains t then acc.1 else acc.1 ++ [t], s)
      | (.error _, s) => (acc.1, s)) ([], s)
/-- Issues a transfer of the running strand: POS moves on, sD becomes empty, and the dispatcher takes it. -/
def issueXfer (s : State) (d : Reg) (x : Xfer) : State :=
  let (tok, s) := s.token
  let k := physReg s.me.status.uiact d.toNat
  let x : Xfer := { x with tok := tok, num := d.toNat, dest := if d = 0 then none else some k, prv := s.me.status.prv, root := s.me.ptroot }
  let s := s.updMe (fun st => if d = 0 then st else st.markEmpty d.toNat tok)
  let writes := x.kind != .mcast && (x.out != (match x.port with | .fab _ _ => true | _ => false))
  let s := if writes then issueTags s x else s
  let pg := issuePages s x
  State.post { pg.2 with xfers := pg.2.xfers ++ [{ x with pages := pg.1 }] } (.transferCompletion s.cur (mine s s.cur).length)

/-- A transfer with nothing performed yet. -/
def Xfer.new (s : State) (kind : XKind) (ui : Bool) (port : Port) (q : List Word) (unit : Bool) (esz : Nat) (out : Bool) (count : Nat) : Xfer :=
  { strand := s.cur, saved := none, kind := kind, num := 0, dest := none, tok := 0, ui := ui, port := port, q := q, unit := unit, esz := esz
    out := out, count := count, done := 0, data := [], vtok := 0, stop := none, prv := false, root := 0, pages := [] }

/-- The words of stream register q. -/
def Strand.qwords (st : Strand) (q : Nat) : List Word := (List.range 8).map (st.qw q)
/-- STRM of stream q on a port. -/
def strmXfer (s : State) (o : StrmOps) (pt : Port) : Xfer :=
  let esz := 2 ^ o.esz.toNat
  Xfer.new s .strm o.ui pt (s.me.qwords o.q.toNat) ((VPlace.stream o.q.toNat false).unit s esz) esz o.out s.me.nvl
/-- POS of the stream moves by the captured count. -/
def strmAdvance (s : State) (o : StrmOps) : State := walkAhead (s.updMe (fun st => st.qadvance o.q.toNat st.vec.vl)) o.q.toNat

/-- strm with a vector port. -/
def strmVec (s : State) (o : StrmOps) : Res State := do
  needVs s
  let s := settle s (coreOf s.cur)
  let c := o.c.toNat
  let esz := 2 ^ o.esz.toNat
  let w := 8 * esz
  let n := s.me.nvl
  legal s (s.me.tag c != 15 && tagWidth (s.me.tag c) == w && groupOk s c w n)
  let js := group c w n
  if o.out then
    operands s (groupOps c w n o.fc)
    match (List.range n).findSome? (fun e => if (VPlace.stream o.q.toNat false).past s e then none else srcPoison s [(c, w)] e) with
    | some tv => raise s 0x10 2 tv
    | none => .ok ()
    if !dispatchRoom s then wait s
    else
      let x : Xfer := { strmXfer s o (.vec (coreOf s.cur) c) with data := (List.range n).map (fun e => (elem s c w e, false)) }
      advance (consume (issueXfer (strmAdvance s o) o.d x) (consumed s js))
  else if !writable s js || !dispatchRoom s then wait s
  else
    let x := strmXfer s o (.vec (coreOf s.cur) c)
    let (tok, s) := s.token
    let s := (emptyV s js tok).dirty (dirtyV (if n = 0 then [] else js))
    advance (issueXfer (strmAdvance s o) o.d { x with vtok := tok })

/-- strm with a vector port. -/
def execStrmVector (o : StrmOps) (s : State) : Host.Outcome State Fault Refusal := finish (strmVec s o)

/-- The elements of a scratchpad window. -/
def windowData (s : State) (core off esz n : Nat) : List (Nat × Bool) := (List.range n).map (fun e => scratchRead s core (off + e * esz) esz)

/-- strm with a scratchpad port. -/
def execStrmScratchpad (o : StrmOps) (s : State) : Host.Outcome State Fault Refusal := finish do
  operands s [.s o.c o.fc]
  let va := sv s o.c
  let esz := 2 ^ o.esz.toNat
  let n := s.me.nvl
  aligned s va esz
  let core ← spRange s va (n * esz)
  let pt := Port.sp core (spOff va) (n * esz)
  if !dispatchRoom s || (o.out && (windowBusy s pt || remoteBusy s core)) then wait s
  else if o.out && core == coreOf s.cur && handed s s.cur (handWords (spOff va) (n * esz)) then wait (handOver s s.cur)
  else
    let x : Xfer := { strmXfer s o pt with data := if o.out then windowData s core (spOff va) esz n else [] }
    advance (issueXfer (strmAdvance s o) o.d x)

/-- strm with a fabric channel as its port; an .out transfer writes the bound register (05 R87, 19 R328). -/
def execStrmFabric (o : StrmOps) (s : State) : Host.Outcome State Fault Refusal := finish do
  needVs s
  operands s [.s o.c o.fc]
  let v := sv s o.c
  let esz := 2 ^ o.esz.toNat
  let n := s.me.nvl
  match s.me.bindings.find? (fun b => b.reg = v.toNat) with
  | some b =>
    need (tagWidth (s.me.tag b.reg) == 8 * esz && n % b.w == 0) (raise s 0x08 8)
    if !dispatchRoom s then wait s
    else advance (issueXfer (strmAdvance (s.dirty (dirtyV (if o.out && n != 0 then [b.reg] else []))) o) o.d (strmXfer s o (.fab s.cur b.reg)))
  | none => raise s 0x08 8

/-! ## STRMC and STRMQ (10 R205) -/

/-- The outstanding transfers of the running strand whose status register is sN. -/
def onStatus (s : State) (n : Reg) : List Xfer :=
  (mine s s.cur).filter (fun x => x.num == n.toNat && (n == 0 || x.dest == some (physReg s.me.status.uiact n.toNat)))

/-- A transfer goes on by a free number of elements. -/
def freeProgress (s : State) (x : Xfer) : State × Xfer :=
  let (f, s) := s.draw
  let r := runTransfer s x (x.goes (f % (x.count - x.done + 1)))
  (r.1.setXfer r.2, r.2)

/-- An MCAST is cancelled: a free prefix of its flits is performed, unless a target has already had its data (19 R331).
(DEDUCED, unsafe: notes/assumptions/16.) -/
def cancelMcast (s : State) (x : Xfer) : State :=
  let (f, s) := s.draw
  let k := if x.done = 0 then 64 * (f % (x.count / 64 + 1)) else x.count
  let s := s.setXfer { x with count := k, stop := some (0xFF, 0) }
  { s with remote := s.remote.map (fun r => if r.mc = x.tok then { r with write := r.write.map (fun w => (w.1, w.2.take k)) } else r) }

/-- A transfer is cancelled where it stands (10 R205). -/
def cancelXfer (s : State) (x : Xfer) : State :=
  if x.kind = .mcast then cancelMcast s x
  else
    let r := freeProgress s x
    r.1.setXfer { r.2 with stop := some (0xFF, 0) }

/-- strmc. -/
def execStrmc (n : Reg) (s : State) : Host.Outcome State Fault Refusal := finish (advance ((onStatus s n).foldl cancelXfer s))

/-- strmq: elements, or bytes of a COPY, performed so far; all ones with nothing outstanding.
(DEDUCED, unsafe: notes/assumptions/32.) -/
def execStrmq (d n : Reg) (s : State) : Host.Outcome State Fault Refusal :=
  match ((onStatus s n).filter (fun x => x.kind != .mcast)).getLast? with
  | none => finish (writeBackS s d (BitVec.allOnes 64))
  | some x =>
    let r := freeProgress s x
    finish (writeBackS r.1 d (BitVec.ofNat 64 (if x.kind = .copy then 8 * r.2.done else r.2.done)))

/-! ## COPY (10 R207) -/

/-- copy.in and copy.out. -/
def copyOp (s : State) (o : CopyOps) (out : Bool) : Res State := do
  operands s [.s o.b o.fb, .s o.c o.fc, .s o.n o.fn]
  let len := (sv s o.n).toNat
  aligned s (sv s o.b) 8
  aligned s (sv s o.c) 8
  aligned s (sv s o.n) 8
  let va := sv s o.c
  let core ← spRange s va len
  let pt := Port.sp core (spOff va) len
  if !dispatchRoom s || (out && (windowBusy s pt || remoteBusy s core)) then wait s
  else if out && core == coreOf s.cur && handed s s.cur (handWords (spOff va) len) then wait (handOver s s.cur)
  else
    let n := len / 8
    let q : List Word := [sv s o.b, 8, 0, 0, BitVec.ofNat 64 (n + 2 ^ 32), 1, 0, 0]
    let x : Xfer := { Xfer.new s .copy o.ui pt q true 8 out n with data := if out then windowData s core (spOff va) 8 n else [] }
    let s := issueXfer s o.d x
    match s.xfers.getLast? with
    | some x => if n = 0 then advance (completeXfer s x) else advance s
    | none => advance s

/-- copy.in. -/
def execCopyIn (o : CopyOps) (s : State) : Host.Outcome State Fault Refusal := finish (copyOp s o false)
/-- copy.out. -/
def execCopyOut (o : CopyOps) (s : State) : Host.Outcome State Fault Refusal := finish (copyOp s o true)

/-! ## MCAST (19 R331, R332) -/

/-- The cores of the running strand's launch group that sM and BANK select. -/
def mcastIndexes (m : Word) (bank : Nat) : List Nat := ((List.range 64).filter (fun j => m.getLsbD j)).map (fun j => 64 * bank + j)
/-- The address of an offset on group core j, as SEL names it (06 R114). -/
def selAddr (j off : Nat) : Word := BitVec.ofNat 64 ((j + 1) * 2 ^ 24 + off)

/-- mcast: one write for each target, travelling with the strand's other remote accesses. -/
def execMcast (o : McastOps) (s : State) : Host.Outcome State Fault Refusal := finish do
  operands s [.s o.b o.fb, .s o.c o.fc, .s o.n o.fn, .s o.m o.fm]
  let b := sv s o.b
  let c := sv s o.c
  let len := (sv s o.n).toNat
  aligned s b 64
  aligned s c 64
  aligned s (sv s o.n) 64
  let js := mcastIndexes (sv s o.m) o.bank.toNat
  if js.isEmpty || len == 0 then
    let pt := Port.sp (coreOf s.cur) (spOff b) 0
    let s := issueXfer s o.d (Xfer.new s .mcast o.ui pt [] false 1 true 0)
    match s.xfers.getLast? with
    | some x => advance (completeXfer s x)
    | none => advance s
  else
    need (decide (b.toNat + len ≤ Config.scratchBytes)) (raise s 0x08 6 b)
    need (decide (c.toNat + len ≤ Config.scratchBytes)) (raise s 0x08 6 c)
    let cores := js.map (fun j => spCore s s.cur (selAddr j c.toNat))
    need (cores.all (fun x => x.isSome)) (raise s 0x08 6 c)
    let pt := Port.sp (coreOf s.cur) b.toNat len
    if windowBusy s pt || selfBusy s then wait s
    else if handed s s.cur (handWords b.toNat len) then wait (handOver s s.cur)
    else
      let dat := windowData s (coreOf s.cur) b.toNat 1 len
      let bs : List Byte := dat.map (fun d => BitVec.ofNat 8 d.1)
      let good := (dat.takeWhile (fun d => !d.2)).length / 8 * 8
      let bad := dat.any (fun d => d.2)
      let len' := if bad then good else len
      let x : Xfer := { Xfer.new s .mcast o.ui pt [] false 1 true len' with stop := if bad then some (0x10, 1) else none }
      let s := issueXfer s o.d x
      let tok := s.tokens
      let targets := snakeOrder (cores.filterMap id)
      advance ((targets.zip (none :: targets.map some)).foldl (fun s t => sendOver s .multicast (multiRoute (coreOf s.cur) t.2 t.1) (.mcastTargetWrite s.cur 0)
        { strand := s.cur, core := t.1, write := [(c.toNat, bs.take len')], untag := true, mc := tok, tok := 0, dest := none
          off := 0, len := 0, zext := false, ea := c, vd := none, w := 0, elems := [], msg := 0 }) s)

/-- An MCAST write of strand p, the first from the k-th on that may, arrives at its target and is performed in the target's order; with the last one
the status word is written. -/
def execMcastTargetWrite (p k : Nat) (s : State) : Host.Outcome State Fault Refusal :=
  let may := fun (r : Remote) => remoteDue s r && (match s.xfers.find? (fun x => x.tok = r.mc) with | some x => startable s x | none => true)
  match ((s.remote.filter (fun r => r.mc ≠ 0 ∧ r.strand = p)).drop k).find? may with
  | none => .next s
  | some r =>
    let t := remoteOver s r
    match s.xfers.find? (fun x => x.tok = r.mc) with
    | none => .next t
    | some x =>
      let u := if remoteLost s r then t else remoteWrite t r
      let x : Xfer := { x with done := x.count, stop := if remoteLost s r then x.stop.or (some (0x10, 6)) else x.stop }
      let u := (u.remote.filter (fun y => y.mc = 0)).foldl (fun s _ => s.post (.remoteScratchpadArrival 0)) (u.setXfer x)
      .next (if u.remote.any (fun y => y.mc == x.tok) then u else completeXfer u x)

end Sys2Proof.Machine
end

