-- ==== Sys2Proof/Machine/Save.lean ====
section
/-! DEFINITION. Live-range tables and save records: their layout, writing and reading (05 R93 to R96, R406, 12 R227, 23 R377). -/
namespace Sys2Proof.Machine

/-! ## Live-range tables (R93) -/

/-- Nothing beside the fixed part. -/
def Live.none : Live := ⟨0, 0, 0, 0, 0, false, false, []⟩
/-- Everything a forced or full save records (R96). -/
def liveFull (s : State) (p : Nat) : Live :=
  let w := (s.core (coreOf p)).vpart
  ⟨(List.range 32).foldl (fun b j => if ownsV w p j then b ||| (1#32 <<< j) else b) 0, BitVec.allOnes 8, BitVec.allOnes 8, BitVec.allOnes 2,
    BitVec.allOnes 2, true, true, [(0, Config.scratchBytes)]⟩

/-- The ranges of a table's dwords. -/
def liveRanges (d : Nat → Nat) (n : Nat) : List (Nat × Nat) := (List.range n).map (fun i => (d (i + 2) % 2 ^ 21, d (i + 2) / 2 ^ 21 % 2 ^ 21))
/-- The ranges keep their limits and do not overlap. -/
def rangesOk : List (Nat × Nat) → Bool
  | [] => true
  | r :: rs => r.1 % 64 == 0 && r.2 % 64 == 0 && decide (64 ≤ r.2) && decide (r.1 + r.2 ≤ Config.scratchBytes)
      && rs.all (fun q => decide (r.1 + r.2 ≤ q.1) || decide (q.1 + q.2 ≤ r.1)) && rangesOk rs
/-- A table as 64 bytes: what it lists, none when it breaks a rule. -/
def parseLive (v : Nat) : Option Live :=
  let d := fun (i : Nat) => v / 2 ^ (64 * i) % 2 ^ 64
  let n := d 0 / 2 ^ 53 % 8
  let rs := liveRanges d n
  if d 0 / 2 ^ 56 ≠ 0 ∨ d 0 / 2 ^ 52 % 2 ≠ 0 ∨ d 1 ≠ 0 ∨ 6 < n then none
  else if (List.range n).any (fun i => d (i + 2) / 2 ^ 42 != 0) || !rangesOk rs then none
  else
    let a := d 0 / 2 ^ 48 % 4
    let t := d 0 / 2 ^ 40 % 256
    let cb := d 0 / 2 ^ 50 % 4
    some ⟨BitVec.ofNat 32 (d 0), BitVec.ofNat 8 (d 0 / 2 ^ 32), BitVec.ofNat 8 t, BitVec.ofNat 2 a, BitVec.ofNat 2 cb, a != 0 || t != 0, cb != 0, rs⟩
/-- The live-range table i of strand p, read at its checkpoint. One at an address that is no multiple of 64 counts as a table that cannot be read.
(DESIGN CHOICE, unsafe: notes/assumptions/53.) -/
def readLive (s : State) (p : Nat) (i : BitVec 9) : Option Live × State :=
  let va := (s.strand p).cktab + 64 * i.setWidth 64
  if va.toNat % 64 ≠ 0 then (none, s)
  else match checkAccess s p va { kind := .read } with
    | (.error _, s) => (none, s)
    | (.ok a, s) => let r := readAccAs s p a va 64; (if r.1.2 then none else parseLive r.1.1, r.2)

/-! ## The fixed part (R95) -/

/-- The cells of s1 to s31 of the bank in use, then of s28 to s31 of the other bank. -/
def bankCells (uiact : Bool) : List Nat :=
  (List.range 27).map (· + 1) ++ (if uiact then [32, 33, 34, 35, 28, 29, 30, 31] else [28, 29, 30, 31, 32, 33, 34, 35])
/-- The numbers of the 20 per-strand registers below 0x100 that stand at 0x440. -/
def regs20 : List Nat := [0, 1, 2, 3, 4, 8, 9, 0xA, 0xC, 0x10, 0x11, 0x12, 0x13, 0x1C, 0x20, 0x21, 0x22, 0x28, 0x29, 0x30]
/-- Bits of a list of flags, the first lowest. -/
def flagBits (l : List Bool) : Nat := l.foldr (fun b acc => b.toNat + 2 * acc) 0

/-- An in-flight entry: token, status register, kind. -/
abbrev Flight := Nat × Nat × Nat
/-- Adds an entry in order of issue. -/
def addFlight (e : Flight) : List Flight → List Flight
  | [] => [e]
  | f :: r => if e.1 < f.1 then e :: f :: r else f :: addFlight e r
/-- The NEXTW of a module's Hamper. -/
def nextws (s : State) (p : Nat) : List NextW := (s.modl (moduleOf p)).hamper.nextw
/-- The outstanding STRM, COPY and NEXTW of strand p in order of issue. -/
def flights (s : State) (p : Nat) : List Flight :=
  ((mine s p).filterMap (fun (x : Xfer) => match x.kind with
      | XKind.strm => some (x.tok, x.num, 0) | XKind.copy => some (x.tok, x.num, 1) | XKind.mcast => none)
    ++ ((nextws s p).filter (fun (n : NextW) => n.strand == p && n.saved.isNone)).map (fun (n : NextW) => (n.tok, n.num, 2))).foldr addFlight []

/-- A field of the record: byte offset and value. -/
abbrev Field := Nat × Nat

/-- The fields of the fixed part; the mark of a register whose peel has failed (20 R353) has no place among them.
(Which transfers it lists: DEDUCED, unsafe: notes/assumptions/35; the mark: DESIGN CHOICE, unsafe: notes/assumptions/53.) -/
def fixedFields (s : State) (p : Nat) (st : Strand) (pc : Word) (cause : Byte) : List Field :=
  let c := s.core (coreOf p)
  let cells := bankCells st.status.uiact
  (cells.zipIdx.map (fun x => (8 * x.2, (st.cell x.1).val.toNat)))
  ++ [(0x118, flagBits (cells.map (fun k => (st.cell k).full))),
      (0x120, flagBits ((List.range 32).map (fun j => (mget VReg.zero c.v j).full) ++ (List.range 8).map (fun j => (mget KReg.zero c.k j).full))),
      (0x128, flagBits (cells.map (fun k => match (st.cell k).mark with | .poison _ => true | _ => false))),
      (0x130, pc.toNat), (0x138, st.loopd), (0x140, st.statusWord.toNat), (0x148, cause.toNat), (0x150, st.ptroot.toNat),
      (0x158, st.skmax.toNat), (0x160, st.sktab.toNat), (0x168, c.vpart.toNat), (0x5E0, st.vstate.toNat)]
  ++ ((List.range (Nat.min 6 st.loopd)).map (fun n =>
      let e := st.loop n
      [(0x170 + 32 * n, e.idx.toNat), (0x178 + 32 * n, e.cnt.toNat), (0x180 + 32 * n, e.beg.toNat), (0x188 + 32 * n, e.fin.toNat)])).flatten
  ++ (List.range 6).map (fun n => (0x230 + 2 * n, (st.loop n).lck.toNat))
  ++ ((List.range 8).map (fun n => (List.range 8).map (fun w => (0x240 + 64 * n + 8 * w, (st.qread n w).toNat)))).flatten
  ++ regs20.zipIdx.map (fun x => (0x440 + 8 * x.2, (sysRead s st c x.1).toNat))
  ++ (((List.range 64).filter (fun t => st.tickets.contains t)).take 8).zipIdx.map (fun x => (0x4E0 + 8 * x.2, 2 ^ 63 + x.1))
  ++ ((flights s p).take 16).zipIdx.map (fun x => (0x520 + 8 * x.2, 2 ^ 63 + x.1.2.2 * 256 + x.1.2.1))
  ++ ((st.reports.take 4).zipIdx.map (fun x => [(0x5A0 + 16 * x.2, 2 ^ 63 + x.1.qual.toNat), (0x5A8 + 16 * x.2, x.1.addr.toNat)])).flatten

/-- Fields laid out as a little-endian number. -/
def layFields (fs : List Field) : Nat := fs.foldl (fun v f => v + f.2 * 256 ^ f.1) 0

/-! ## The record -/

/-- A 64-byte unit of a record and its poison. -/
abbrev Chunk := Nat × Bool
/-- n bytes as units. -/
def chunks (n v : Nat) (bad : Nat → Bool) : List Chunk := (List.range (n / 64)).map (fun i => (v / 2 ^ (512 * i) % 2 ^ 512, bad i))
/-- The listed numbers below n. -/
def listed {w : Nat} (b : BitVec w) : List Nat := (List.range w).filter (fun j => b.getLsbD j)

/-- The matrix block (R95). -/
def matrixBlock (m : Matrix) : Nat :=
  layFields ([(0, m.mctl.toNat), (8, m.mstat.toNat), (16, m.drow.toNat)] ++ (List.range 8).map (fun t => (24 + 4 * t, (m.dsc t).toNat)))
/-- The codebook block (R95): no slot is filling. -/
def codebookBlock (m : Matrix) : Nat :=
  let full := fun (n : Nat) => (m.slot n).st == 2
  layFields ((List.range 2).map (fun n => (16 * n, if full n then (m.slot n).table.toNat else 0))
    ++ [(32, (full 0).toNat + (full 1).toNat * 4)])

/-- The rows of a tile with rows of rb bytes that 64-byte unit i of it overlaps (12 R217). -/
def rowsIn (rb i : Nat) : List Nat := (List.range ((64 * i + 63) / rb - 64 * i / rb + 1)).map (64 * i / rb + ·)
/-- The record of strand p, whose registers are st, with what it lists (R94, R95, R377). -/
def recordOf (s : State) (p : Nat) (st : Strand) (pc : Word) (cause : Byte) (l : Live) : List Chunk :=
  let c := s.core (coreOf p)
  let m := c.mx
  chunks 2048 (layFields (fixedFields s p st pc cause)) (fun _ => false)
  ++ (if l.mblock then chunks 64 (matrixBlock m) (fun _ => false) else [])
  ++ ((listed l.v).map (fun j => let v := mget VReg.zero c.v j; chunks 2048 v.val.toNat (fun i => v.poison.getLsbD i))).flatten
  ++ ((listed l.k).map (fun j => let k := mget KReg.zero c.k j; chunks 256 k.val.toNat (fun i => k.poison.getLsbD i))).flatten
  ++ ((listed l.t).map (fun j => let t := m.tile j; chunks 32768 t.data.toNat (fun i => (rowsIn (dRb (m.dsc j)) i).any (fun r => t.poison.getLsbD r)))).flatten
  ++ ((listed l.a).map (fun j => let b := m.bank j; chunks 65536 b.data.toNat (fun i => b.poison.getLsbD (64 * i / 512)))).flatten
  ++ (if l.cblock then chunks 64 (codebookBlock m) (fun _ => (listed l.cb).any (fun n => (m.slot n).st == 2 && (m.slot n).bad)) else [])
  ++ (l.ranges.map (fun r => (List.range (r.2 / 64)).map (fun i => scratchRead s (coreOf p) (r.1 + 64 * i) 64))).flatten

/-- Writes n bytes of a record, piece by piece within ECC granules; poisoned units poison their granules. -/
def putChunk (s : State) (p : Nat) (va : Word) (c : Chunk) : Except (TrapInfo) (List Nat) × State :=
  let f := Nat.min 64 (64 - va.toNat % 64)
  ([(0, f), (f, 64 - f)]).foldl (fun acc q =>
    match acc with
    | (.error e, s) => (.error e, s)
    | (.ok gs, s) =>
      if q.2 = 0 then (.ok gs, s)
      else
        let a := va + BitVec.ofNat 64 q.1
        match checkAccess s p a { kind := .write } with
        | (.error e, s) => (.error { code := e.code, qual := e.qual, tval := a, svf := true }, s)
        | (.ok acc, s) =>
          let s := writeBytes s p acc a q.2 (c.1 / 256 ^ q.1 % 256 ^ q.2)
          (.ok (gs ++ [granOf acc.pa]), if c.2 then poisonBytes s p acc.pa q.2 else s)) (.ok [], s)

/-- Writes a record at an address through the outbound path and turns it to DEVICE, or says which write failed (R94, R406). The units are written in
ascending order, so an abandoned record leaves those before the failing write written; the rule leaves its bytes unspecified.
(DESIGN CHOICE, unsafe: notes/assumptions/53.) -/
def writeRecord (s : State) (p : Nat) (va : Word) (cs : List Chunk) : Except TrapInfo Unit × State :=
  let r := cs.zipIdx.foldl (fun (acc : Except TrapInfo (List Nat) × State) c =>
    match acc with
    | (.error e, s) => (.error e, s)
    | (.ok gs, s) => match putChunk s p (va + BitVec.ofNat 64 (64 * c.2)) c.1 with
      | (.error e, s) => (.error e, s)
      | (.ok g, s) => (.ok (gs ++ g), s)) (.ok [], s)
  match r with
  | (.error e, s) => (.error e, s)
  | (.ok gs, s) => (.ok (), gs.eraseDups.foldl (fun t g => turnEvent t g 4 p va) s)

/-- Reads the units of a record. -/
def readRecord (s : State) (p : Nat) (va : Word) (n : Nat) : Except TrapInfo (List Chunk) × State :=
  (List.range n).foldl (fun (acc : Except TrapInfo (List Chunk) × State) i =>
    match acc with
    | (.error e, s) => (.error e, s)
    | (.ok cs, s) =>
      let a := va + BitVec.ofNat 64 (64 * i)
      let f := Nat.min 64 (64 - a.toNat % 64)
      let r := ([(0, f), (f, 64 - f)]).foldl (fun (acc : Except TrapInfo Chunk × State) q =>
        match acc with
        | (.error e, s) => (.error e, s)
        | (.ok c, s) =>
          if q.2 = 0 then (.ok c, s)
          else
            let b := a + BitVec.ofNat 64 q.1
            match checkAccess s p b { kind := .read } with
            | (.error e, s) => (.error { code := e.code, qual := e.qual, tval := b }, s)
            | (.ok acc, s) =>
              let x := readAccAs s p acc b q.2
              (.ok (c.1 + x.1.1 * 256 ^ q.1, c.2 || x.1.2), x.2)) (.ok (0, false), s)
      match r with
      | (.error e, s) => (.error e, s)
      | (.ok c, s) => (.ok (cs ++ [c]), s)) (.ok [], s)

/-- Units of a record of what it lists. -/
def Live.units (l : Live) : Nat :=
  32 + l.mblock.toNat + 32 * (listed l.v).length + 4 * (listed l.k).length + 512 * (listed l.t).length + 1024 * (listed l.a).length
    + l.cblock.toNat + (l.ranges.map (fun r => r.2 / 64)).foldl (· + ·) 0
/-- Units of a record before its scratchpad ranges. -/
def Live.rangeUnit (l : Live) : Nat :=
  32 + l.mblock.toNat + 32 * (listed l.v).length + 4 * (listed l.k).length + 512 * (listed l.t).length + 1024 * (listed l.a).length
    + l.cblock.toNat

/-! ## Before a save (R94, R206, R227) -/

/-- A TWLD.CB that the engine has come to waits for a table that no TCBK has filled or is filling: the slot of its next row is empty. -/
def codebookStuck (m : Matrix) : Bool :=
  match m.toRun with
  | .latchCb _ _ k cbm row _ _ :: _ => decide (row < k) && (m.slot (cbSlot cbm row)).st == 0
  | _ => false
/-- A TWLD of any form. -/
def MOp.latches : MOp → Bool | .latch _ _ _ _ | .latchCb _ _ _ _ _ _ _ | .latchSp _ _ _ _ => true | _ => false
/-- That TWLD.CB is abandoned, and every further one that the queue comes to so: WVALID becomes 0, for later instructions unless another TWLD stands behind it,
and the queue goes on; a TMMA behind it runs with the weights latched before (12 R227).
(DESIGN CHOICE, unsafe: notes/assumptions/58.) -/
def abandonStuck : Nat → State → Nat → State
  | 0, s, _ => s
  | k + 1, s, c =>
    if codebookStuck (s.core c).mx then
      abandonStuck k (runQueue 5 (s.updMx c (fun m =>
        let m := m.leave []
        { m with latch := { m.latch with valid := false }, iLatch := { m.iLatch with valid := m.iLatch.valid && m.queue.any MOp.latches } })) c) c
    else s
/-- Every TWLD.CB of a core that waits for a table which no issued TCBK supplies is abandoned. -/
def abandonCodebook (s : State) (c : Nat) : State := abandonStuck 4 s c
/-- The .in transfers of strand p that have a local port, the ones that have moved whole or stopped among them. -/
def localIn (s : State) (p : Nat) : List Xfer := (mine s p).filter (fun x => !x.out && (match x.port with | .fab _ _ => false | _ => true))
/-- Reads every element of the local side of the strand's transfers; a vector group that a transfer fills is full (R206). -/
def finishLocal (s : State) (p : Nat) : State :=
  (localIn s p).foldl (fun s x =>
    match s.xfers.find? (fun y => y.tok = x.tok) with
    | none => s
    | some x =>
      let r := runTransfer s x (x.count - x.done)
      fillPort (r.1.setXfer r.2) r.2 r.2.done true) s
/-- Nothing is outstanding that the save waits for: loads, atomics, MCAST, a busy local port, a filling slot. -/
def saveReady (s : State) (p : Nat) : Bool :=
  let st := s.strand p
  st.prods.isEmpty && st.atomics == 0
    && !s.remote.any (fun r => r.strand == p && (r.tok != 0 || r.mc != 0))
    && (mine s p).all (fun x => x.kind != .mcast)
    && (localIn s p).all (fun x => startable s x)
    && (let m := (abandonCodebook s (coreOf p)).core (coreOf p); m.mx.queue.isEmpty && (List.range 2).all (fun n => (m.mx.slot n).st != 1))
/-- The state that a save records. -/
def saveBase (s : State) (p : Nat) : State := finishLocal (abandonCodebook (settle s (coreOf p)) (coreOf p)) p

/-! ## Restoring (R94, R95, R124, R227, R286) -/

/-- Field of the units of a record: n bytes at offset o. -/
def fieldAt (cs : List Chunk) (o n : Nat) : Nat := (cs.getD (o / 64) (0, false)).1 / 256 ^ (o % 64) % 256 ^ n
/-- A dword of the record. -/
def dwordAt (cs : List Chunk) (o : Nat) : Word := BitVec.ofNat 64 (fieldAt cs o 8)
/-- n units from unit u as a number, and the poison of each. -/
def unitsAt (cs : List Chunk) (u n : Nat) : Nat × List Bool :=
  let l := (cs.drop u).take n
  (l.foldr (fun c acc => c.1 + 2 ^ 512 * acc) 0, l.map (·.2))

/-- STATUS from a word: every bit that a save records but PREQ, which only a request sets. -/
def statusOf (v : Word) : Status :=
  { prv := v.getLsbD 0, pprv := v.getLsbD 1, ie := v.getLsbD 2, pie := v.getLsbD 3, nest := v.getLsbD 4, preq := false, uiact := v.getLsbD 6
    intdb := v.getLsbD 8 }

/-- The strand's own state as a record's fixed part gives it; ea is the address of a poisoned register's access, which no record holds.
(DESIGN CHOICE, unsafe: notes/assumptions/34.) -/
def restoreStrand (st : Strand) (cs : List Chunk) (ea : Word) : Strand :=
  let d := dwordAt cs
  let status := statusOf (d 0x140)
  let cells := bankCells status.uiact
  let st : Strand := { Strand.reset with tvec := st.tvec, hsave := st.hsave, lqroot := st.lqroot, lqcode := st.lqcode }
  let st := cells.zipIdx.foldl (fun (x : Strand) c =>
    x.setCell c.1 ⟨d (8 * c.2), (d 0x118).getLsbD c.2, if (d 0x128).getLsbD c.2 then .poison ea else .clean, 0⟩) st
  let n := Nat.min 6 (d 0x138).toNat
  let st := (List.range 6).foldl (fun (x : Strand) i => x.loopField i 4 (BitVec.ofNat 64 (fieldAt cs (0x230 + 2 * i) 2))) st
  let st := (List.range n).foldl (fun (x : Strand) i =>
    (((x.loopField i 0 (d (0x170 + 32 * i))).loopField i 1 (d (0x178 + 32 * i))).loopField i 2 (d (0x180 + 32 * i))).loopField i 3
      (d (0x188 + 32 * i))) st
  let st := (List.range 8).foldl (fun (x : Strand) i => (List.range 7).foldl (fun x w => x.qwrite i w (d (0x240 + 64 * i + 8 * w))) x) st
  let st := regs20.zipIdx.foldl (fun (x : Strand) r =>
    let v := d (0x440 + 8 * r.2)
    if r.1 = 0x21 then { x with ui := { x.ui with uie := v.getLsbD 40, cur := BitVec.ofNat 5 (v.toNat / 2 ^ 32), pend := v.setWidth 32 } }
    else if r.1 = 4 then { x with vec := { x.vec with lseed := v &&& 0xFFFFFFFF } }
    else sysWrite x r.1 v) st
  let st := [(0x108, 0x150), (0x110, 0x158), (0x111, 0x160)].foldl (fun (x : Strand) r => sysWrite x r.1 (d r.2)) st
  { st with
    pc := d 0x130, loopd := n, status := status
    vstate := if 2 ≤ (d 0x5E0).toNat % 4 then 2 else BitVec.ofNat 2 (d 0x5E0).toNat
    tickets := ((List.range 8).filter (fun i => (d (0x4E0 + 8 * i)).getLsbD 63)).map (fun i => (d (0x4E0 + 8 * i)).toNat % 64)
    reports := ((List.range 4).filter (fun i => (d (0x5A0 + 16 * i)).getLsbD 63)).map (fun i => ⟨(d (0x5A0 + 16 * i)).setWidth 8, d (0x5A8 + 16 * i)⟩)
    run := .active, line := none }

/-- Poison bits of rows of n units each. -/
def rowPoison (rows n : Nat) (b : List Bool) : BitVec 128 :=
  (List.range rows).foldl (fun p i => if ((b.drop (n * i)).take n).any id then p ||| (1#128 <<< i) else p) 0
/-- Poison bits of the rows of a tile with rows of rb bytes: those that a poisoned unit overlaps. -/
def tilePoison (rb : Nat) (b : List Bool) : BitVec 128 :=
  (List.range 128).foldl (fun p r => if b.zipIdx.any (fun u => u.1 && (rowsIn rb u.2).contains r) then p ||| (1#128 <<< r) else p) 0
/-- Poison bits of units. -/
def unitPoison (w : Nat) (b : List Bool) : BitVec w := b.zipIdx.foldl (fun p x => if x.1 then p ||| (1#w <<< x.2) else p) 0

/-- The core's registers as a record gives them: listed ones from the record, codebook slots as R227 says when a
codebook block is there, WVALID 0. -/
def restoreCore (c : Core) (cs : List Chunk) (l : Live) : Core :=
  let fe := dwordAt cs 0x120
  let m := c.mx
  let u0 := 32
  let m : Matrix := if l.mblock then
      let b := (cs.getD u0 (0, false)).1
      let at_ := fun (o n : Nat) => b / 256 ^ o % 256 ^ n
      { m with
        mctl := BitVec.ofNat 2 (at_ 0 8), iMctl := BitVec.ofNat 2 (at_ 0 8), flags := BitVec.ofNat 6 (at_ 8 8) &&& 0x3E
        latch := ⟨false, at_ 8 8 / 4096 % 8, at_ 8 8 / 2 ^ 17 % 128 + 1, at_ 8 8 / 32768 % 2 == 1, at_ 8 8 / 65536 % 2 == 1⟩
        drow := BitVec.ofNat 7 (at_ 16 8), iDrow := BitVec.ofNat 7 (at_ 16 8)
        desc := (List.range 8).foldl (fun d t => mset t (BitVec.ofNat 32 (at_ (24 + 4 * t) 4) &&& ~~~descReserved) d) m.desc }
    else m
  let uV := u0 + l.mblock.toNat
  let uK := uV + 32 * (listed l.v).length
  let uT := uK + 4 * (listed l.k).length
  let uA := uT + 512 * (listed l.t).length
  let uC := uA + 1024 * (listed l.a).length
  let v := (listed l.v).zipIdx.foldl (fun (x : Map VReg) j =>
    let r := unitsAt cs (uV + 32 * j.2) 32
    mset j.1 ⟨BitVec.ofNat 16384 r.1, fe.getLsbD j.1, unitPoison 32 r.2, 0⟩ x) c.v
  let k := (listed l.k).zipIdx.foldl (fun (x : Map KReg) j =>
    let r := unitsAt cs (uK + 4 * j.2) 4
    mset j.1 ⟨BitVec.ofNat 2048 r.1, fe.getLsbD (32 + j.1), unitPoison 4 r.2, 0⟩ x) c.k
  let tiles := (listed l.t).zipIdx.foldl (fun (x : Map Tile) j =>
    let r := unitsAt cs (uT + 512 * j.2) 512
    mset j.1 ⟨BitVec.ofNat 262144 r.1, tilePoison (dRb (m.dsc j.1)) r.2⟩ x) m.tiles
  let banks := (listed l.a).zipIdx.foldl (fun (x : Map Bank) j =>
    let r := unitsAt cs (uA + 1024 * j.2) 1024
    mset j.1 ⟨BitVec.ofNat 524288 r.1, rowPoison 128 8 r.2⟩ x) m.banks
  let cb := cs.getD uC (0, false)
  let slots := if !l.cblock then m.slots else (List.range 2).foldl (fun (x : Map Slot) n =>
    if l.cb.getLsbD n && cb.1 / 256 ^ 32 / 4 ^ n % 4 == 1
    then mset n ⟨2, BitVec.ofNat 128 (cb.1 / 256 ^ (16 * n)), cb.2⟩ x else mset n .empty x) m.slots
  let m := { m with tiles := tiles, banks := banks, slots := slots, latch := { m.latch with valid := false } }
  let m := { m with iLatch := m.latch }
  let at0 := uC + l.cblock.toNat
  let sp := l.ranges.foldl (fun (x : Memory × List Nat × Nat) r =>
    let n := r.2 / 64
    let us := (cs.drop x.2.2).take n
    let mem := us.zipIdx.foldl (fun (y : Memory) u => y.writeN (r.1 + 64 * u.2) 64 u.1.1) x.1
    let bad := ((us.zipIdx).filter (fun u => u.1.2)).map (fun u => (List.range 8).map (fun i => (r.1 + 64 * u.2) / 8 + i))
    (mem, x.2.1.filter (fun w => ¬ (r.1 ≤ 8 * w ∧ 8 * w < r.1 + r.2)) ++ bad.flatten, x.2.2 + n)) (c.scratch, c.spoison, at0)
  { c with v := v, k := k, mx := m, scratch := sp.1, spoison := sp.2.1 }

end Sys2Proof.Machine
end

