-- ==== Sys2Proof/Machine/Hamper.lean ====
section
/-! DEFINITION. The Hamper's records, queues, placement and pre-emption (17 R280 to R292), and the saves and restores of contexts (05 R94 to
R96, R406, 17 R286, R290). -/
namespace Sys2Proof.Machine

/-! ## Grids and records (R281, R285) -/

/-- The Hamper of module m. -/
def State.hamper (s : State) (m : Nat) : Hamper := (s.modl m).hamper
/-- Changes the Hamper of module m. -/
def State.updHamper (s : State) (m : Nat) (f : Hamper → Hamper) : State := s.updMod m (fun x => { x with hamper := f x.hamper })
/-- Strands per core, strands per group, virtual strands of a launch. -/
def Grid.per (g : Grid) : Nat := g.spc.toNat + 1
def Grid.gs (g : Grid) : Nat := g.gcore * g.per
def Grid.nstr (g : Grid) : Nat := g.ngrp * g.gs
/-- The group of a virtual strand; a spawned one is its own group (R303). -/
def Grid.groupOf (g : Grid) (vsi : Nat) : Nat := if vsi < g.nstr then vsi / g.gs else vsi
/-- The save area of a virtual strand (R281). -/
def Grid.saveArea (g : Grid) (vsi : Nat) : Word := g.savebase + BitVec.ofNat 64 (vsi * g.savesz * 1024)
/-- A live grid of module m. -/
def gridOf (s : State) (m id : Nat) : Option Grid := (s.hamper m).grids.find? (fun g => g.id = id)
/-- Changes a live grid. -/
def State.updGrid (s : State) (m id : Nat) (f : Grid → Grid) : State :=
  s.updHamper m (fun h => { h with grids := h.grids.map (fun g => if g.id = id then f g else g) })

/-- The record stands in a queue. -/
def Rec.ready (r : Rec) : Bool := match r.place with | .device => true | .cluster _ => true | _ => false
/-- The records that the members of a group have left. -/
def groupRecs (h : Hamper) (g : Grid) (group : Nat) : List Rec :=
  h.recs.filter (fun r => r.grid = g.id ∧ r.cont.isSome ∧ g.groupOf r.vsi = group)
/-- The strand runs, or is about to start, a member of a group. -/
def memberOf (g : Grid) (group : Nat) (st : Strand) : Bool :=
  (match st.cont with | some c => c.grid == g.id && c.group == group | none => false)
    || (match st.start with | some r => r.grid == g.id && g.groupOf r.vsi == group | none => false)
/-- The strands of module m on which members of a group are resident. -/
def residents (s : State) (m : Nat) (g : Grid) (group : Nat) : List Nat :=
  (s.strands.filter (fun e => moduleOf e.1 == m && memberOf g group e.2)).map (·.1)

/-! ## Placement (R281, R287, R288) -/

/-- Nothing runs on the strand, nothing is about to start there, and it is kept for nothing. -/
def strandFree (s : State) (m p : Nat) : Bool :=
  let st := s.strand p
  let h := s.hamper m
  moduleOf p == m && st.run == .idle && st.cont.isNone && st.start.isNone && !h.withdrawn.contains p && !h.reserved.any (fun e => e.1 == p)

/-- What waits to be placed: the index of its record, priority, arrival, cluster queue, geometry, whether any strand of a core serves it (a
spawned continuation), and the records to restore by rank. -/
structure Cand where
  k : Nat
  pri : Nat
  seq : Nat
  clk : Nat
  clus : Option Nat
  glvl : Nat
  gcore : Nat
  per : Nat
  any : Bool
  ranks : List (Nat × Rec)
  deriving DecidableEq, Repr

/-- The record's queue, as a cluster. -/
def Rec.clus (r : Rec) : Option Nat := match r.place with | .cluster c => some c | _ => none

/-- The candidate that record k stands for: a group not yet dispatched, a single strand, or a group whose unfinished members have all left
their strands and are ready (R290). -/
def candOf (s : State) (m k : Nat) (r : Rec) : Option Cand :=
  match gridOf s m r.grid with
  | none => none
  | some g =>
    if !r.ready then none
    else match r.cont with
    | none =>
      if r.vsi < g.nstr then some ⟨k, r.pri, r.seq, r.clk, none, g.glvl, g.gcore, g.per, false, []⟩
      else some ⟨k, r.pri, r.seq, r.clk, r.clus, 0, 1, 1, true, []⟩
    | some c =>
      if c.gsize = 1 then some ⟨k, r.pri, r.seq, r.clk, r.clus, c.glvl, 1, 1, decide (g.nstr ≤ r.vsi), [(0, r)]⟩
      else
        let rs := groupRecs (s.hamper m) g c.group
        let whole := (List.range c.gsize).all (fun i =>
          g.finished.contains (c.group * c.gsize + i) || rs.any (fun x => x.vsi == c.group * c.gsize + i))
        if rs.head? ≠ some r || rs.any (fun x => !x.ready) || !whole || !(residents s m g c.group).isEmpty then none
        else some ⟨k, r.pri, (rs.map (·.seq)).foldl Nat.max 0, (rs.map (·.clk)).foldl Nat.max 0,
          if rs.all (fun x => x.clus.isSome) then r.clus else none, c.glvl, g.gcore, g.per, false, rs.map (fun x => (x.vsi % c.gsize, x))⟩

/-- Priority first, then cluster queues before the device queue, then arrival. -/
def Cand.before (a b : Cand) : Bool :=
  decide (b.pri < a.pri) || (a.pri == b.pri && ((a.clus.isSome && b.clus.isNone) || (a.clus.isSome == b.clus.isSome && decide (a.seq ≤ b.seq))))
/-- Inserts in that order. -/
def candInsert (c : Cand) : List Cand → List Cand
  | [] => [c]
  | d :: r => if c.before d then c :: d :: r else d :: candInsert c r
/-- The candidates of module m in order. -/
def candidates (s : State) (m : Nat) : List Cand :=
  ((s.hamper m).recs.zipIdx.filterMap (fun x => candOf s m x.2 x.1)).foldr candInsert []

/-- VPART of the strand's core gives it every listed vector register (05 R94). -/
def recFits (s : State) (p : Nat) (r : Rec) : Bool :=
  !r.res || (listed r.live.v).all (fun j => ownsV (s.core (coreOf p)).vpart p j)
/-- Strand p may take rank i of a candidate. -/
def rankOk (s : State) (c : Cand) (free : Nat → Bool) (p i : Nat) : Bool :=
  free p && (match c.ranks.find? (fun x => x.1 = i) with | some x => recFits s p x.2 | none => true)
/-- The strands of a core that take the ranks of group core i (R281). -/
def coreSlots (s : State) (c : Cand) (free : Nat → Bool) (core i : Nat) : Option (List Nat) :=
  if c.per = 2 then
    (if rankOk s c free (2 * core) (2 * i) && rankOk s c free (2 * core + 1) (2 * i + 1) then some [2 * core, 2 * core + 1] else none)
  else if rankOk s c free (2 * core) i then some [2 * core]
  else if c.any && rankOk s c free (2 * core + 1) i then some [2 * core + 1] else none
/-- Gives group core i a core of a list that serves it: the first that no other group core has, or one whose group core can move to another; with the cores
seen on the way. m maps cores to the group cores that have them. -/
def giveCore (f : Nat → Nat → Option (List Nat)) (cs : List Nat) : Nat → Nat → List (Nat × Nat) → List Nat → Option (List (Nat × Nat)) × List Nat
  | 0, _, _, seen => (none, seen)
  | k + 1, i, m, seen =>
    match cs.find? (fun c => (f c i).isSome && !seen.contains c && !m.any (fun x => x.1 == c)) with
    | some c => (some ((c, i) :: m), seen)
    | none => (m.filter (fun x => (f x.1 i).isSome)).foldl (fun acc x =>
        if acc.1.isSome || acc.2.contains x.1 then acc
        else
          let r := giveCore f cs k x.2 (m.filter (· ≠ x)) (x.1 :: acc.2)
          (r.1.map (fun m => (x.1, i) :: m), r.2)) (none, seen)
/-- n cores from a list, one for each group core, in their order: an assignment whenever there is one. -/
def pickCores (f : Nat → Nat → Option (List Nat)) (n : Nat) (cs : List Nat) : Option (List Nat) :=
  let m := (List.range n).foldl (fun (m : Option (List (Nat × Nat))) i => m.bind (fun m => (giveCore f cs (n + 1) i m []).1)) (some [])
  m.map (fun m => ((List.range n).map (fun i => match m.find? (fun x => x.2 = i) with | some x => (f x.1 i).getD [] | none => [])).flatten)
/-- The cores of unit u of level l of module m. -/
def coresOf (m l u : Nat) : List Nat :=
  if l = 1 then [u] else ((List.range 192).map (fun i => 192 * m + i)).filter (fun c => unitOf l (2 * c) = u)
/-- The units of level l of module m. -/
def unitsOf (m l : Nat) : List Nat :=
  let n := match l with | 1 => 192 | 2 => 48 | 3 => 4 | _ => 1
  (List.range n).map (fun i => m * n + i)
/-- The level within which a candidate's cores lie. -/
def Cand.level (c : Cand) : Nat := Nat.max c.glvl 1
/-- The cores of a unit that a candidate's queue serves. -/
def Cand.cores (c : Cand) (m u : Nat) : List Nat :=
  (coresOf m c.level u).filter (fun x => match c.clus with | some cl => gclusterOfCore x == cl | none => true)
/-- A layout of a candidate on free strands: by rank.
(DEDUCED, unsafe: notes/assumptions/36.) -/
def layoutFor (s : State) (m : Nat) (c : Cand) (free : Nat → Bool) : Option (List Nat) :=
  (unitsOf m c.level).findSome? (fun u => pickCores (coreSlots s c free) c.gcore (c.cores m u))
/-- A list of strands by rank is a layout of a candidate on free strands. -/
def layoutOk (s : State) (m : Nat) (c : Cand) (free : Nat → Bool) (lay : List Nat) : Bool :=
  lay.length == c.gcore * c.per && decide lay.Nodup
    && (List.range c.gcore).all (fun i =>
      let p := lay.getD (c.per * i) 0
      moduleOf p == m && unitOf c.level p == unitOf c.level (lay.getD 0 0)
        && (match c.clus with | some cl => clusterOf p == cl | none => true)
        && (if c.per = 2 then p % 2 == 0 && lay.getD (2 * i + 1) 0 == p + 1 && rankOk s c free p (2 * i) && rankOk s c free (p + 1) (2 * i + 1)
            else (c.any || p % 2 == 0) && rankOk s c free p i))

/-- The strands that the group at the head of the highest waiting priority reserves as they free: those that could belong to one of its
placements (R287). -/
def reservable (s : State) (m : Nat) (c : Cand) (p : Nat) : Bool :=
  let out := (s.hamper m).withdrawn
  let okCore := fun (x : Nat) => !out.contains (2 * x) && (c.per = 1 || !out.contains (2 * x + 1))
  let cs := (c.cores m (unitOf c.level p)).filter okCore
  decide (c.gcore ≤ cs.length) && cs.contains (coreOf p) && (c.per = 2 || c.any || p % 2 == 0)
/-- The oldest candidate of the highest waiting priority. -/
def headOf : List Cand → Option Cand
  | [] => none
  | c :: r => some ((r.filter (fun d => d.pri == c.pri)).foldl (fun a d => if d.seq < a.seq then d else a) c)
/-- Strand p is not kept for another candidate than c: the group that heads the highest waiting priority keeps what it may come to use, until it has
been dispatched (R287). -/
def notKept (s : State) (m : Nat) (cs : List Cand) (c : Cand) (p : Nat) : Bool :=
  match headOf cs with
  | none => true
  | some h => h.k == c.k || h.gcore * h.per == 1 || !reservable s m h p
/-- The strands free for candidate c, given all. -/
def availFor (s : State) (m : Nat) (cs : List Cand) (c : Cand) (p : Nat) : Bool := strandFree s m p && notKept s m cs c p
/-- What is placed next, and where (R287). -/
def choose (s : State) (m : Nat) : Option (Cand × List Nat) :=
  let cs := candidates s m
  cs.findSome? (fun c => (layoutFor s m c (availFor s m cs c)).map (fun l => (c, l)))

/-- A member whose strand stays reserved for it resumes there, while another member is resident and the group is not being freed (R290). -/
def inPlaceOk (s : State) (m : Nat) (r : Rec) : Bool :=
  match gridOf s m r.grid, r.cont with
  | some g, some c =>
    decide (1 < c.gsize) && r.ready && (s.hamper m).reserved.contains (r.last, r.grid, r.vsi) && recFits s r.last r
      && !(residents s m g c.group).isEmpty && (groupRecs (s.hamper m) g c.group).all (fun x => !x.evicted)
  | _, _ => false
/-- The first such record and its strand. -/
def inPlace (s : State) (m : Nat) : Option (Nat × Nat) :=
  (s.hamper m).recs.zipIdx.findSome? (fun x => if inPlaceOk s m x.1 then some (x.2, x.1.last) else none)

/-- A group none of whose members is resident keeps no strand (R290). -/
def freeReserved (s : State) (m : Nat) : State :=
  s.updHamper m (fun h => { h with reserved := h.reserved.filter (fun e =>
    match gridOf s m e.2.1 with | some g => !(residents s m g (g.groupOf e.2.2)).isEmpty | none => false) })
/-- A placement of module m is under way. -/
def placing (s : State) (m : Nat) : Bool := s.agenda.any (fun i => match i with | .groupPlacement n _ _ => n == m | _ => false)
/-- Sets the next placement going. -/
def kick (s : State) (m : Nat) : State :=
  let s := freeReserved s m
  if (s.hamper m).recs.isEmpty || placing s m then s
  else match inPlace s m with
    | some (k, p) => s.post (.groupPlacement m k [p])
    | none => match choose s m with
      | some (c, lay) => s.post (.groupPlacement m c.k lay)
      | none => s

/-! ## The life of a record -/

/-- A new place in the order of arrival. -/
def nextSeq (s : State) (m : Nat) : Nat × State := ((s.hamper m).seq, s.updHamper m (fun h => { h with seq := h.seq + 1 }))
/-- The queue that a record of a continuation enters (R287). -/
def queueOf (glvl p : Nat) : Place := if glvl ≤ 1 then .cluster (clusterOf p) else .device
/-- Makes ready, oldest first, up to n of the records that the test holds for (R292). -/
def wakeRecs (s : State) (m n : Nat) (f : Place → Bool) : State :=
  let rs := ((s.hamper m).recs.filter (fun r => f r.place)).take n
  let s := rs.foldl (fun s r =>
    let (q, s) := nextSeq s m
    let pl := match r.cont with | some c => queueOf c.glvl r.last | none => .device
    s.updHamper m (fun h => { h with recs := h.recs.map (fun x =>
      if x.grid = r.grid ∧ x.vsi = r.vsi then { x with place := pl, seq := q, clk := s.clk } else x) })) s
  let ys := (s.strands.filter (fun e => moduleOf e.1 == m && (match e.2.yielded with | some y => f y.place | none => false))).take (n - rs.length)
  kick (ys.foldl (fun s e => s.updStrand e.1 (fun st => { st with yielded := st.yielded.map (fun y => { y with place := .device }) })) s) m
/-- The launches that wait for room are tried again: records of LAUNCH.w and the registered launch queues (R283, R290). -/
def wakeLaunches (s : State) (m : Nat) : State :=
  let s := (s.hamper m).regs.foldl (fun s r => s.post (.launchQueueRecord m r.1)) s
  wakeRecs s m (s.hamper m).recs.length (fun pl => pl == .store)

/-- The barriers of a grid whose phase every member has reached complete (R295). -/
def postBarriers (s : State) (m id : Nat) : State :=
  match gridOf s m id with
  | none => s
  | some g => (s.hamper m).bars.foldl (fun s b =>
      if b.grid = id ∧ b.arrived ≠ [] ∧ b.members.all (fun v => b.arrived.contains v || g.finished.contains v) = true
      then s.post (.barPhaseComplete m id b.lvl b.unit) else s) s
/-- A continuation has ended: by its DONE, or because the Hamper could not run it. The last one ends its grid (R282, R299). -/
def endCont (s : State) (m id vsi : Nat) : State :=
  let s := s.updGrid m id (fun g => { g with live := g.live - 1, finished := vsi :: g.finished })
  match gridOf s m id with
  | none => s
  | some g =>
    if g.live = 0 then
      kick (wakeLaunches (s.updHamper m (fun h => { h with
        grids := h.grids.filter (fun x => x.id ≠ id), bars := h.bars.filter (fun b => b.grid ≠ id) })) m) m
    else kick (postBarriers s m id) m

/-- A request to pre-empt strand p, which runs a continuation (R288, 05 R94). -/
def preempt (s : State) (p : Nat) : State :=
  s.updStrand p (fun st =>
    if st.cont.isSome && !st.status.preq then { st with status := { st.status with preq := true }, preqClk := s.clk } else st)

/-! ## Placement events -/

/-- The continuation that rank i of a placement runs. -/
def contAt (g : Grid) (r : Rec) (i order : Nat) (strands : List Nat) : Cont :=
  if r.vsi < g.nstr then
    { grid := g.id, vsi := r.vsi, group := r.vsi / g.gs, rank := i, gsize := g.gs, gcore := i / g.per, glvl := g.glvl, pri := r.pri, join := r.join
      spc := g.spc, members := strands, order := order, arrived := [], barIn := none }
  else
    { grid := g.id, vsi := r.vsi, group := r.vsi, rank := 0, gsize := 1, gcore := 0, glvl := 0, pri := r.pri, join := r.join, spc := false
      members := strands, order := order, arrived := [], barIn := none }
/-- A record is placed on a strand, where its start is set going. -/
def startOn (s : State) (p : Nat) (r : Rec) : State :=
  (s.updStrand p (fun st => { st with start := some r })).post (if r.res then .contextRestore p else .freshDispatch p)
/-- The core of a group with SPC = 1 before its members run: VPART := VP, both codebook slots empty (R286). -/
def prepareCore (c : Core) (vp : Word) : Core :=
  let c := c.repart (vpartStore vp)
  { c with mx := { c.mx with slots := [] } }

/-- The virtual strands of a group that lie in one level-l group with rank i, the group placed on strands by rank. -/
def rankSet (g : Grid) (group l : Nat) (strands : List Nat) (i : Nat) : List Nat :=
  (strands.zipIdx.filter (fun x => unitOf l x.1 = unitOf l (strands.getD i 0))).map (fun x => group * g.gs + x.2)
/-- The barrier of level l that a virtual strand belongs to. -/
def barWith (bs : List Barrier) (grid l vsi : Nat) : Option Barrier := bs.find? (fun b => b.grid = grid ∧ b.lvl = l ∧ b.members.contains vsi = true)
/-- The phase that the barrier of level l with a set of members is in, after those it held before: the highest of theirs. -/
def setPhase (bs : List Barrier) (grid l : Nat) (ms : List Nat) : Nat :=
  (ms.map (fun v => match barWith bs grid l v with | some b => b.phase | none => 0)).foldl Nat.max 0
/-- A group has been placed again, on strands by rank: each of its barriers has the members that the placement gives it, and every arrival is kept
(R288, R295). -/
def rebar (g : Grid) (group : Nat) (strands : List Nat) (bs : List Barrier) : List Barrier :=
  let f := fun (b : Barrier) => b.grid == g.id && b.members.any (fun v => g.groupOf v == group)
  let old := bs.filter f
  let sets := (((old.map (·.lvl)).eraseDups).map (fun l => ((List.range strands.length).map (fun i => (l, rankSet g group l strands i))).eraseDups)).flatten
  bs.filter (fun b => !f b) ++ sets.map (fun x =>
    ⟨g.id, x.1, x.2.headD 0, x.2, x.2.filter (fun v => (barWith old g.id x.1 v).any (fun b => b.arrived.contains v)), setPhase old g.id x.1 x.2⟩)
/-- A member's own arrivals by level, in the phases of the barriers that it then belongs to: unfinished ones stay so. -/
def keepArrived (g : Grid) (group : Nat) (strands : List Nat) (bs : List Barrier) (c : Cont) : Cont :=
  { c with arrived := c.arrived.map (fun a =>
      let ph := setPhase bs g.id a.1 (rankSet g group a.1 strands c.rank)
      (a.1, if (barWith bs g.id a.1 c.vsi).any (fun b => decide (b.phase < a.2)) then ph + 1 else ph)) }
/-- Record k is placed on the strands by rank. -/
def place (s : State) (m k : Nat) (r : Rec) (c : Cand) (strands : List Nat) : State :=
  match gridOf s m r.grid with
  | none => s
  | some g =>
    let (q, s) := nextSeq s m
    let drop := fun (s : State) => s.updHamper m (fun h => { h with recs := h.recs.eraseIdx k })
    match r.cont with
    | some _ =>
      let bars := (s.hamper m).bars
      let group := g.groupOf r.vsi
      let s := s.updHamper m (fun h => { h with
        recs := h.recs.filter (fun x => !c.ranks.any (fun y => y.2 == x)), bars := if r.vsi < g.nstr then rebar g group strands bars else bars })
      postBarriers (c.ranks.foldl (fun s x =>
        startOn s (strands.getD x.1 0) { x.2 with cont := x.2.cont.map (fun y =>
          keepArrived g group strands bars { y with members := strands, order := q }) }) s) m g.id
    | none =>
      if g.nstr ≤ r.vsi then startOn (drop s) (strands.getD 0 0) { r with cont := some (contAt g r 0 q strands) }
      else
        let s := if g.spc then (List.range g.gcore).foldl (fun s i =>
          s.updCore (coreOf (strands.getD (2 * i) 0)) (fun x => prepareCore x g.vp)) s else s
        let s := strands.zipIdx.foldl (fun s x =>
          let r' : Rec := { r with vsi := r.vsi + x.2 }
          startOn s x.1 { r' with cont := some (contAt g r' x.2 q strands) }) s
        let s := s.updGrid m g.id (fun x => { x with undispatched := x.undispatched - 1 })
        if g.undispatched ≤ 1 then wakeLaunches (drop s) m
        else s.updHamper m (fun h => { h with recs := h.recs.set k { r with vsi := r.vsi + g.gs } })

/-- The records that a placement of record k would start: a member's alone when it resumes in place, else those of its group. -/
def startsWith (s : State) (m k : Nat) (r : Rec) : List (Nat × Rec) :=
  match candOf s m k r with
  | some c => if c.ranks.isEmpty then [(k, r)] else (s.hamper m).recs.zipIdx.filterMap (fun x => if c.ranks.any (fun y => y.2 == x.1) then some (x.2, x.1) else none)
  | none => [(k, r)]
/-- A record with a nonzero reserved field ends its continuations, with a MACHINE_CHECK report (R285). -/
def dropBad (s : State) (m k : Nat) (r : Rec) : State :=
  let n := match gridOf s m r.grid with | some g => if r.cont.isNone && decide (r.vsi < g.nstr) then g.nstr - r.vsi else 1 | none => 1
  let s := (s.updHamper m (fun h => { h with recs := h.recs.eraseIdx k })).toFirmware m 1024 0
  (List.range n).foldl (fun s i => endCont s m r.grid (r.vsi + i)) s

/-- The Hamper places record k of module m on the strands given by rank, if it is the next to be placed and they are one of its layouts;
or a member on the strand kept for it (17 R287, R290). -/
def execGroupPlacement (m k : Nat) (strands : List Nat) (s : State) : Host.Outcome State Fault Refusal :=
  match (s.hamper m).recs[k]? with
  | none => .next (kick s m)
  | some r =>
    if inPlaceOk s m r && strands == [r.last] then
      .next (kick (if r.bad then dropBad s m k r else startOn (s.updHamper m (fun h => { h with
        recs := h.recs.eraseIdx k, reserved := h.reserved.filter (fun e => e ≠ (r.last, r.grid, r.vsi)) })) r.last r) m)
    else match choose s m with
      | none => .next (kick s m)
      | some (c, _) =>
        if c.k = k ∧ layoutOk s m c (availFor s m (candidates s m) c) strands = true then
          .next (kick (match (startsWith s m k r).find? (fun x => x.2.bad) with
            | some x => dropBad s m x.1 x.2
            | none => place s m k r c strands) m)
        else .next (kick s m)

/-- A record that has waited PWAIT clk in a cluster queue moves to the device queue (17 R287). -/
def execPwaitExpiry (m k : Nat) (s : State) : Host.Outcome State Fault Refusal :=
  match (s.hamper m).recs[k]? with
  | none => .next s
  | some r =>
    if r.clus.isSome && decide (r.clk + (s.hamper m).pwait ≤ s.clk) then
      let (q, s) := nextSeq s m
      .next (kick (s.updHamper m (fun h => { h with recs := h.recs.set k { r with place := .device, seq := q } })) m)
    else .next s

/-! ## Pre-emption (R288) -/

/-- A group of lower priority that a candidate may displace: its strands, those that it leaves free, priority and order of dispatch. -/
structure Victim where
  strands : List Nat
  room : List Nat
  pri : Nat
  order : Nat
  deriving DecidableEq, Repr
/-- The groups of module m whose continuations run at a priority below pri; displaced, a group leaves its strands free, those kept for members that have yielded
among them, but for strands that are withdrawn (R287, R290). -/
def displaceable (s : State) (m pri : Nat) : List Victim :=
  ((s.strands.filterMap (fun e => match e.2.cont with
    | some x => if moduleOf e.1 = m ∧ x.pri < pri then some (x.grid, x.group, x.pri, x.order) else none
    | none => none)).eraseDups).map (fun v =>
      let on := (s.strands.filter (fun e => moduleOf e.1 == m && match e.2.cont with | some x => x.grid == v.1 && x.group == v.2.1 | none => false)).map (·.1)
      let kept := ((s.hamper m).reserved.filter (fun e => e.2.1 == v.1 && match gridOf s m v.1 with | some g => g.groupOf e.2.2 == v.2.1 | none => false)).map (·.1)
      ⟨on, (on ++ kept).filter (fun p => !(s.hamper m).withdrawn.contains p), v.2.2.1, v.2.2.2⟩)
/-- Every choice from a list. -/
def choices {α : Type} : List α → List (List α)
  | [] => [[]]
  | x :: r => choices r ++ (choices r).map (x :: ·)
/-- The strands of a choice. -/
def victimStrands (vs : List Victim) : List Nat := (vs.map (·.strands)).flatten
/-- The strands that a choice leaves free. -/
def victimRoom (vs : List Victim) : List Nat := (vs.map (·.room)).flatten
/-- What a choice costs, strand by strand, dearest first: priority, and how old its dispatch is. -/
def victimKey (vs : List Victim) : List (Nat × Nat) :=
  ((vs.map (fun v => v.strands.map (fun _ => (v.pri, v.order)))).flatten).mergeSort (fun a b => decide (b.1 < a.1) || (a.1 == b.1 && decide (a.2 ≤ b.2)))
/-- One key before another: the lower priority, then the younger dispatch. -/
def keyLt : List (Nat × Nat) → List (Nat × Nat) → Bool
  | a :: as, b :: bs => decide (a.1 < b.1) || (a.1 == b.1 && (decide (b.2 < a.2) || (a.2 == b.2 && keyLt as bs)))
  | _, _ => false
/-- One choice before another: the fewest strands, then the lowest priority, then the youngest dispatch. -/
def choiceLt (a b : List Victim) : Bool :=
  let x := victimStrands a
  let y := victimStrands b
  decide (x.length < y.length) || (x.length == y.length && keyLt (victimKey a) (victimKey b))
/-- The strands to pre-empt for a candidate: the fewest that, with those already free, complete one placement of it; whole groups. -/
def victims (s : State) (m : Nat) (c : Cand) : Option (List Nat) :=
  let cs := candidates s m
  let free := availFor s m cs c
  let ok := (choices (displaceable s m c.pri)).filter (fun vs =>
    (layoutFor s m c (fun p => free p || ((victimRoom vs).contains p && notKept s m cs c p))).isSome)
  match ok with
  | [] => none
  | x :: r => some (victimStrands (r.foldl (fun a b => if choiceLt b a then b else a) x))

/-- The Hamper requests the pre-emption of the strands that free room for record k, which has waited PWAIT clk (17 R288). -/
def execPreemptionRequest (m k : Nat) (strands : List Nat) (s : State) : Host.Outcome State Fault Refusal :=
  match ((s.hamper m).recs[k]?).bind (candOf s m k) with
  | none => .next s
  | some c =>
    if c.clk + (s.hamper m).pwait ≤ s.clk ∧ (layoutFor s m c (availFor s m (candidates s m) c)).isNone = true
        ∧ victims s m c = some strands then .next (strands.foldl preempt s) else .next s

/-! ## Starting a continuation (R286) -/

/-- A strand as a fresh dispatch leaves it. -/
def freshStrand (st : Strand) (r : Rec) (root saveptr : Word) : Strand :=
  { Strand.reset with
    run := .active, pc := r.code, sregs := [(3, ⟨r.frame, true, .clean, 0⟩), (4, ⟨BitVec.ofNat 64 r.vsi, true, .clean, 0⟩)]
    status := { Status.reset with prv := false, ie := true }, vstate := 1, saveptr := saveptr, ptroot := root, tvec := st.tvec
    hsave := st.hsave, lqroot := st.lqroot, lqcode := st.lqcode, cont := r.cont }
/-- A continuation with RES = 0 starts on strand p, where it has been placed. -/
def execFreshDispatch (p : Nat) (s : State) : Host.Outcome State Fault Refusal :=
  let st := s.strand p
  match st.start with
  | none => .next s
  | some r =>
    match gridOf s (moduleOf p) r.grid with
    | none => .next s
    | some g => if r.res ∨ st.run ≠ .idle then .next s else .next (s.setStrand p (freshStrand st r g.root (g.saveArea r.vsi)))

/-- A transfer comes back to strand p: its status register is empty for it. -/
def rejoin (s : State) (p : Nat) (x : Xfer) : State :=
  let s := s.setXfer { x with saved := none, strand := p }
  let s := match x.dest with
    | some d => s.updStrand p (fun st => st.setCell d { st.cell d with full := false, tok := x.tok })
    | none => s
  s.post (.transferCompletion p ((mine s p).length - 1))

/-- A restored strand whose record names a YIELD goes on at seqnext of it, a back-edge at it being made (R304, 07 R123). -/
def passYield (s : State) (p : Nat) : State :=
  match checkTarget s p (s.strand p).pc false with
  | (.error e, s) => takeTrapOn s p e
  | (.ok l, s) =>
    match advance { (s.updStrand p (fun x => x.enter x.pc l)) with cur := p } with
    | .ok t => { t with cur := s.cur }
    | .error (.trap e t) => takeTrapOn { t with cur := s.cur } p e
    | .error (.wait t) => { t with cur := s.cur }

/-- A continuation with RES = 1 is restored on strand p from its save record, once every NEXTW of it has been delivered; a record that
cannot be read ends it, with a MACHINE_CHECK report (05 R94, 17 R286, R294). -/
def execContextRestore (p : Nat) (s : State) : Host.Outcome State Fault Refusal :=
  let st := s.strand p
  let m := moduleOf p
  match st.start with
  | none => .next s
  | some r =>
    match gridOf s m r.grid with
    | none => .next s
    | some g =>
      if !r.res || st.run != .idle || (s.hamper m).nextw.any (fun n => n.saved == some (r.grid, r.vsi)) then .next s
      else
        let area := g.saveArea r.vsi
        let t := s.setStrand p { st with ptroot := g.root, tlb := [], status := { st.status with prv := false } }
        match readRecord t p area r.live.units with
        | (.error _, t) => .next (endCont ((t.updStrand p (fun x => { x with start := none })).toFirmware m 1024 0) m r.grid r.vsi)
        | (.ok cs, t) =>
          let (f, t) := t.draw
          let t := t.setStrand p { restoreStrand st cs (BitVec.ofNat 64 f) with saveptr := area, cont := r.cont, unturned := r.unturned, turned := r.turned, prot := r.prot }
          let t := t.updCore (coreOf p) (fun c => restoreCore c cs r.live)
          let t := (t.xfers.filter (fun x => x.saved == some (r.grid, r.vsi))).foldl (fun t x => rejoin t p x) t
          .next (if r.after then passYield t p else t)

/-! ## Saves (05 R94, R96, R406, 17 R288, R290) -/

/-- The strand may yield and land: it runs a continuation at U and holds no binding (R290, 19 R327). -/
def canYield (st : Strand) : Bool := st.cont.isSome && !st.status.prv && st.bindings.isEmpty

/-- The oldest waiting push of the binding of register r by strand p leaves for the fold unit: one contribution for each position below TOT
(19 R324). -/
def pushOne (s : State) (p r : Nat) : State :=
  match (s.strand p).bindings.find? (fun b => b.reg = r) with
  | none => s
  | some b =>
    match b.pend, s.colls.find? (fun c => c.key = b.coll) with
    | [], _ => s
    | _, none => s
    | x :: rest, some c =>
      let n := tagWidth c.tag
      let es := (List.range b.w).filter (fun e => b.pushed * b.w + e < c.tot)
      let s := s.setBinding p { b with pend := rest, pushed := b.pushed + 1 }
      let r := es.foldl (fun (acc : List Contrib × State) e =>
        let pos := b.pushed * b.w + e
        let t := toHome acc.2 p (c.place.getD pos (0, 0, false)).1
        (acc.1 ++ [⟨b.member, pos, elemBits x.1 n e, x.2.getLsbD (chunkOf n e), p, t.1⟩], t.2)) ([], s)
      let s := r.2
      let s := { s with colls := s.colls.map (fun y => if y.key = c.key then { y with wait := y.wait ++ r.1 } else y) }
      r.1.foldl (fun s y => s.post (.foldContribution c.key y.pos)) (wakeFabric s p)
/-- Every push of strand p has left its push buffers. -/
def pushAll (s : State) (p : Nat) : State :=
  (s.strand p).bindings.foldl (fun s b => b.pend.foldl (fun s _ => pushOne s p b.reg) s) s

/-- A binding ends: vR is full with its contents unchanged, its groups are discarded, and a transfer on its channel stops (19 R327, R329;
the code of such a transfer is the model's). -/
def endBinding (s : State) (p : Nat) (b : Binding) : State :=
  let core := coreOf p
  let s := s.updCore core (fun c => { c with v := mset b.reg { mget VReg.zero c.v b.reg with full := true, tok := 0 } c.v })
  let s := s.updStrand p (fun st => { st with bindings := st.bindings.filter (fun x => x.reg ≠ b.reg) })
  let xs := s.xfers.filter (fun x => x.port = .fab p b.reg ∧ x.saved = none)
  let s := xs.foldl (fun s x => s.setXfer { x with stop := if x.stop = none ∧ x.done < x.count then some (0xFF, 0) else x.stop }) s
  wakeFabric s p

/-- The transfers and NEXTW of strand p go with the context, which leaves the strand idle; its record is appended (R94, R285).
(DESIGN CHOICE, unsafe: notes/assumptions/28.) -/
def leaveStrand (s : State) (p : Nat) (c : Cont) (live : Live) (pl : Place) (evicted after : Bool) : State :=
  let m := moduleOf p
  let s := drainOwn s p
  let st := s.strand p
  let who := some (c.grid, c.vsi)
  let keep := fun (d : Option Nat) (tok : Nat) => match d with | some k => if (st.cell k).tok = tok then some k else none | none => none
  let n := (mine s p).length
  let s := { s with xfers := s.xfers.map (fun x => if x.strand = p ∧ x.saved = none then { x with saved := who, dest := keep x.dest x.tok } else x) }
  let (q, s) := nextSeq s m
  let r : Rec := { code := st.pc, frame := 0, join := c.join, vsi := c.vsi, grid := c.grid, res := true, glvl := c.glvl, pri := c.pri, bad := false
                   place := if pl = .device then queueOf c.glvl p else pl, seq := q, clk := s.clk, evicted := evicted, live := live, cont := some c
                   unturned := st.unturned, turned := st.turned, prot := st.prot, last := p, after := after }
  let s := s.updHamper m (fun h => { h with
    nextw := h.nextw.map (fun x => if x.strand = p ∧ x.saved = none then { x with saved := who, dest := keep x.dest x.tok } else x)
    recs := h.recs ++ [r]
    reserved := if 1 < c.gsize then h.reserved ++ [(p, c.grid, c.vsi)] else h.reserved })
  let s := s.updStrand p (fun st => { st with
    run := .idle, cont := none, start := none, landed := none, yielded := none, saveDue := none, line := none, prods := [], tickets := []
    reports := [], replay := none, unturned := [], turned := [], prot := [], status := { st.status with preq := false }, early := [], late := false, tested := none
    asked := none, sealing := none, walked := [], cut := none })
  kick ((List.range n).foldl (fun s _ => s.post (.savedStatusDelivery 0)) s) m

/-- The other members of a group that is being freed are asked too (R288). -/
def askGroup (s : State) (p : Nat) (c : Cont) : State :=
  (s.strands.filter (fun e => e.1 ≠ p ∧ (match e.2.cont with | some x => x.grid == c.grid && x.group == c.group | none => false) = true)).foldl
    (fun s e => preempt s e.1) s

/-- The bindings of strand p end. -/
def endBindings (s : State) (p : Nat) : State := (s.strand p).bindings.foldl (fun s b => endBinding s p b) s
/-- A save of strand p that is ready: the record is written at SAVEPTR, with what the registers hold once the strand's bindings have ended, then they end and the
strand is freed; or it is abandoned, the bindings stay, and the strand traps with EPC at the record's PC (R406). The record's STATUS has PREQ 0.
after: the context goes on behind the instruction at that PC.
(DESIGN CHOICE, unsafe: notes/assumptions/53.) -/
def saveStrand (s : State) (p : Nat) (c : Cont) (live : Live) (cause : Byte) (pl : Place) (evict after : Bool) : State :=
  let m := moduleOf p
  let s := saveBase s p
  let st := s.strand p
  let ev := (evict || st.status.preq) && decide (1 < c.gsize)
  let cs := recordOf (endBindings s p) p { st with status := { st.status with preq := false } } st.pc cause live
  match writeRecord s p st.saveptr cs with
  | (.error e, s) =>
    let s := s.updStrand p (fun st => { st with landed := none, yielded := none, saveDue := none, preqClk := s.clk })
    let s := s.updHamper m (fun h => { h with recs := h.recs.map (fun r =>
      match r.cont with | some x => if x.grid = c.grid ∧ x.group = c.group then { r with evicted := false } else r | none => r) })
    kick (takeTrapOn s p { e with epc := some st.pc }) m
  | (.ok (), s) =>
    let s := endBindings s p
    leaveStrand (if ev then askGroup s p c else s) p c live pl ev after

/-- The strand waits for what its save waits for. -/
def saveWait (s : State) (p : Nat) : State := s.updStrand p (fun st => { st with run := .waiting })

/-- A pending request has landed at a checkpoint of strand p: the listed save, or a full one when the table is at fault (05 R93, R94). -/
def execListedSave (p : Nat) (s : State) : Host.Outcome State Fault Refusal :=
  let st := s.strand p
  match st.landed, st.cont with
  | some i, some c =>
    if !canYield st || !st.status.preq then .next (s.updStrand p (fun st => { st with landed := none }))
    else if !saveReady s p then .next (saveWait s p)
    else
      let (l, s) := readLive s p i
      .next (saveStrand s p c (l.getD (liveFull s p)) 0 .device true false)
  | _, _ => .next (s.updStrand p (fun st => { st with landed := none }))

/-- The checkpoint watchdog of strand p expires: a forced save falls due (05 R96). -/
def execCheckpointWatchdogExpiry (p : Nat) (s : State) : Host.Outcome State Fault Refusal :=
  let st := s.strand p
  if st.status.preq && st.landed.isNone && st.saveDue.isNone && decide (st.preqClk + Config.watchdog ≤ s.clk)
  then .next (s.updStrand p (fun st => { st with saveDue := some 0x16 })) else .next s

/-- A forced save of strand p, or the full save of a member at a BAR: everything is recorded, at an interruptible point at U. Bindings end with it: their
pushes go to the fold unit, where a contribution that waits for another member's stays (05 R96, 17 R288, 19 R325, R327). -/
def execForcedSave (p : Nat) (s : State) : Host.Outcome State Fault Refusal :=
  let st := s.strand p
  match st.saveDue, st.cont with
  | some cause, some c =>
    if st.status.prv then .next s
    else
      let s := pushAll s p
      if !saveReady s p then .next (saveWait s p) else .next (saveStrand s p c (liveFull s p) cause .device true false)
  | _, _ => .next (s.updStrand p (fun st => { st with saveDue := none }))

/-- A yield of strand p is carried out: a listed save, or of the fixed part alone. The record names the yielding instruction, and the context of a YIELD
goes on behind it (17 R290, R304). -/
def execYieldSave (p : Nat) (s : State) : Host.Outcome State Fault Refusal :=
  let st := s.strand p
  match st.yielded, st.cont with
  | some y, some c =>
    if !saveReady s p then .next (saveWait s p)
    else
      let (l, s) := match y.ck with
        | none => (Live.none, s)
        | some i => let r := readLive s p i; (r.1.getD (liveFull r.2 p), r.2)
      .next (saveStrand s p c l 0 y.place false y.after)
  | _, _ => .next (s.updStrand p (fun st => { st with yielded := none }))

/-- The strand yields (R290): its save is set going, and it executes nothing more. -/
def yieldNow (s : State) (ck : Option (BitVec 9)) (pl : Place) (after : Bool) : State :=
  (s.updMe (fun st => { st with yielded := some ⟨ck, pl, after⟩, run := .waiting })).post (.yieldSave s.cur)

/-! ## Statuses of saved contexts (05 R94, 17 R294) -/

/-- Writes n bytes at offset o of the record of a saved context, as the strand it left and through the root it was written with; a target that refuses the Hamper
is reported (24 R387). -/
def patchRecord (s : State) (p : Nat) (g : Grid) (vsi o n v : Nat) : State :=
  let st := s.strand p
  let t := s.setStrand p { st with ptroot := g.root, tlb := [] }
  let va := g.saveArea vsi + BitVec.ofNat 64 o
  let t := match checkAccess t p va { kind := .write, prv := some false } with
    | (.error c, t) => if c = (⟨0x08, 5⟩ : Cause) then t.toFirmware (moduleOf p) 1024 va else t
    | (.ok a, t) => turnEvent (writeBytes t p a va n v) (granOf a.pa) 4 p va
  t.updStrand p (fun x => { x with ptroot := st.ptroot, tlb := st.tlb })
/-- A dword of that record. -/
def peekRecord (s : State) (p : Nat) (g : Grid) (vsi o : Nat) : Nat :=
  let st := s.strand p
  let t := s.setStrand p { st with ptroot := g.root, tlb := [] }
  let va := g.saveArea vsi + BitVec.ofNat 64 o
  match checkAccess t p va { kind := .read, prv := some false } with
  | (.error _, _) => 0
  | (.ok a, t) => (readAccAs t p a va 8).1.1
/-- The in-flight entries of a saved context, in order of issue. -/
def savedFlights (s : State) (m : Nat) (who : Nat × Nat) : List Flight :=
  ((s.xfers.filter (fun (x : Xfer) => x.saved == some who)).filterMap (fun (x : Xfer) => match x.kind with
      | XKind.strm => some (x.tok, x.num, 0) | XKind.copy => some (x.tok, x.num, 1) | XKind.mcast => none)
    ++ ((s.hamper m).nextw.filter (fun (n : NextW) => n.saved == some who)).map (fun (n : NextW) => (n.tok, n.num, 2))).foldr addFlight []
/-- A status word reaches a saved context: its register's copy becomes full, a requested PEND bit is set, its in-flight entry is cleared and
the list closed up. The entry itself has left xfers or nextw. -/
def deliverSaved (s : State) (p : Nat) (who : Nat × Nat) (dest : Option Nat) (pend : Option Nat) (v : Word) : State :=
  match gridOf s (moduleOf p) who.1 with
  | none => s
  | some g =>
    let s := match dest with
      | none => s
      | some d =>
        let i := (bankCells ((peekRecord s p g who.2 0x140).testBit 6)).idxOf d
        let s := patchRecord s p g who.2 (8 * i) 8 v.toNat
        let s := patchRecord s p g who.2 0x118 8 (peekRecord s p g who.2 0x118 ||| 2 ^ i)
        patchRecord s p g who.2 0x128 8 (peekRecord s p g who.2 0x128 &&& (2 ^ 64 - 1 - 2 ^ i))
    let s := match pend with
      | none => s
      | some n => patchRecord s p g who.2 0x4B8 8 (peekRecord s p g who.2 0x4B8 ||| 2 ^ n)
    let fl := (savedFlights s (moduleOf p) who).take 16
    (List.range 16).foldl (fun s i =>
      patchRecord s p g who.2 (0x520 + 8 * i) 8 (match fl[i]? with | some f => 2 ^ 63 + f.2.2 * 256 + f.2.1 | none => 0)) s

/-- The k-th transfer of a saved context is performed to its end, and its status goes into the save record (05 R94). -/
def execSavedStatusDelivery (k : Nat) (s : State) : Host.Outcome State Fault Refusal :=
  match (s.xfers.filter (fun x => x.saved.isSome))[k]? with
  | none => .next s
  | some x =>
    match x.saved with
    | none => .next s
    | some who =>
      let r := (List.range (x.count - x.done)).foldl (fun (t : State × Xfer) _ => transferElem t.1 t.2) (s, x)
      let s := drainXfer r.1 r.2
      let s := { s with xfers := s.xfers.filter (fun y => y.tok ≠ x.tok) }
      .next (deliverSaved s x.strand who x.dest (if x.ui then some x.num else none) r.2.status)

end Sys2Proof.Machine
end

