-- ==== Sys2Proof/Machine/Turn.lean ====
section
/-! DEFINITION. Majors 0x30 to 0x32 and 0x7C: TURN, TURN.PUB, FENCE, SNAP and CACHE (14 R249 to R261, 04 R65, R69, R74, R75), with the publishing
of versioned pages (15 R272 to R274). -/
namespace Sys2Proof.Machine

/-! ## What a TURN or a fence waits for (04 R65, R69, R78) -/

/-- Contributions of strand p not folded yet, as the physical addresses of their positions. -/
def contribsOut (s : State) (p : Nat) : List Nat :=
  (s.colls.map (fun c => (c.wait.filter (fun x => x.strand == p)).map (fun x => (c.place.getD x.pos (0, 0, false)).1))).flatten
/-- Pushes of strand p that have not left its push buffers. -/
def bufferedPushes (s : State) (p : Nat) : Bool := (s.strand p).bindings.any (fun b => !b.pend.isEmpty)
/-- An engine's write, or a tile store, that strand p has issued to granule g is not performed (R65, R78). -/
def engineOut (s : State) (p g : Nat) : Bool :=
  (queuedStores s p).any (fun rs => rs.any (fun r => granOf r.pa == g)) || reconOut s p g true
    || (mine s p).any (fun x => x.stop.isNone && x.kind != .mcast && (x.out != (match x.port with | .fab _ _ => true | _ => false)) && touches s x g)
/-- A write of strand p to granule g that precedes now in program order is not performed. -/
def writesOut (s : State) (p g : Nat) : Bool :=
  s.homeq.any (fun r => r.strand == p && granOf r.pa == g)
    || (contribsOut s p).any (fun a => granOf a == g) || bufferedPushes s p || engineOut s p g
/-- What a TURN at level l by strand p waits for at granule g: its own writes, and what the engines still have to write for the strands of its
level-l group (03 R59, 04 R65). -/
def groupOut (s : State) (l p g : Nat) : Bool :=
  writesOut s p g || s.strands.any (fun e => unitOf l e.1 == unitOf l p && e.1 != p && engineOut s e.1 g)
/-- An access of strand p is outstanding. -/
def outstanding (s : State) (p : Nat) : Bool :=
  !(s.strand p).prods.isEmpty || s.homeq.any (fun r => r.strand == p) || s.remote.any (fun r => r.strand == p) || !(mine s p).isEmpty
    || !(queuedStores s p).isEmpty || !(contribsOut s p).isEmpty || bufferedPushes s p
    || (s.hamper (moduleOf p)).nextw.any (fun n => n.strand == p && n.saved.isNone)
/-! ## The walk of a region (R250, R251) -/

/-- The checks of a granule: orders 2 and 3 of R108 for a read, the first case of R66. -/
def turnAsk : Ask := { kind := .read, touch := false, scope2 := false, tag := false, rights := false, back := true }
/-- A TURN at the strand's pc completes: what it has processed counts as turned (03 R49, R50). -/
def Strand.endTurn (st : Strand) : Strand :=
  { st with
    unturned := st.unturned.filter (fun g => !st.turned.contains (st.pc, g))
    turned := st.turned.filter (fun t => t.1 ≠ st.pc) }
/-- sA and sL after the piece that ends at address a1 (exact): the rest of the region, or its end and 0, when the instruction completes. -/
def regionStep (s : State) (a l : Reg) (a1 : Nat) : Res State :=
  let stop := (sv s a).toNat + (sv s l).toNat
  if stop ≤ a1 then advance (((s.setS a (BitVec.ofNat 64 stop)).setS l 0).updMe Strand.endTurn)
  else .ok ((((s.setS a (BitVec.ofNat 64 a1)).setS l (BitVec.ofNat 64 (stop - a1))).updMe (fun st => { st with run := .active })))
/-- One granule of a region at a level: its checks, the waits, the event. -/
def granuleStep (s : State) (a l : Reg) (fl : Bool) (lv : Nat) (ev : State → Acc → Word → Res State) : Res State := do
  operands s [.s l fl, .s a false]
  if sv s l = 0 then advance s
  else
    let va := sv s a
    match checkAccess s s.cur va turnAsk with
    | (.error c, s) => raise s c.code c.qual va
    | (.ok acc, s) =>
      if groupOut s lv s.cur (granOf acc.pa) || eventHeld s acc.pa then wait s
      else
        let s ← ev s acc va
        regionStep (gapEvent s (granOf acc.pa)) a l (va.toNat / 256 * 256 + 256)
/-- The request of a TURN for a granule has reached its home, or has failed; it sets off when there is none, and the instruction waits for it (19 R309,
R319). -/
def turnAsked (s : State) (acc : Acc) : Res (Bool × State) :=
  let r := match s.me.asked with
    | some m => (m, s)
    | none => let m := toHome s s.cur acc.pa; (m.1, m.2.updMe (fun st => { st with asked := some m.1 }))
  if r.2.arrived r.1 then .ok (r.2.lost.contains r.1, (r.2.delivered r.1).updMe (fun st => { st with asked := none })) else wait r.2
/-- A TURN event; a home that no port reaches is reported (19 R319). -/
def turnAt (s : State) (acc : Acc) (l : Nat) (va : Word) : Res State := do
  let (gone, s) ← turnAsked (noteVers s acc) acc
  if gone || unreachable s (moduleOf s.cur) acc.pa then .ok (s.report s.cur 6 va) else .ok (turnEvent s (granOf acc.pa) l s.cur va)

/-- turn (R250). -/
def execTurn (o : TurnOps) (s : State) : Host.Outcome State Fault Refusal :=
  finish (granuleStep s o.a o.l o.fl o.lvl.toNat (fun s acc va => turnAt s acc o.lvl.toNat va))

/-! ## Publishing (R254, 15 R272 to R274) -/

/-- The records and yields that wait on a versioned page go on. -/
def wakePage (s : State) (frame : Nat) : State :=
  s.mods.foldl (fun s e => wakeRecs s e.1 (2 ^ 16) (fun pl => pl == .page frame)) s
/-- An address of one frame as the same place of another. -/
def reframe (old new a : Nat) : Nat := if a / 65536 = old then new * 65536 + a % 65536 else a
/-- Buffers of one granule become one, the newer bytes over the older. -/
def gatherWcb (ws : List Wcb) : List Wcb :=
  ws.foldl (fun acc w =>
    if acc.any (fun x => x.gran = w.gran) then acc.map (fun x => if x.gran = w.gran
      then { x with cells := overCells x.cells w.cells, writers := overWriters x.writers w.writers } else x)
    else acc ++ [w]) []
/-- Granules of a slice that have come to be one become one. -/
def gatherSlice (os : List Outbound) : List Outbound :=
  os.foldl (fun acc o =>
    if acc.any (fun x => x.cluster = o.cluster ∧ x.gran = o.gran) then acc.map (fun x => if x.cluster = o.cluster ∧ x.gran = o.gran
      then { x with cells := overCells x.cells o.cells, writers := overWriters x.writers o.writers, merged := x.merged || o.merged } else x)
    else acc ++ [o]) []
/-- Writes to the old back frame that have not reached the home will be resolved there to the new one, and set its WR bits (15 R272): their new
addresses, and the granules of the page concerned. -/
def reresolve (s : State) (old new : Nat) : State × List Nat :=
  let hit := fun (g : Nat) => g / 256 == old
  let gr := fun (g : Nat) => if hit g then new * 256 + g % 256 else g
  let cells := fun (cs : List Host.Cell) => overCells [] (cs.map (fun c => ((reframe old new c.1, c.2) : Host.Cell)))
  let writers := fun (ws : List Writer) => ws.map (fun w => { w with pa := reframe old new w.pa })
  let rows := fun (rs : List MRow) => rs.map (fun r => { r with pa := reframe old new r.pa })
  let met := (s.cores.map (fun e => (e.2.wcb.map (·.gran)) ++ (e.2.mx.queue.map (fun o => match o with
      | .store _ _ _ rs => rs.map (fun r => granOf r.pa) | _ => [])).flatten)).flatten
    ++ s.outbound.map (·.gran) ++ (s.merges.map (fun m => m.cells.map (fun c => granOf c.1))).flatten
  ({ s with
      cores := s.cores.map (fun e => (e.1, { e.2 with
        wcb := gatherWcb (e.2.wcb.map (fun w => { w with gran := gr w.gran, cells := cells w.cells, writers := writers w.writers }))
        mx := { e.2.mx with queue := e.2.mx.queue.map (fun o => match o with | .store p t rb rs => .store p t rb (rows rs) | o => o) } }))
      outbound := gatherSlice (s.outbound.map (fun o => { o with gran := gr o.gran, cells := cells o.cells, writers := writers o.writers }))
      merges := s.merges.map (fun m => { m with cells := cells m.cells, writers := writers m.writers }) },
    (met.filter hit).map (· % 256))
/-- The swap: one event at the home. The waiting opens are admitted, before any later publish (15 R274). -/
def swapFrames (s : State) (f key : Nat) : State :=
  let v := s.versOf f
  let s := { s with inbound := s.inbound.filter (fun c => c.gran / 256 ≠ f ∧ c.gran / 256 ≠ v.back) }
  let rest := v.waiting.filter (· ≠ (key, true))
  let r := reresolve s (if v.front then f else v.back) (if v.front then v.back else f)
  let s := r.1.setVers f { v with
    front := !v.front, pend := false, cu := v.wr, wr := r.2.foldl (fun b i => b ||| (1#256 <<< i)) 0
    waiting := rest.filter (fun w => !w.2) ++ rest.filter (fun w => w.2) }
  wakePage (if v.wr = 0 then s else s.post (.catchupCopy f)) f
/-- The page may be swapped now. -/
def Vers.open_ (v : Vers) : Bool := v.snaps == 0 && v.cu == 0
/-- What stands before a waiter's own place in the queue of a pair, or the whole queue when it has none (15 R274). -/
def Vers.before (v : Vers) (key : Nat) (publish : Bool) : List (Nat × Bool) := v.waiting.takeWhile (· ≠ (key, publish))
/-- A waiter takes the last place, unless it has one. -/
def Vers.join (v : Vers) (key : Nat) (publish : Bool) : Vers :=
  if v.waiting.contains (key, publish) then v else { v with waiting := v.waiting ++ [(key, publish)] }
/-- A name for the strand or context that waits at a SNAP.OPEN or a TURN.PUB. -/
def waiterKey (s : State) (p : Nat) : Nat :=
  match (s.strand p).cont with
  | some c => (moduleOf p * 2 ^ 24 + c.grid) * 2 ^ 24 + c.vsi + 98304
  | none => p

/-- A strand yields at a page, or waits in place at S (R290). -/
def yieldAtPage (s : State) (f : Nat) : Res State :=
  if canYield s.me then .ok (yieldNow s none (.page f) false) else wait s
/-- turn.pub: a versioned page whose last granule is turned is published, or the strand yields with sA and sL at that granule until its
snapshots have closed (R254); behind what has arrived before it, it takes its place in the queue (15 R274). -/
def execTurnPub (o : TurnOps) (s : State) : Host.Outcome State Fault Refusal := finish do
  operands s [.s o.l o.fl, .s o.a false]
  let va := sv s o.a
  let last := decide (va.toNat % 65536 / 256 = 255)
  if sv s o.l = 0 then advance s
  else match checkAccess s s.cur va turnAsk with
  | (.error c, s) => raise s c.code c.qual va
  | (.ok acc, s) =>
    if !(acc.vers && last) then granuleStep s o.a o.l o.fl o.lvl.toNat (fun s acc va => turnAt s acc o.lvl.toNat va)
    else if groupOut s o.lvl.toNat s.cur (granOf acc.pa) || eventHeld s acc.pa then wait s
    else do
      let f := pteFrame acc.leaf
      let s ← turnAt s acc o.lvl.toNat va
      let s := gapEvent s (granOf acc.pa)
      let base := va.toNat / 256 * 256
      let stop := va.toNat + (sv s o.l).toNat
      let key := waiterKey s s.cur
      let v := s.versOf f
      let here := fun (s : State) => (s.setS o.a (BitVec.ofNat 64 base)).setS o.l (BitVec.ofNat 64 (stop - base))
      if !(v.before key true).isEmpty then yieldAtPage (here (s.setVers f (v.join key true))) f
      else if v.open_ then regionStep (swapFrames s f key) o.a o.l (base + 256)
      else
        let s := here (s.setVers f { v.join key true with pend := true })
        if v.snaps = 0 then wait (s.post (.catchupCopy f)) else yieldAtPage s f

/-- The strand waits in place at a TURN.PUB of the pair with even frame f, at the page's last granule. -/
def atPublish (s : State) (p f : Nat) : Option (Reg × Reg) :=
  let st := s.strand p
  if st.run ≠ .waiting ∨ st.yielded.isSome then none
  else match st.line with
    | none => none
    | some l =>
      if l.addr ≠ lineOf st.pc then none
      else
        let w := lineInstr l.data (offOf st.pc)
        if w.1.toNat / 512 ≠ 0x30 ∨ w.1.getLsbD 5 = false then none
        else
          let a : Reg := w.1.extractLsb' 0 5
          let lr : Reg := (w.2.headD 0).extractLsb' 11 5
          let va := st.sval a.toNat
          if va.toNat % 65536 / 256 ≠ 255 then none
          else match (translate s p va).1 with
            | .ok t => if t.leaf.getLsbD 9 && pteFrame t.leaf == f && (s.versOf f).waiting.head? == some (waiterKey s p, true) then some (a, lr) else none
            | .error _ => none
/-- Once its snapshots have closed and its catch-up has ended, a page with a publish pending is swapped for a strand that waits in place at
its TURN.PUB, which goes on behind the page (15 R273). A strand that yielded publishes when it is resumed. -/
def execPublishSwap (frame : Nat) (s : State) : Host.Outcome State Fault Refusal :=
  let v := s.versOf frame
  if !v.pend || !v.open_ then .next s
  else match s.strands.findSome? (fun e => (atPublish s e.1 frame).map (fun r => (e.1, r))) with
    | none => .next s
    | some (p, a, l) =>
      (swapFrames s frame (waiterKey s p)).asStrand p (fun s => finish (regionStep s a l ((sv s a).toNat / 256 * 256 + 256)))
/-- The home copies the lowest granule still to be caught up (15 R273). -/
def execCatchupCopy (frame : Nat) (s : State) : Host.Outcome State Fault Refusal :=
  let v := s.versOf frame
  match (List.range 256).find? (fun i => v.cu.getLsbD i) with
  | none => .next (if v.pend then s.post (.publishSwap frame) else s)
  | some i =>
    let g := (if v.front then frame else v.back) * 256 + i
    if eventHeld s (g * 256) then .next (s.post (.catchupCopy frame)) else
    let s := gapEvent (catchUp s frame v.back i) g
    .next (if (s.versOf frame).cu = 0 then (if v.pend then s.post (.publishSwap frame) else s) else s.post (.catchupCopy frame))

/-! ## SNAP (R255, 15 R274) -/

/-- One page of a SNAP: its base, and what happens on a versioned one. -/
def pageStep (s : State) (o : RegionOps) (ev : State → Acc → Res State) : Res State := do
  operands s [.s o.l o.fl, .s o.a false]
  if sv s o.l = 0 then advance s
  else
    let va := sv s o.a
    match checkAccess s s.cur va turnAsk with
    | (.error c, s) => raise s c.code c.qual va
    | (.ok acc, s) =>
      let size := if acc.tlb.big then 2 ^ 29 else 65536
      let s ← if acc.vers then ev s acc else .ok s
      if s.me.yielded.isSome then .ok s else regionStep s o.a o.l (va.toNat / size * size + size)
/-- snap.open: counts a snapshot, or yields while a publish is pending or the count is full. -/
def execSnapOpen (o : RegionOps) (s : State) : Host.Outcome State Fault Refusal :=
  finish (pageStep s o (fun s acc =>
    let f := pteFrame acc.leaf
    let v := { s.versOf f with back := pteFrame acc.tlb.partner, share := acc.share }
    let me := waiterKey s s.cur
    if v.pend || v.snaps == 65535 || (v.before me false).any (fun w => w.2) then yieldAtPage (s.setVers f (v.join me false)) f
    else
      let left := v.waiting.filter (· ≠ (me, false))
      let s := s.setVers f { v with snaps := v.snaps + 1, waiting := left }
      .ok (if left.any (fun w => w.2) then wakePage s f else s)))
/-- snap.close. -/
def execSnapClose (o : RegionOps) (s : State) : Host.Outcome State Fault Refusal :=
  finish (pageStep s o (fun s acc =>
    let f := pteFrame acc.leaf
    let s := noteVers s acc
    let v := s.versOf f
    let s := s.setVers f { v with snaps := v.snaps - 1 }
    .ok (if v.snaps = 1 then wakePage (s.post (.publishSwap f)) f else if v.snaps = 65535 then wakePage s f else s)))

/-! ## CACHE (R258) -/

/-- cache.wb: every write of the group to the granule is carried to the home. -/
def execCacheWb (o : TurnOps) (s : State) : Host.Outcome State Fault Refusal :=
  finish (granuleStep s o.a o.l o.fl o.lvl.toNat (fun s acc _ => .ok (drainGroup s (granOf acc.pa) o.lvl.toNat s.cur)))
/-- The copies of granule g that strand y's level-l group holds are discarded, a merged one once its home has its bytes. -/
def cacheInv (s : State) (g l y : Nat) : State :=
  let held := s.inbound.any (fun c => c.gran == copyKey s g && turnedCopy l y c && c.held)
  dropCopies (if held then drainGroup s g l y else s) g (turnedCopy l y)
/-- cache.inv: every inbound copy of the granule in the group is discarded. -/
def execCacheInv (o : TurnOps) (s : State) : Host.Outcome State Fault Refusal :=
  finish (granuleStep s o.a o.l o.fl 0 (fun s acc _ => .ok (cacheInv s (granOf acc.pa) o.lvl.toNat s.cur)))
/-- cache.wbinv. -/
def execCacheWbinv (o : TurnOps) (s : State) : Host.Outcome State Fault Refusal :=
  finish (granuleStep s o.a o.l o.fl o.lvl.toNat (fun s acc _ =>
    let g := granOf acc.pa
    .ok (cacheInv (drainGroup s g o.lvl.toNat s.cur) g o.lvl.toNat s.cur)))
/-- The tag of a granule as CACHE.TINIT sets it, its copies gone, merged ones once their bytes are at the home; over a pair's first granule its version state is zero (15 R272). -/
def tinitAt (s : State) (acc : Acc) : State :=
  let g := granOf acc.pa
  let s := (cacheInv s g 5 s.cur).setTag g .init
  if g % 256 ≠ 0 then s
  else if acc.vers then { s with vers := mdel (pteFrame acc.leaf) s.vers }
  else { s with vers := mdel (g / 256) s.vers }
/-- cache.tinit. -/
def execCacheTinit (o : RegionOps) (s : State) : Host.Outcome State Fault Refusal := finish do
  needS s
  granuleStep s o.a o.l o.fl 0 (fun s acc _ => .ok (tinitAt s acc))

/-! ## FENCE (R261, 04 R69, R74, R75) -/

/-- fence.o: the strand's stores and atomics enter coherence order now, once Dexlink has brought its atomics to their homes; tile stores still queued
go before its later writes.
(DEDUCED, unsafe: notes/assumptions/13.) -/
def execFenceO (s : State) : Host.Outcome State Fault Refusal := finish do
  let s := drainOwn (flushAtomics s s.cur) s.cur
  if s.homeq.any (fun r => r.strand == s.cur) || !(ownGranules s s.cur).isEmpty then wait s
  else advance (s.updMe (fun st => { st with ordered := (queuedStores s s.cur).length }))
/-- What fence.io does: every earlier access of the strand is performed; where a home holds one back, it waits (15 R262, 22 R368). -/
def fenceAll (s : State) : Res State :=
  if outstanding s s.cur then wait s
  else
    let s := drainOwn s s.cur
    if (ownGranules s s.cur).isEmpty then .ok s else wait s
/-- fence.io. -/
def execFenceIo (s : State) : Host.Outcome State Fault Refusal := finish do
  let s ← fenceAll s
  advance s
/-- A store to a protected page cannot be made survivable: its home does not reach the holder, its stripe is marked, or the group is degraded or
rebuilding and the stripe is not rebuilt (04 R75, 22 R364). -/
def storeLost (s : State) (x : ProtStore) : Bool :=
  match stripeAt s (paModule x.pa) (x.pa % 2 ^ 44) with
  | none => false
  | some (n, g, stripe, _) =>
    let h := holderNow s g stripe
    (s.modl (s.answers (paModule x.pa))).unreach.contains h || (s.modl h).unsurv.contains (n, stripe) || g.state == 2
      || (g.state == 3 && decide (g.done ≤ stripe))
/-- A delta of an ECC granule of the store is still to be folded. -/
def deltaOut (s : State) (x : ProtStore) : Bool :=
  match stripeAt s (paModule x.pa) (x.pa % 2 ^ 44) with
  | none => false
  | some (n, _, stripe, o) => s.deltas.any (fun d => d.group == n && d.stripe == stripe && d.home == paModule x.pa
      && decide (o / 64 ≤ d.off / 64) && decide (d.off / 64 ≤ (o + x.len - 1) / 64))
/-- Bytes of a granule are on their way to its home. -/
def stored (s : State) (g : Nat) : Bool :=
  s.merges.any (fun m => m.cells.any (fun c => granOf c.1 == g)) || s.outbound.any (fun o => o.gran == g) || s.cores.any (fun e => e.2.wcb.any (fun w => w.gran == g))
/-- The stores to protected pages that a strand's context holds reach their homes, whichever strand made them (04 R74). -/
def drainProt (s : State) (p : Nat) : State :=
  (((s.strand p).prot.map (fun x => granOf x.pa)).eraseDups).foldl (fun t g =>
    if stored t g && !eventHeld t (g * 256) then gapEvent (drainGroup t g 5 p) g else t) s
/-- fence.surv: every store to a protected page is at its home with its parity delta folded. -/
def execFenceSurv (s : State) : Host.Outcome State Fault Refusal := finish do
  let p := s.cur
  if !(queuedStores s p).isEmpty || (mine s p).any (fun x => x.out != (match x.port with | .fab _ _ => true | _ => false)) then wait s
  else
    let s := drainProt (drainOwn (flushAtomics s p) p) p
    if s.homeq.any (fun r => r.strand == p) || !(ownGranules s p).isEmpty || s.me.prot.any (fun x => stored s (granOf x.pa)) then wait s
    else match s.me.prot.find? (storeLost s) with
    | some x => raise s 0x12 0 x.va
    | none =>
      if s.me.prot.any (deltaOut s) then wait s
      else advance (s.updMe (fun st => { st with prot := [] }))

end Sys2Proof.Machine
end

