-- ==== Sys2Proof/Machine/Sched.lean ====
section
/-! DEFINITION. Majors 0x33 to 0x3E, LQREG, HALT, and the events of the Hamper and the work distributor (17 R280 to R304, 05 R89, R90, R92,
07 R134). -/
namespace Sys2Proof.Machine

/-! ## WAITS (R297) -/

/-- waits: until the scratchpad word differs from sV.
(DEDUCED, unsafe: notes/assumptions/38.) -/
def execWaits (o : WaitsOps) (s : State) : Host.Outcome State Fault Refusal := finish do
  operands s [.s o.p o.fp, .s o.v o.fv]
  let n := if o.szd then 8 else 4
  let va := sv s o.p
  let core ← spAccess s va n
  let r := scratchRead s core (spOff va) n
  if remoteBusy s core then wait s
  else if core == coreOf s.cur && handed s s.cur (handWords (spOff va) n) then wait (handOver s s.cur)
  else if r.2 then
    advance (s.updMe (fun st => if o.d = 0 then st else st.setCell (physReg st.status.uiact o.d.toNat) ⟨0, true, .poison va, 0⟩))
  else if r.1 = uAt (8 * n) (sv s o.v) then wait s
  else writeBackS s o.d (BitVec.ofNat 64 r.1)

/-! ## Barriers (R295) -/

/-- The continuation that the running strand runs, which the instruction needs (R296). -/
def needCont (s : State) : Res Cont := match s.me.cont with | some c => .ok c | none => illegal s
/-- The members of the running strand's barrier of level l. -/
def barMembers (s : State) (c : Cont) (l : Nat) : List Nat :=
  (c.members.zipIdx.filter (fun x => unitOf l x.1 = unitOf l s.cur)).map (fun x => c.group * c.gsize + x.2)
/-- That barrier. -/
def barOf (s : State) (c : Cont) (l : Nat) : Barrier :=
  let ms := barMembers s c l
  ((s.hamper (moduleOf s.cur)).bars.find? (fun b => b.grid = c.grid ∧ b.lvl = l ∧ b.members = ms)).getD ⟨c.grid, l, ms.headD 0, ms, [], 0⟩
/-- Replaces a barrier. -/
def setBar (s : State) (m : Nat) (b : Barrier) : State :=
  s.updHamper m (fun h => { h with bars := h.bars.filter (fun x => ¬ (x.grid = b.grid ∧ x.lvl = b.lvl ∧ x.members = b.members)) ++ [b] })
/-- Changes the running strand's continuation. -/
def updCont (s : State) (f : Cont → Cont) : State := s.updMe (fun st => { st with cont := st.cont.map f })

/-- A member of the barrier has left its strand without having arrived, and its group is being freed: the running strand saves at the BAR
(R288). -/
def barBlocked (s : State) (c : Cont) (b : Barrier) : Bool :=
  match gridOf s (moduleOf s.cur) c.grid with
  | none => false
  | some g =>
    let rs := groupRecs (s.hamper (moduleOf s.cur)) g c.group
    rs.any (fun r => r.evicted) && rs.any (fun r => b.members.contains r.vsi && !b.arrived.contains r.vsi)
/-- A wait at a barrier: the strand saves there when its group is being freed. -/
def barPause {α : Type} (s : State) (c : Cont) (b : Barrier) : Res α :=
  wait (if !s.me.status.prv && barBlocked s c b then s.updMe (fun st => { st with saveDue := some (st.saveDue.getD 0) }) else s)
/-- The arrival of a bar (hold: a BAR, whose arrival is kept while it waits) or bar.arrive.
(DEDUCED, unsafe: notes/assumptions/37.) -/
def barArriveOp (s : State) (c : Cont) (l : Nat) (hold : Bool) : Res State :=
  if hold && c.barIn == some s.me.pc then .ok s
  else
    let b := barOf s c l
    if b.arrived.contains c.vsi then barPause s c b
    else do
      let s ← fenceAll s
      let s := setBar s (moduleOf s.cur) { b with arrived := b.arrived ++ [c.vsi] }
      let s := updCont s (fun x => { x with arrived := mset l (b.phase + 1) x.arrived, barIn := if hold then some s.me.pc else x.barIn })
      .ok (postBarriers s (moduleOf s.cur) c.grid)
/-- The wait for the phase of the strand's last arrival. -/
def barWaitOp (s : State) (l : Nat) : Res State :=
  match s.me.cont with
  | none => illegal s
  | some c =>
    let b := barOf s c l
    let ph := mget 0 c.arrived l
    if ph = 0 then .ok s
    else if ph ≤ b.phase then .ok (updCont s (fun x => { x with arrived := mdel l x.arrived, barIn := none }))
    else barPause s c b

/-- bar. -/
def execBar (lvl : BitVec 3) (s : State) : Host.Outcome State Fault Refusal := finish do
  let c ← needCont s
  legal s (decide (lvl.toNat ≤ c.glvl))
  if lvl = 0 then advance s
  else
    let s ← barArriveOp s c lvl.toNat true
    let s ← barWaitOp s lvl.toNat
    advance s
/-- bar.arrive. -/
def execBarArrive (lvl : BitVec 3) (s : State) : Host.Outcome State Fault Refusal := finish do
  let c ← needCont s
  legal s (decide (lvl.toNat ≤ c.glvl))
  if lvl = 0 then advance s
  else
    let s ← barArriveOp s c lvl.toNat false
    advance s
/-- bar.wait. -/
def execBarWait (lvl : BitVec 3) (s : State) : Host.Outcome State Fault Refusal := finish do
  let c ← needCont s
  legal s (decide (lvl.toNat ≤ c.glvl))
  if lvl = 0 then advance s
  else
    let s ← barWaitOp s lvl.toNat
    advance s
/-- A phase completes once every member has arrived or executed DONE. -/
def execBarPhaseComplete (m grid lvl unit : Nat) (s : State) : Host.Outcome State Fault Refusal :=
  match gridOf s m grid with
  | none => .next s
  | some g =>
    .next (s.updHamper m (fun h => { h with bars := h.bars.map (fun b =>
      if b.grid = grid ∧ b.lvl = lvl ∧ b.unit = unit ∧ b.arrived ≠ [] ∧ b.members.all (fun v => b.arrived.contains v || g.finished.contains v) = true
      then { b with arrived := [], phase := b.phase + 1 } else b) }))

/-! ## SPAWN (R298) -/

/-- spawn: queues a single-strand continuation, within the quota. -/
def execSpawn (o : SpawnOps) (s : State) : Host.Outcome State Fault Refusal := finish do
  let c ← needCont s
  operands s [.s o.code o.fcode, .s o.frame o.fframe, .s o.join o.fjoin]
  let s ← fenceAll s
  let m := moduleOf s.cur
  match gridOf s m c.grid with
  | none => illegal s
  | some g =>
    if g.spq ≤ g.spawned then writeBackS s o.d (refusalWord 5)
    else
      let vsi := g.nstr + g.spawned
      let (q, s) := nextSeq s m
      let r : Rec := { code := sv s o.code, frame := sv s o.frame, join := sv s o.join, vsi := vsi, grid := g.id, res := false, glvl := 0
                       pri := o.pri.toNat, bad := false, place := .cluster (clusterOf s.cur), seq := q, clk := s.clk, evicted := false
                       live := .none, cont := none, unturned := [], turned := [], prot := [], last := s.cur, after := false }
      let s := s.updHamper m (fun h => { h with recs := h.recs ++ [r] })
      let s := kick (s.updGrid m g.id (fun g => { g with spawned := g.spawned + 1, live := g.live + 1 })) m
      writeBackS s o.d (BitVec.ofNat 64 vsi)

/-! ## Join counters (R292) -/

/-- A join counter, checked and read in one event at its home: COUNT and PARKED. An uncorrectable or unreachable counter raises UE_DATA (the
model's reading). -/
def counterRead (s : State) (va : Word) : Res (Acc × Nat × Nat × State) := do
  aligned s va 8
  let (a, s) ← access s va { kind := .atomic, tag := false }
  if unreachable s (moduleOf s.cur) a.pa then raise s 0x10 6 va
  else if heldAt s a.pa then wait s
  else
    let s := serveDegraded (sendFlit s (moduleOf s.cur) (s.answers (paModule a.pa))) a.pa
    let s := drainGroup s (granOf a.pa) 5 s.cur
    let r := homeRead s a.pa 8
    let s := opensRow s a.pa
    if r.2 then raise s 0x10 1 va else .ok (a, r.1 % 2 ^ 48, r.1 / 2 ^ 48, s)
/-- The rest of that event: the new counter, when it is written. -/
def counterEvent (s : State) (a : Acc) (va : Word) (v : Option Nat) : State :=
  let s := if a.prot && v.isSome then s.updMe (fun st => { st with prot := st.prot ++ [⟨va, a.pa, 8⟩] }) else s
  let s := if a.dir then s else atomicEvent s (granOf a.pa) a.share 0 s.cur v.isSome va
  match v with
  | some v => if a.dir then homePut s s.cur a.pa 8 v va else atomicPut s a.share s.cur a.pa 8 v va
  | none => s
/-- Up to n records parked on a counter, in every module, become ready. -/
def wakeParked (s : State) (n pa : Nat) : State :=
  let f := fun (pl : Place) => pl == .parked pa
  (s.mods.foldl (fun (x : State × Nat) e =>
    let k := ((x.1.hamper e.1).recs.filter (fun r => f r.place)).length
      + (x.1.strands.filter (fun y => moduleOf y.1 == e.1 && (match y.2.yielded with | some z => f z.place | none => false))).length
    (wakeRecs x.1 e.1 x.2 f, x.2 - k)) (s, n)).1
/-- done_event. -/
def doneEvent (s : State) (va : Word) : Res State := do
  let (a, cnt, parked, s) ← counterRead s va
  let c := cnt - 1
  if c = 0 ∧ 0 < parked then .ok (wakeParked (counterEvent s a va (some 0)) parked a.pa)
  else if cnt = 0 then .ok (counterEvent s a va none)
  else .ok (counterEvent s a va (some (parked * 2 ^ 48 + c)))

/-- The continuation ends: its strand is freed, its bindings with it (R299). -/
def endStrand (s : State) (c : Cont) : State :=
  let p := s.cur
  let s := settle (s.me.bindings.foldl (fun s b => endBinding s p b) s) (coreOf p)
  let s := s.updStrand p (fun st => { st with
    run := .idle, cont := none, landed := none, yielded := none, saveDue := none, line := none, prods := [], tickets := [], reports := []
    replay := none, unturned := [], turned := [], prot := [], status := { st.status with preq := false }, early := [], late := false, tested := none, asked := none, sealing := none
    walked := [], cut := none })
  endCont s (moduleOf p) c.grid c.vsi
/-- The wait that the event of a counter would meet. -/
def counterWait (s : State) (va : Word) : Res Unit := match counterRead s va with | .error (.wait s) => wait s | _ => .ok ()
/-- DONE: after every earlier access, the events of its counters, the named one first (R299); none takes place while the other has still to wait. -/
def doneOp (s : State) (named : Option Word) : Res State := do
  let c ← needCont s
  let s ← fenceAll s
  if c.join ≠ 0 then counterWait s c.join
  let s ← match named with | some va => doneEvent s va | none => .ok s
  let s ← if c.join ≠ 0 then doneEvent s c.join else .ok s
  .ok (endStrand s c)
/-- done. -/
def execDone (s : State) : Host.Outcome State Fault Refusal := finish (doneOp s none)
/-- done with a counter. -/
def execDoneCtr (o : SrcOps) (s : State) : Host.Outcome State Fault Refusal := finish do
  let _ ← needCont s
  operands s [.s o.b o.fb]
  doneOp s (some (sv s o.b))

/-- The table index of an instruction with CKV and CKI. -/
def ckOf (ckv : Bool) (cki : BitVec 9) : Option (BitVec 9) := if ckv then some cki else none
/-- waitj (R292, R300). -/
def execWaitj (o : WaitjOps) (s : State) : Host.Outcome State Fault Refusal := finish do
  let _ ← needCont s
  operands s [.s o.b o.fb]
  let va := sv s o.b
  if s.homeq.any (fun r => r.strand == s.cur) then wait s
  else
    let (a, cnt, parked, s) ← counterRead s va
    if writesOut s s.cur (granOf a.pa) then wait s
    else if cnt = 0 then advance (counterEvent s a va none)
    else if canYield s.me && decide (parked < 65535) then
      .ok (yieldNow (counterEvent s a va (some ((parked + 1) * 2 ^ 48 + cnt))) (ckOf o.ckv o.cki) (.parked a.pa) false)
    else wait (counterEvent s a va none)

/-! ## Launches (R280 to R283, R301) -/

/-- Dword i of a launch record. -/
def recDword (v i : Nat) : Nat := v / 2 ^ (64 * i) % 2 ^ 64
/-- The largest GCORE of a level (R282). -/
def gcoreLimit (l : Nat) : Nat := match l with | 0 => 1 | 1 => 1 | 2 => 4 | 3 => 48 | _ => 192
/-- The grid that a record describes. -/
def gridOfRecord (v : Nat) (root : Word) : Grid :=
  let d := recDword v
  let ngrp := d 5 % 2 ^ 24
  let gcore := d 5 / 2 ^ 32 % 512
  let spc := d 5 / 2 ^ 41 % 2 == 1
  { id := 0, code := BitVec.ofNat 64 (d 0), frame := BitVec.ofNat 64 (d 1), sjoin := BitVec.ofNat 64 (d 2), savebase := BitVec.ofNat 64 (d 3)
    tx := d 4 % 2 ^ 32, ty := d 4 / 2 ^ 32, pri := d 5 / 2 ^ 48 % 4, spc := spc, gcore := gcore, glvl := d 5 / 2 ^ 24 % 8, ngrp := ngrp
    savesz := d 6 / 2 ^ 32 % 65536, spq := d 6 % 2 ^ 32, vp := BitVec.ofNat 64 (d 7), root := root, spawned := 0
    live := ngrp * gcore * (spc.toNat + 1), undispatched := ngrp, nextTile := 0, finished := [] }
/-- LBADREC. -/
def recordBad (v : Nat) (g : Grid) : Bool :=
  let d := recDword v
  d 5 / 2 ^ 50 != 0 || d 5 / 2 ^ 42 % 64 != 0 || d 5 / 2 ^ 27 % 32 != 0 || d 6 / 2 ^ 48 != 0 || d 7 / 2 ^ 21 != 0
    || d 0 % 2 == 1 || g.ngrp == 0 || decide (5 ≤ g.glvl) || (g.glvl == 0 && g.spc) || g.savesz == 0
    || decide (2 ^ 24 ≤ g.nstr + g.spq) || decide (2 ^ 32 - 3 ≤ g.tx * g.ty) || g.gcore == 0 || decide (gcoreLimit g.glvl < g.gcore)
/-- The grid number after the last, past those of live grids. -/
def nextGrid (h : Hamper) : Nat → Nat → Nat
  | 0, n => n
  | k + 1, n => let n' := if n = 0xFFFFFF then 1 else n + 1
                if h.grids.any (fun g => g.id == n') then nextGrid h k n' else n'
/-- A launch at module m: the refusal code (R282), or the grid number and the state with its record queued. -/
def launchRec (s : State) (m v : Nat) (root : Word) : Except Nat (Nat × State) :=
  let g := gridOfRecord v root
  let h := s.hamper m
  let c : Cand := ⟨0, g.pri, 0, 0, none, g.glvl, g.gcore, g.per, false, []⟩
  if recordBad v g then .error 3
  else if (layoutFor s m c (fun p => !h.withdrawn.contains p)).isNone then .error 4
  else if Config.launchStore ≤ (h.grids.filter (fun x => 0 < x.undispatched)).length then .error 1
  else if h.slots < (h.grids.map (fun x => x.nstr + x.spq)).foldl (· + ·) 0 + (g.nstr + g.spq) then .error 2
  else
    let id := nextGrid h (h.grids.length + 1) h.lastGrid
    let (q, s) := nextSeq s m
    let r : Rec := { code := g.code, frame := g.frame, join := g.sjoin, vsi := 0, grid := id, res := false, glvl := g.glvl, pri := g.pri, bad := false
                     place := .device, seq := q, clk := s.clk, evicted := false, live := .none, cont := none, unturned := [], turned := [], prot := [], last := 0
                     after := false }
    .ok (id, kick (s.updHamper m (fun h => { h with grids := h.grids ++ [{ g with id := id }], recs := h.recs ++ [r], lastGrid := id })) m)

/-- launch and launch.w (R301). -/
def execLaunch (o : LaunchOps) (s : State) : Host.Outcome State Fault Refusal := finish do
  legal s (!o.w || s.me.cont.isSome)
  operands s [.s o.b o.fb]
  let va := sv s o.b
  aligned s va 64
  let s ← fenceAll s
  let (a, s) ← access s va { kind := .read }
  let (r, s) := readAcc s a va 64
  need (!r.2) (raise s 0x10 1 va)
  match launchRec s (moduleOf s.cur) r.1 s.me.ptroot with
  | .ok (id, s) => writeBackS s o.d (BitVec.ofNat 64 id)
  | .error e =>
    if o.w && decide (e < 3) then (if canYield s.me then .ok (yieldNow s (ckOf o.ckv o.cki) .store false) else wait s)
    else writeBackS s o.d (refusalWord e)

/-- The Hamper writes an 8-byte word as an atomic, a member of its module's DEVICE group, on a page of SHARE DOMAIN (R283, 04 R67, R77). -/
def hamperPut (s : State) (m pa v : Nat) (dir : Bool) : State :=
  let s := sendFlit s m (s.answers (paModule pa))
  homePut (if dir then s else atomicEvent s (granOf pa) 5 4 (m * 384) true (BitVec.ofNat 64 pa)) (m * 384) pa 8 v (BitVec.ofNat 64 pa)
/-- Where the status word of a launch queue goes, when it can be written; the walk sets A and D once the leaf allows the write (10 R190). -/
def statusPlace (s : State) (m : Nat) (root va : Word) : Option (Nat × Bool) × State :=
  if !canonical va || va.toNat % 8 ≠ 0 then (none, s)
  else match (walk s (m * 384) (pteFrame root) (va.toNat % 2 ^ 55)).1 with
    | .error _ => (none, s)
    | .ok t =>
      let e := t.leaf
      if !e.getLsbD 1 || e.getLsbD 8 then (none, s)
      else
        let s := touchLeaf s (m * 384) t true false
        let pa := physIn s t (va.toNat % 2 ^ 55) true
        (if pteShare e == 5 && !e.getLsbD 9 && tableAllows s m pa .atomic && !protRefuses s e pa true && !unreachable s m pa then some (pa, e.getLsbD 10) else none, s)
/-- The Hamper consumes the next record of a registered launch queue: the launch, the status word, HEAD (R283). A record refused with
LSTORE_FULL stays. A table that does not let the Hamper read the page and write HEAD refuses it, with a MACHINE_CHECK record (24 R386, R387). -/
def execLaunchQueueRecord (m slot : Nat) (s : State) : Host.Outcome State Fault Refusal :=
  match (s.hamper m).regs.find? (fun r => r.1 = slot) with
  | none => .next s
  | some (_, reg) =>
    let base := reg.frame * 65536
    if !tableAllows s m base .read || !tableAllows s m base .atomic then .next (s.toFirmware m 1024 (BitVec.ofNat 64 base)) else
    let s := activate s m base
    let tail := (homeRead s base 8).1
    let head := (homeRead s (base + 8) 8).1
    if tail ≤ head then .next s
    else
      let rec_ := homeRead s (base + 64 * (1 + head % 1023)) 64
      let x := if rec_.2 then .error 3 else launchRec s m rec_.1 reg.root
      let put := fun (s : State) (res : Word) =>
        let va := BitVec.ofNat 64 (homeRead s (base + 16) 8).1 + BitVec.ofNat 64 (8 * (head % 1023))
        let s := match statusPlace s m reg.root va with
          | (some (pa, dir), s) => hamperPut s m pa res.toNat dir
          | (none, s) => s.logRec m 0x0E 10 slot va.toNat
        let s := hamperPut s m (base + 8) (head + 1) false
        if head + 1 < tail then s.post (.launchQueueRecord m slot) else s
      match x with
      | .ok (id, s) => .next (put s (BitVec.ofNat 64 id))
      | .error 1 => .next s
      | .error e => .next (put s (refusalWord e))

/-! ## LQREG (R284) -/

/-- The frame of a queue page that a value of LQREG names. -/
def queuePage (s : State) (v : Word) : Option Nat :=
  let va := (v &&& 0x7FFFFFFFFF0000) ||| (if v.getLsbD 54 then 0xFF80000000000000 else 0)
  match (translate s s.cur va).1 with
  | .error _ => none
  | .ok t =>
    let e := t.leaf
    let f := pteFrame e
    if !t.big && e.getLsbD 1 && pteShare e == 5 && !e.getLsbD 7 && !e.getLsbD 8 && !e.getLsbD 9 && !e.getLsbD 10
      && paModule (f * 65536) == moduleOf s.cur then some f else none
/-- The refusal code of a write of LQREG, 0 when it is accepted. -/
def lqRefusal (s : State) (v : Word) : Nat :=
  let h := s.hamper (moduleOf s.cur)
  let slot := v.toNat / 4 % 64
  let rsvd := v &&& 0xFF8000000000FF02 != 0
  if v.getLsbD 0 then
    (match queuePage s v with
    | none => 1
    | some f => if h.regs.any (fun r => r.1 = slot) then 2 else if h.regs.any (fun r => r.2.frame = f) then 3 else if rsvd then 4 else 0)
  else if rsvd then 4 else 0
/-- A write of LQREG carried out: registers the page and starts on its records, or withdraws the slot. -/
def lqWrite (s : State) (v : Word) : State :=
  let m := moduleOf s.cur
  let slot := v.toNat / 4 % 64
  let code := lqRefusal s v
  let s := s.updMe (fun st => { st with lqcode := BitVec.ofNat 8 code })
  if code ≠ 0 then s
  else if v.getLsbD 0 then
    (match queuePage s v with
    | some f => (s.updHamper m (fun h => { h with regs := mset slot ⟨f, s.me.lqroot⟩ h.regs })).post (.launchQueueRecord m slot)
    | none => s)
  else s.updHamper m (fun h => { h with regs := mdel slot h.regs })
/-- A write of LQREG with V = 1 (the words are those of V = 0). -/
def execLqregRegister (o : SrcOps) (s : State) : Host.Outcome State Fault Refusal := finish do
  needS s
  operands s [.s o.b o.fb]
  advance (lqWrite s (sv s o.b))
/-- A write of LQREG with V = 0. -/
def execLqregWithdraw (o : SrcOps) (s : State) : Host.Outcome State Fault Refusal := finish do
  needS s
  operands s [.s o.b o.fb]
  advance (lqWrite s (sv s o.b))

/-! ## The work distributor (R294, R302) -/

/-- Every NEXTW on its way, with its module. -/
def allNextw (s : State) : List (Nat × NextW) := (s.mods.map (fun e => e.2.hamper.nextw.map (fun n => (e.1, n)))).flatten
/-- nextw: the request leaves, to reach the distributor a free number of clk later, not before an earlier one of the strand; sD is empty until the reply.
(DEDUCED, unsafe: notes/assumptions/56.) -/
def execNextw (o : BinOps) (s : State) : Host.Outcome State Fault Refusal := finish do
  operands s [.s o.b o.fb, .s o.c o.fc]
  let va := sv s o.c
  let core ← spAccess s va 4
  let (tok, s) := s.token
  let (f, s) := s.draw
  let k := physReg s.me.status.uiact o.d.toNat
  let own := ((allNextw s).filter (fun x => x.2.strand == s.cur && x.2.saved.isNone)).map (fun x => x.2.arrive)
  let n : NextW := { strand := s.cur, saved := none, grid := sv s o.b, core := core, off := spOff va, num := o.d.toNat
                     dest := if o.d = 0 then none else some k, tok := tok, reply := none
                     arrive := own.foldl Nat.max (s.clk + f) }
  let s := s.updMe (fun st => if o.d = 0 then st else st.markEmpty o.d.toNat tok)
  advance ((s.updHamper (moduleOf s.cur) (fun h => { h with nextw := h.nextw ++ [n] })).post (.nextwRequest 0))
/-- Order of service at the distributor: by clk of arrival, then by physical strand number, a strand's own in program order (18 R306, R294). -/
def NextW.before (a b : NextW) : Bool :=
  decide (a.arrive < b.arrive) || (a.arrive == b.arrive && (decide (a.strand < b.strand) || (a.strand == b.strand && decide (a.tok < b.tok))))
/-- The requests that have arrived and have no reply. -/
def arrivedNextw (s : State) : List (Nat × NextW) := (allNextw s).filter (fun x => x.2.reply.isNone && decide (x.2.arrive ≤ s.clk))
/-- The next index of a grid of module m, the end token, or that the grid is not live (R294). -/
def handOut (s : State) (m : Nat) (grid : Word) : Word × State :=
  match (if grid.toNat < 2 ^ 24 then gridOf s m grid.toNat else none) with
  | none => (0xFFFFFFFD, s)
  | some g => if g.nextTile < g.tx * g.ty then (BitVec.ofNat 64 g.nextTile, s.updGrid m g.id (fun g => { g with nextTile := g.nextTile + 1 }))
              else (0xFFFFFFFF, s)
/-- The distributor serves the request that is next for the grid that the k-th arrived one asks for (R294, 18 R306). -/
def execNextwRequest (k : Nat) (s : State) : Host.Outcome State Fault Refusal :=
  match (arrivedNextw s)[k]? with
  | none => .next (if (allNextw s).any (fun x => x.2.reply.isNone) then s.post (.nextwRequest 0) else s)
  | some (m, n) =>
    let n := ((arrivedNextw s).filter (fun x => x.1 == m && x.2.grid == n.grid)).foldl (fun a x => if x.2.before a then x.2 else a) n
    let r := handOut s m n.grid
    .next ((r.2.updHamper m (fun h => { h with nextw := h.nextw.map (fun x => if x.tok = n.tok then { x with reply := some r.1 } else x) })).post
      (.nextwReply 0))
/-- The scratchpad word of a NEXTW, in the save record of a context that lists it. -/
def savedWord (s : State) (m : Nat) (who : Nat × Nat) (off : Nat) : Option Nat :=
  let here := fun (r : Rec) => r.grid == who.1 && r.vsi == who.2
  let r : Option Rec := match (s.hamper m).recs.find? here with
    | some r => some r
    | none => s.strands.findSome? (fun (e : Nat × Strand) => e.2.start.filter here)
  match r with
  | none => none
  | some r =>
    (r.live.ranges.foldl (fun (x : Option Nat × Nat) (q : Nat × Nat) =>
      (if x.1.isNone && decide (q.1 ≤ off) && decide (off < q.1 + q.2) then some (x.2 + (off - q.1)) else x.1, x.2 + q.2))
      (none, 64 * r.live.rangeUnit)).1
/-- A token arrives: the scratchpad word, then the status register, of the strand or of the saved context (R294, R302). -/
def execNextwReply (k : Nat) (s : State) : Host.Outcome State Fault Refusal :=
  match ((allNextw s).filter (fun x => x.2.reply.isSome))[k]? with
  | none => .next s
  | some (m, n) =>
    let v := n.reply.getD 0
    let s := s.updHamper m (fun h => { h with nextw := h.nextw.filter (fun x => x.tok ≠ n.tok) })
    match n.saved with
    | none =>
      let s := scratchWrite s n.core n.off 4 v.toNat
      .next (match n.dest with | some d => s.updStrand n.strand (fun st => st.fill d n.tok v .clean) | none => s)
    | some who =>
      let s := if n.core ≠ coreOf n.strand then scratchWrite s n.core n.off 4 v.toNat
        else match savedWord s m who n.off, gridOf s m who.1 with
          | some o, some g => patchRecord s n.strand g who.2 o 4 v.toNat
          | _, _ => s
      let s := deliverSaved s n.strand who n.dest none v
      .next (match s.strands.find? (fun e => match e.2.start with | some r => r.grid == who.1 && r.vsi == who.2 | none => false) with
        | some e => s.post (.contextRestore e.1)
        | none => s)

/-! ## GETID and YIELD (R303, R304) -/

/-- The value of a GETID selector. -/
def getidValue (s : State) (c : Cont) (sel : Nat) : Nat :=
  match sel with
  | 0 => c.grid
  | 1 => c.vsi
  | 2 => c.group
  | 3 => c.rank
  | 4 => c.gsize
  | 5 => c.gcore
  | 6 => match gridOf s (moduleOf s.cur) c.grid with | some g => g.nstr | none => 0
  | 7 => c.glvl
  | 8 => c.pri
  | 9 => s.cur % 384
  | _ => moduleOf s.cur
/-- getid. -/
def execGetid (d : Reg) (sel : BitVec 4) (s : State) : Host.Outcome State Fault Refusal := finish do
  let c ← needCont s
  writeBackS s d (BitVec.ofNat 64 (getidValue s c sel.toNat))
/-- A record of equal or higher priority could be dispatched at once if the running strand were freed: its placement takes this strand, which completes
it together with the strands already free and not kept for another group (R287, R304). -/
def eligible (s : State) (c : Cont) : Bool :=
  let m := moduleOf s.cur
  let cs := candidates s m
  cs.any (fun x => decide (c.pri ≤ x.pri) && (match x.clus with | some cl => cl == clusterOf s.cur | none => true)
    && (layoutFor s m x (fun p => (p == s.cur || strandFree s m p) && notKept s m cs x p)).isSome && (layoutFor s m x (availFor s m cs x)).isNone)
/-- yield. -/
def execYield (ckv : Bool) (cki : BitVec 9) (s : State) : Host.Outcome State Fault Refusal := finish do
  let c ← needCont s
  if canYield s.me && eligible s c then .ok (yieldNow s (ckOf ckv cki) .device true) else advance s

/-! ## HALT (07 R134) -/

/-- A drain of strand p stands in its core's matrix queue. -/
def drainQueued (s : State) (p : Nat) : Bool :=
  (s.core (coreOf p)).mx.queue.any (fun o => match o with | .drain q _ _ _ _ _ _ _ _ => q == p | _ => false)
/-- halt: once the strand's producers have completed it stops, with its state intact, and the management controller is told. -/
def execHalt (s : State) : Host.Outcome State Fault Refusal := finish do
  needS s
  if !s.me.prods.isEmpty || drainQueued s s.cur || decide (0 < s.me.atomics) || s.remote.any (fun r => r.strand == s.cur) || !(mine s s.cur).isEmpty
    || (s.hamper (moduleOf s.cur)).nextw.any (fun n => n.strand == s.cur && n.saved.isNone) then wait s
  else .ok ((s.updMe (fun st => { st with run := .halted })).updMod (moduleOf s.cur) (fun m =>
    { m with mgmt := { m.mgmt with halts := m.mgmt.halts ++ [s.cur % 384] } }))

/-! ## Interrupts (05 R89, R90, R92, 02 R34) -/

/-- A doorbell reaches strand p; one that runs no continuation discards it. -/
def execDoorbellArrival (p : Nat) (s : State) : Host.Outcome State Fault Refusal :=
  .next (s.updStrand p (fun st => if st.cont.isSome then { st with status := { st.status with intdb := true } } else st))
/-- A report of a failed access reaches strand p. -/
def execUeDataReport (p : Nat) (qual : Byte) (addr : Word) (s : State) : Host.Outcome State Fault Refusal := .next (s.report p qual addr)
/-- A save of the strand goes before any interrupt: one that has landed, a yield, or a forced save that is due at U (05 R89, R96). -/
def Strand.saveFirst (st : Strand) (clk : Nat) : Bool :=
  st.landed.isSome || st.yielded.isSome
    || (!st.status.prv && (st.saveDue.isSome || (st.status.preq && decide (st.preqClk + Config.watchdog ≤ clk))))
/-- The strand stands at an interruptible point where nothing goes before an interrupt; a wait of IDLE has ended before one is taken (07 R134). -/
def Strand.interruptible (st : Strand) (clk : Nat) : Bool := (st.run == .active || st.run == .waiting) && !st.saveFirst clk && !st.atIdle
/-- The strand takes an S interrupt that is pending. -/
def Strand.takesInt (st : Strand) (clk : Nat) : Bool := st.interruptible clk && st.status.ie
/-- The DOORBELL interrupt: INTDB is cleared. A UE_DATA report goes first. -/
def execDoorbell (p : Nat) (s : State) : Host.Outcome State Fault Refusal :=
  let st := s.strand p
  if st.takesInt s.clk && st.status.intdb && st.reports.isEmpty then
    .next (takeTrapOn (s.updStrand p (fun st => { st with status := { st.status with intdb := false } })) p { code := 0x20, int := true })
  else .next s
/-- The UE_DATA interrupt: the oldest report leaves, its QUAL and address in CAUSE and TVAL. -/
def execUeDataInterrupt (p : Nat) (s : State) : Host.Outcome State Fault Refusal :=
  let st := s.strand p
  match st.reports with
  | [] => .next s
  | r :: rest =>
    if st.takesInt s.clk then
      .next (takeTrapOn (s.updStrand p (fun st => { st with reports := rest })) p { code := 0x10, qual := r.qual.toNat, tval := r.addr, int := true })
    else .next s
/-- The strand takes a completion interrupt: no S interrupt goes before it (05 R89, R92). -/
def Strand.takesUser (st : Strand) (clk : Nat) : Bool :=
  st.interruptible clk && !(st.status.ie && (st.status.intdb || !st.reports.isEmpty)) && !st.status.prv && st.ui.uie && !st.status.uiact
/-- The lowest pending completion interrupt enters the handler at UIVEC, and the replay buffer is released (07 R127); a line that fails its check leaves it
pending and traps to S. -/
def execUserInterruptEntry (p : Nat) (s : State) : Host.Outcome State Fault Refusal :=
  let st := s.strand p
  if st.takesUser s.clk then
    match (List.range 32).find? (fun n => st.ui.pend.getLsbD n) with
    | none => .next s
    | some n =>
      match checkTarget (s.updStrand p (fun st => { st with replay := none })) p st.ui.vec false with
      | (.error e, s) => .next (takeTrapOn s p e)
      | (.ok l, s) =>
        .next (s.updStrand p (fun st =>
          ({ st with
            ui := { st.ui with epc := st.pc, cur := BitVec.ofNat 5 n, pend := st.ui.pend &&& ~~~(1#32 <<< n) }
            status := { st.status with uiact := true }, replay := none, early := [], tested := none, asked := none, sealing := none }).enter st.ui.vec l))
  else .next s

/-- A head that is no instruction raises ILLEGAL_OPCODE, with its words in TVAL (02 R36, R41). -/
def execIllegalOpcode (head tail0 : Half) (s : State) : Host.Outcome State Fault Refusal :=
  finish (raise s 0x01 0 (head.setWidth 64 ||| (tail0.setWidth 64 <<< 16)))

end Sys2Proof.Machine
end

