-- ==== Sys2Proof/Machine/Collect.lean ====
section
/-! DEFINITION. Major 0x6C, BIND and UNBIND, and the events of a collective: a push, a fold, the sending and the arrival of a result group
(19 R321 to R329); and a packet's move to the escape channel (19 R311). -/
namespace Sys2Proof.Machine

/-! ## The record and the member table (19 R321, R322) -/

/-- Dword i of a record. -/
def recDw (v i : Nat) : Nat := v / 2 ^ (64 * i) % 2 ^ 64
/-- C0, C1 and TOT. -/
def recC0 (v : Nat) : Nat := recDw v 3 % 2 ^ 32
def recTot (v : Nat) : Nat := recC0 v * (recDw v 3 / 2 ^ 32)
/-- NMEM, LVL, OP and TAG. -/
def recNmem (v : Nat) : Nat := recDw v 5 / 2 ^ 32 % 4096
def recLvl (v : Nat) : Nat := recDw v 5 / 2 ^ 24 % 8
def recOp (v : Nat) : Nat := recDw v 5 / 2 ^ 16 % 16
def recTag (v : Nat) : Nat := recDw v 5 % 16
/-- The reserved fields are zero. -/
def recClean (v : Nat) : Bool :=
  recDw v 5 / 2 ^ 44 == 0 && recDw v 5 / 2 ^ 27 % 32 == 0 && recDw v 5 / 2 ^ 20 % 16 == 0 && recDw v 5 / 2 ^ 4 % 4096 == 0
    && recDw v 6 == 0 && recDw v 7 == 0
/-- The address of position p. -/
def recPos (v p : Nat) : Word :=
  BitVec.ofNat 64 (recDw v 0) + BitVec.ofNat 64 (p % recC0 v) * BitVec.ofNat 64 (recDw v 1)
    + BitVec.ofNat 64 (p / recC0 v) * BitVec.ofNat 64 (recDw v 2)
/-- A member table entry's reserved fields are zero. -/
def memClean (e : Nat) : Bool := e / 2 ^ 30 == 0 && e / 2 ^ 9 % 256 == 0
/-- The domain-wide strand number of an entry; a PSTRAND above 383 names no strand of any module, and gives a number that no strand has. -/
def memStrand (e : Nat) : Nat := if e % 512 < 384 then e / 2 ^ 22 % 256 * 384 + e % 512 else 98304 + e % 512
/-- VREG of an entry. -/
def memReg (e : Nat) : Nat := e / 2 ^ 17 % 32
/-- An element tag that a record may have, with an operation that it may have. -/
def recKindOk (v : Nat) : Bool :=
  decide (recOp v ≤ 5) && [4, 5, 6, 7, 13, 14].contains (recTag v) && !(decide (3 ≤ recOp v) && tagFloat (recTag v))

/-- OP's identity in TAG's format (19 R323). -/
def identityOf (op tag : Nat) : Nat :=
  let n := tagWidth tag
  match op with
  | 1 => if tagFloat tag then packFmt (fmtOf tag) (.inf false) else if tagSigned tag then 2 ^ (n - 1) - 1 else 2 ^ n - 1
  | 2 => if tagFloat tag then packFmt (fmtOf tag) (.inf true) else if tagSigned tag then 2 ^ (n - 1) else 0
  | 3 => 2 ^ n - 1
  | _ => 0
/-- A register with one value in every element of width w. -/
def fillElems (w x : Nat) : BitVec 16384 := (List.range (16384 / w)).foldl (fun v e => setElemBits v w e x) 0

/-- fold(v, c) (19 R325). -/
def foldVal (op tag v c : Nat) : Nat :=
  let n := tagWidth tag
  if tagFloat tag then
    let f := fmtOf tag
    let a := decodeElem tag v
    let b := decodeElem tag c
    packFmt f (match op with
      | 0 => (toFormat f 0 (fvAdd 0 a b).1).1
      | 1 => fvMin a b
      | _ => fvMax a b)
  else
    let lt := fun (x y : Nat) => if tagSigned tag then decide (toSigned n x < toSigned n y) else decide (x < y)
    match op with
    | 0 => (v + c) % 2 ^ n
    | 1 => if lt c v then c else v
    | 2 => if lt v c then c else v
    | 3 => v &&& c
    | 4 => v ||| c
    | _ => v ^^^ c

/-! ## BIND and UNBIND (19 R323, R327, R329) -/

/-- The member table as the running strand reads it, entry by entry. -/
def readMembers (s : State) (mtab n : Nat) : Res (List Nat × State) :=
  (List.range n).foldlM (fun (acc : List Nat × State) i => do
    let va := BitVec.ofNat 64 (mtab + 8 * i)
    aligned acc.2 va 8
    let (a, s) ← access acc.2 va { kind := .read }
    let (r, s) := readAcc s a va 8
    if r.2 then raise s 0x10 1 va else .ok (acc.1 ++ [r.1], s)) ([], s)

/-- The check of one position as a write of n bytes, and, since a fold is an atomic, that its page is not versioned (15 R265): its physical address, SHARE,
page and DIR.
(DEDUCED, unsafe: notes/assumptions/33.) -/
def checkPos (s : State) (va : Word) (n : Nat) (touch : Bool) : Option (Nat × Nat × Nat × Bool) × State :=
  if va.toNat % n ≠ 0 then (none, s)
  else match checkAccess s s.cur va { kind := .write, touch := touch } with
    | (.error _, s) => (none, s)
    | (.ok a, s) => (if a.vers then none else some (a.pa, a.share, a.tlb.base, a.dir), s)
/-- Every position checked: (physical, virtual) address and DIR, unless a check fails or the positions lie on more than 16 pages or on one whose
SHARE is not LVL. -/
def checkArea (s : State) (v : Nat) (touch : Bool) : Option (List (Nat × Word × Bool)) × State :=
  let n := tagWidth (recTag v) / 8
  let r := (List.range (recTot v)).foldl (fun (acc : List (Option (Nat × Nat × Nat × Bool) × Word) × State) p =>
    let va := recPos v p
    let x := checkPos acc.2 va n touch
    (acc.1 ++ [(x.1, va)], x.2)) ([], s)
  let ok := r.1.filterMap (fun x => x.1.map (fun a => (a, x.2)))
  let pages := (ok.map (fun x => x.1.2.2.1)).eraseDups
  if ok.length = r.1.length ∧ ok.all (fun x => x.1.2.1 == recLvl v) = true ∧ pages.length ≤ 16 then (some (ok.map (fun x => (x.1.1, x.2, x.1.2.2.2))), r.2)
  else (none, r.2)

/-- The conditions of CBADREC do not hold: record v, entries ms, the strand's register r as member m. -/
def recOk (s : State) (v : Nat) (ms : List Nat) (r : Nat) (m : Nat) : Bool :=
  let st := s.me
  recClean v && recNmem v != 0 && recKindOk v && decide (1 ≤ recLvl v) && decide (recLvl v ≤ 5) && recTot v != 0 && decide (m < recNmem v)
    && ms.all memClean && (match ms[m]? with | some e => memStrand e == s.cur && memReg e == r | none => false)
    && st.tag r == recTag v && st.nvl != 0 && decide (st.nvl * tagWidth (recTag v) ≤ 16384)

/-- A status of BIND that binds nothing. -/
def bindStatus (code : Nat) : Word := BitVec.ofNat 64 (2 ^ 63 + code)

/-- vR is bound as member m: the use of the record that the first member's BIND began, or a new one, and the binding (19 R323).
(DEDUCED, unsafe: notes/assumptions/26.) -/
def bindTo (s : State) (v : Nat) (ms : List Nat) (places : List (Nat × Word × Bool)) (r m : Nat) : State :=
  let base := (places.headD (0, 0, false)).1
  let (key, s) := match s.colls.find? (fun c => c.pa = base ∧ ¬ c.joined.contains m) with
    | some c => (c.key, { s with colls := s.colls.map (fun (x : Coll) => if x.key = c.key then { x with joined := x.joined ++ [m] } else x) })
    | none =>
      let (t, s) := s.token
      let c : Coll := { key := t, pa := base, nmem := recNmem v, tot := recTot v, op := recOp v, tag := recTag v, lvl := recLvl v, place := places
                        members := ms.map (fun e => (memStrand e, memReg e)), joined := [m], next := [], wait := [], results := [] }
      (t, { s with colls := s.colls ++ [c] })
  let b : Binding := { reg := r, coll := key, member := m, w := s.me.nvl, buf := fillElems (tagWidth (recTag v)) (identityOf (recOp v) (recTag v)), bad := 0
                       pend := [], pushed := 0, groups := [], got := 0 }
  let s := s.updMe (fun st => { st.dirty (dirtyV [r]) with bindings := st.bindings ++ [b] })
  s.updMycore (fun c => { c with v := mset r { mget VReg.zero c.v r with full := false, tok := 0 } c.v })

/-- bind (19 R323); a register tagged s8 has no TAG that a record names, so it is CBADREC.
(DESIGN CHOICE, unsafe: notes/assumptions/57.) -/
def execBind (o : BindOps) (s : State) : Host.Outcome State Fault Refusal := finish do
  needVs s
  let r := o.r.toNat
  let s := settle s (coreOf s.cur)
  let vp := s.mycore.vpart
  legal s (ownsV vp s.cur r && !isChannel vp r && (s.boundAt (coreOf s.cur) r).isNone)
  operands s [.s o.b o.fb, .s o.c o.fc]
  if !writable s [r] then wait s
  else
    let va := sv s o.b
    let m := (sv s o.c).toNat
    aligned s va 64
    let (a, s) ← access s va { kind := .read }
    let (rd, s) := readAcc s a va 64
    if rd.2 then raise s 0x10 1 va
    else
      let v := rd.1
      let (ms, s) ← readMembers s (recDw v 4) (recNmem v)
      if !recOk s v ms r m then writeBackS s o.e (bindStatus 1)
      else
        let chk := checkArea s v false
        match chk.1 with
        | none => writeBackS chk.2 o.e (bindStatus 2)
        | some places =>
          if 2 ≤ chk.2.me.bindings.length then writeBackS chk.2 o.e (bindStatus 3)
          else writeBackS (bindTo (checkArea chk.2 v true).2 v ms places r m) o.e 0

/-- Uses of records that no strand is bound to and whose members have all bound, with every contribution folded, are gone. -/
def dropUses (s : State) : State :=
  { s with colls := s.colls.filter (fun c =>
      decide (c.joined.length < c.nmem) || !c.wait.isEmpty || s.strands.any (fun e => e.2.bindings.any (fun b => b.coll == c.key))) }

/-- unbind (19 R329). -/
def execUnbind (d r : Reg) (s : State) : Host.Outcome State Fault Refusal := finish do
  needVs s
  match s.me.bindings.find? (fun b => b.reg = r.toNat) with
  | none => illegal s
  | some b =>
    legal s (b.w == s.me.nvl)
    if fabBusy s (coreOf s.cur) b.reg then wait s
    else
      let s := settle s (coreOf s.cur)
      match s.me.bindings.find? (fun b => b.reg = r.toNat) with
      | none => illegal s
      | some b =>
        if 0 < pushesOut s s.cur b then wait s
        else
          let tot := match s.colls.find? (fun c => c.key = b.coll) with | some c => c.tot | none => 0
          let s := s.setS d (BitVec.ofNat 64 (Nat.min (b.pushed * b.w) tot % 2 ^ 32))
          advance (dropUses (endBinding s s.cur b))

/-! ## Pushes, folds and results (19 R324 to R326) -/

/-- The oldest waiting push of the binding of register r by strand p leaves for the fold unit (19 R324). -/
def execPushBufferPush (p r : Nat) (s : State) : Host.Outcome State Fault Refusal := .next (pushOne s p r)

/-- The fold of a contribution at its position: one atomic at LVL (19 R325, 15 R267, 23 R375). What it answers: the state, the position's
value, and whether it is poisoned. On a DIR page the tag is left alone (15 R265).
(DEDUCED, unsafe: notes/assumptions/33.) -/
def foldAt (s : State) (c : Coll) (x : Contrib) : State × Nat × Bool :=
  let pl := c.place.getD x.pos (0, 0, false)
  let n := tagWidth c.tag
  let s := serveDegraded s pl.1
  let s := drainGroup s (granOf pl.1) 5 x.strand
  let old := homeRead s pl.1 (n / 8)
  if x.bad || (old.2 && x.member != 0) then
    let e := physOf s pl.1 / 64
    (dropCopies { s with poison := e :: s.poison.filter (· ≠ e) } (granOf pl.1) (fun _ => true), 0, true)
  else
    let v := if x.member = 0 then x.bits else foldVal c.op c.tag old.1 x.bits
    if pl.2.2 then (homePut s x.strand pl.1 (n / 8) v pl.2.1, v, old.2)
    else
      let s := atomicEvent s (granOf pl.1) c.lvl 0 x.strand true pl.2.1
      (atomicPut s c.lvl x.strand pl.1 (n / 8) v pl.2.1, v, old.2)

/-- The next member's contribution to position pos of the use with the number k is folded, when it has arrived; the last member's fold gives
the result. A home that no port reaches is reported (19 R319); a target that refuses the fold is reported to firmware (24 R386, R387). -/
def execFoldContribution (k pos : Nat) (s : State) : Host.Outcome State Fault Refusal :=
  match s.colls.find? (fun c => c.key = k) with
  | none => .next s
  | some c =>
    let i := mget 0 c.next pos
    let pl := c.place.getD pos (0, 0, false)
    match c.wait.find? (fun x => x.pos = pos ∧ x.member = i ∧ s.arrived x.msg = true) with
    | none => .next s
    | some x => if heldAt s pl.1 then .next (s.post (.foldContribution k pos)) else
      let gone := s.lost.contains x.msg
      let s := s.delivered x.msg
      let s := { s with colls := s.colls.map (fun y => if y.key = k then { y with wait := y.wait.erase x } else y) }
      if gone || unreachable s (moduleOf x.strand) pl.1 then .next (dropUses (wakeFabric (s.report x.strand 6 pl.2.1) x.strand))
      else if !tableAllows s (moduleOf x.strand) pl.1 .atomic then
        .next (dropUses (wakeFabric (s.toFirmware (moduleOf x.strand) 1024 pl.2.1) x.strand))
      else
        let f := foldAt s c x
        let last := decide (c.nmem ≤ i + 1)
        let s := { f.1 with colls := f.1.colls.map (fun (y : Coll) => if y.key = k then
          { y with next := mset pos (i + 1) y.next, results := if last then mset pos f.2 y.results else y.results } else y) }
        let s := if last then s.post (.resultGroupMulticast k) else s.post (.foldContribution k pos)
        .next (dropUses (wakeFabric s x.strand))

/-- Group g of W results, when every position in it has its result: its bits, zero past TOT, and its poison by chunk (19 R326). -/
def groupReady (c : Coll) (w g : Nat) : Option (BitVec 16384 × BitVec 32) :=
  let ps := (List.range w).filter (fun e => g * w + e < c.tot)
  if ps.isEmpty || !ps.all (fun e => c.results.any (fun r => r.1 == g * w + e)) then none
  else
    let n := tagWidth c.tag
    some (ps.foldl (fun v e => setElemBits v n e (mget (0, false) c.results (g * w + e)).1) 0,
      ps.foldl (fun q e => if (mget (0, false) c.results (g * w + e)).2 then q ||| (1#32 <<< chunkOf n e) else q) 0)

/-- The links of a result group to a core: from the target before it on the die, or from its fold unit, through the hub to another die (R314, R315). -/
def resultRoute (unit pa : Nat) (before : Option Nat) (dst : Nat) : List Hop :=
  match before with
  | some b => if b / 48 = dst / 48 then dieRoute (dst / 48) (b % 48) (dst % 48) else coreRoute unit dst (some pa)
  | none => coreRoute unit dst (some pa)
/-- The next result group goes to a member's register, bound to the use with the number k, when it is ready, as a copy of the multicast with a number;
before is the core visited before (19 R315, R326). -/
def sendGroup (c : Coll) (k cast : Nat) (acc : State × Option Nat) (m : Nat × Nat) : State × Option Nat :=
  match (acc.1.strand m.1).bindings.find? (fun b => b.reg = m.2 ∧ b.coll = k) with
  | none => acc
  | some b => match groupReady c b.w b.got with
    | none => acc
    | some g =>
      let core := coreOf m.1
      let x := acc.1.token
      let home := x.2.answers (paModule c.pa)
      let unit := homeRouter home c.pa
      let s := inject x.2 x.1 .multicast unit core (resultRoute unit c.pa acc.2 core) cast
      let s := sendMsg s home (moduleOf m.1) x.1
      let s := s.setBinding m.1 { b with groups := b.groups ++ [(g.1, g.2, x.1)], got := b.got + 1 }
      let s := s.post (.resultGroupFill m.1 m.2)
      (if (groupReady c b.w (b.got + 1)).isSome then s.post (.resultGroupMulticast k) else s, some core)
/-- The members of a use in the order in which a multicast visits them (R315). -/
def Coll.visits (c : Coll) : List (Nat × Nat) :=
  c.members.mergeSort (fun a b => decide (coreOf a.1 / 48 < coreOf b.1 / 48)
    || (coreOf a.1 / 48 == coreOf b.1 / 48 && decide (snakeIx (coreOf a.1 % 48) ≤ snakeIx (coreOf b.1 % 48))))

/-- The next result group of each register bound to the use with the number k is sent to it, when it is ready (19 R315, R326). -/
def execResultGroupMulticast (k : Nat) (s : State) : Host.Outcome State Fault Refusal :=
  match s.colls.find? (fun c => c.key = k) with
  | none => .next s
  | some c => .next (c.visits.foldl (sendGroup c k (s.tokens + 1)) (s, none)).1

/-- An earlier target on the die of a multicast has still to take its copy: it is under way, or its register is free for it (R315). -/
def castHeld (s : State) (msg : Nat) : Bool :=
  match s.net.find? (fun x => x.msg = msg) with
  | none => false
  | some x => (s.net.takeWhile (fun y => y.msg != msg)).any (fun y => y.cast == x.cast && x.cast != 0 && y.dst / 48 == x.dst / 48
      && (s.transit.contains y.msg || s.strands.any (fun e => e.2.bindings.any (fun b =>
        (b.groups.head?.map (·.2.2)) == some y.msg && !(mget VReg.zero (s.core (coreOf e.1)).v b.reg).full))))

/-- Register r, held bound by strand p, fills with its next group once that has come and the one before has been consumed (19 R326). A group that
Dexlink has lost is reported (R319; the address of that report is the model's: the register). -/
def execResultGroupFill (p r : Nat) (s : State) : Host.Outcome State Fault Refusal :=
  let s := settle s (coreOf p)
  match (s.strand p).bindings.find? (fun b => b.reg = r) with
  | none => .next s
  | some b =>
    match b.groups with
    | [] => .next s
    | g :: rest =>
      let core := coreOf p
      if !s.arrived g.2.2 || (mget VReg.zero (s.core core).v r).full then .next s
      else if castHeld s g.2.2 then .next (s.post (.resultGroupFill p r))
      else
        let gone := s.lost.contains g.2.2
        let s := (s.delivered g.2.2).setBinding p { b with groups := rest }
        if gone then .next ((s.report p 6 (BitVec.ofNat 64 r)).post (.resultGroupFill p r))
        else .next (wakeFabric (s.updCore core (fun c => { c with v := mset r ⟨g.1, true, g.2.1, 0⟩ c.v })) p)

/-- The k-th packet in flight, when its head has waited 64 clk for a virtual channel, moves to the escape channel; its order among its pair's packets of
its class stays (19 R311, R313). -/
def execEscapeChannelTimeout (k : Nat) (s : State) : Host.Outcome State Fault Refusal :=
  match s.net[k]? with
  | none => .next s
  | some x =>
    if x.esc || x.path.isEmpty || s.clk < x.since + 64 then .next s
    else
      let (f, s) := s.draw
      .next { s with net := s.net.set k (x.escape (f % x.path.length)) }

end Sys2Proof.Machine
end

