-- ==== Sys2Proof/Machine/Dexlink.lean ====
section
/-! DEFINITION. The Dexlink retry of 19 R317 to R319, and the accesses of masters outside the strands (04 R407, 24 R386, R387). An event's port number
24 q + i is port i of its module as it faces module q. A data flit carries the message that its sender keeps for replay; the message has arrived once the flit
is accepted. -/
namespace Sys2Proof.Machine

/-! ## Retry (19 R318, R319) -/

/-- The peer's number of port k of module m. -/
def peerPort (m k : Nat) : Nat := m * 24 + k % 24
/-- What port k of module m keeps for the module that it faces. -/
def linkOf (s : State) (m k : Nat) : DexLink := linkAt s m (k % 24) (k / 24)
/-- It, replaced. -/
def setLinkOf (s : State) (m k : Nat) (l : DexLink) : State := setLink s m (k % 24) (k / 24) l
/-- Port k of module m is up. -/
def portUp (s : State) (m k : Nat) : Bool := (portAt s m (k % 24)).up
/-- Sequence number a stands before b, modulo 4,096. -/
def seqBefore (a b : Nat) : Bool := decide ((b + 4096 - a) % 4096 < 2048) && a != b

/-- What a message, come to its module or lost, sets going: the event of the entry that it carries. -/
def wakeMsg (s : State) (msg : Nat) : State :=
  if msg = 0 then s
  else
    let s := if s.homeq.any (fun r => r.msg == msg) then s.post (.atomicHomeEvent 0 false) else s
    let s := if s.merges.any (fun m => m.msg == msg) then s.post (.homeWriteMerge 0 false) else s
    let s := if s.deltas.any (fun d => d.msg == msg) then s.post (.parityDeltaFold 0 false) else s
    let s := if s.adq.any (fun u => u.msg == msg) then s.post (.adBitUpdate 0) else s
    let s := match s.remote.find? (fun r => r.msg == msg) with
      | some r => s.post (if r.mc = 0 then .remoteScratchpadArrival 0 else .mcastTargetWrite r.strand 0)
      | none => s
    let s := match s.strands.find? (fun e => e.2.prods.any (fun x => x.msg == msg)) with
      | some e => s.post (.loadDataArrival e.1 0 false)
      | none => s
    let s := match s.colls.findSome? (fun c => (c.wait.find? (fun x => x.msg == msg)).map (fun x => (c.key, x.pos))) with
      | some k => s.post (.foldContribution k.1 k.2)
      | none => s
    match s.strands.findSome? (fun e => (e.2.bindings.find? (fun b => b.groups.any (fun g => g.2.2 == msg))).map (fun b => (e.1, b.reg))) with
    | some k => s.post (.resultGroupFill k.1 k.2)
    | none => s
/-- A message has come to its module. -/
def landMsg (s : State) (msg : Nat) : State := wakeMsg { s with transit := s.transit.filter (· ≠ msg) } msg

/-- Two modules that no port joins any more are unreachable to each other. -/
def cutOff (s : State) (m : Nat) : State :=
  (List.range 256).foldl (fun s q =>
    if q = m || (List.range 24).any (fun i => portJoins s m q i) then s
    else
      let cut := fun (s : State) (a b : Nat) => s.updMod a (fun y => { y with unreach := b :: y.unreach.filter (· ≠ b) })
      cut (cut s m q) q m) s
/-- The messages that a link has not had acknowledged, oldest first. -/
def DexLink.unsent (l : DexLink) : List Nat := l.replay.map (·.2.2) ++ l.queue
/-- A message that has not come to its module goes another way; what no port can carry is lost, which its entry meets at once. -/
def reroute (s : State) (a b msg : Nat) : State :=
  if msg = 0 || s.arrived msg then s else wakeMsg (sendMsg { s with transit := s.transit.filter (· ≠ msg) } a b msg) msg
/-- A port of module m is down: its unacknowledged traffic, and what its peers have for it, moves to the endpoints' other ports, and a peer with no port left is
unreachable (19 R319). -/
def portDown (s : State) (m k : Nat) : State :=
  let i := k % 24
  let mine := (portAt s m i).links.map (fun e => (e.1, e.2.unsent))
  let theirs := s.mods.filterMap (fun e => if e.1 = m then none else some (e.1, (linkAt s e.1 i m).unsent))
  let s := setPort s m i { portAt s m i with up := false, links := [] }
  let s := theirs.foldl (fun s e => if e.2.isEmpty then s else setLink s e.1 i m DexLink.reset) s
  let s := cutOff s m
  let s := mine.foldl (fun s e => e.2.foldl (fun s x => reroute s m e.1 x) s) s
  theirs.foldl (fun s e => e.2.foldl (fun s x => reroute s e.1 m x) s) s

/-- The unacknowledged flits from a number on are sent again; after 64 resends of one the port is down. -/
def resendFrom (s : State) (m k seq : Nat) : State :=
  let x := linkOf s m k
  let again := fun (e : Nat × Nat × Nat) => !seqBefore e.1 seq
  if x.replay.any (fun e => again e && decide (64 ≤ e.2.1)) then portDown s m k
  else
    let s := setLinkOf s m k { x with ackClk := s.clk, replay := x.replay.map (fun e => if again e then (e.1, e.2.1 + 1, e.2.2) else e) }
    (x.replay.filter again).foldl (fun s e => s.post (.flitReceive (k / 24) (peerPort m k) (dataFlit s x e.1 e.2.2))) s

/-- Messages that waited for room leave while there is some. -/
def pump (s : State) (m k : Nat) : State :=
  let l := linkOf s m k
  l.queue.foldl (fun s x => queueFlit s m (k % 24) (k / 24) x) (setLinkOf s m k { l with queue := [] })
/-- What a link keeps once the peer has acknowledged the flits up to a number. -/
def DexLink.acked (l : DexLink) (ack clk : Nat) : DexLink :=
  let left := l.replay.filter (fun e => !(seqBefore e.1 ack || e.1 == ack))
  { l with replay := left, ackClk := if left.length < l.replay.length then clk else l.ackClk }
/-- What a link keeps once a flit has been accepted: a data flit takes a sequence number, another brings an ACK alone. -/
def DexLink.accept (l : DexLink) (f : Flit) (clk : Nat) : DexLink :=
  { l.acked f.ack.toNat clk with rx := if f.type = 1 then (l.rx + 1) % 4096 else l.rx, got := l.got + 1 }
/-- An accepted data flit's message has come, and an idle flit takes its ACK back. -/
def landFlit (s : State) (m k : Nat) (f : Flit) : State :=
  if f.type ≠ 1 then s
  else
    let s := match (linkAt s (k / 24) (k % 24) m).replay.find? (fun e => e.1 = f.seq.toNat) with
      | some e => landMsg s e.2.2
      | none => s
    let l := linkOf s m k
    s.post (.flitReceive (k / 24) (peerPort m k) ⟨BitVec.ofNat 12 l.tx, BitVec.ofNat 12 (l.rx + 4095), 0, 0, true, true⟩)

/-- A flit arrives at port k of module m: accepted in sequence with its acknowledgement, or dropped, with a NAK where it fails its CRC, is out of
sequence or finds no buffer; a TYPE above 2 is dropped as an error. A NAK flit names the one after its ACK (19 R318, R319).
(DESIGN CHOICE, unsafe: notes/assumptions/41.) -/
def execFlitReceive (m port : Nat) (f : Flit) (s : State) : Host.Outcome State Fault Refusal :=
  let x := linkOf s m port
  if !portUp s m port then .next s
  else if !f.crcOk || f.seq.toNat != x.rx || !f.room then
    .next ((setLinkOf s m port { x with naks := x.naks ++ [x.rx] }).post (.nakReceive (port / 24) (peerPort m port) (BitVec.ofNat 12 x.rx)))
  else if 2 < f.type.toNat then .next s
  else
    let s := pump (setLinkOf s m port (x.accept f s.clk)) m port
    .next (if f.type = 2 then resendFrom s m port ((f.ack.toNat + 1) % 4096) else landFlit s m port f)

/-- A NAK arrives at port k of module m: its ACK is the number before the flit that it names, from which the sender resends. -/
def execNakReceive (m port : Nat) (seq : BitVec 12) (s : State) : Host.Outcome State Fault Refusal :=
  if portUp s m port then
    .next (resendFrom (pump (setLinkOf s m port ((linkOf s m port).acked ((seq.toNat + 4095) % 4096) s.clk)) m port) m port seq.toNat)
  else .next s

/-- 2,048 clk have passed without a new ACK: the sender resends from its oldest flit. -/
def execReplayTimeout (m port : Nat) (s : State) : Host.Outcome State Fault Refusal :=
  let x := linkOf s m port
  match x.replay with
  | [] => .next s
  | e :: _ => if portUp s m port ∧ x.ackClk + 2048 ≤ s.clk then .next (resendFrom s m port e.1) else .next s

/-- A lane of port k of module m fails training and is dropped: the port runs at width 4 or 2, and with fewer than two lanes left not at all (19 R317). -/
def execLaneTrainingFailure (m port : Nat) (s : State) : Host.Outcome State Fault Refusal :=
  let x := portAt s m (port % 24)
  if !x.up then .next s
  else
    let s := setPort s m (port % 24) { x with lanes := x.lanes - 1 }
    .next (if x.lanes - 1 < 2 then portDown s m port else s)

/-- The width at which a port runs (19 R317). -/
def DexPort.width (x : DexPort) : Nat := if 8 ≤ x.lanes then 8 else if 4 ≤ x.lanes then 4 else if 2 ≤ x.lanes then 2 else 0

/-! ## Masters outside the strands (04 R407) -/

/-- A write at a home that acts on granule g as an atomic at DOMAIN does under 04 R67: drains, copies, G and T. -/
def domainEvent (s : State) (g : Nat) : State :=
  let s := dropCopies (drainGroup s g 5 0) g (fun _ => true)
  if (s.tag g).corrupt then s else s.setTag g { (s.tag g) with t := 5, gl := 5, fx := false, md := 0, gid := 0 }

/-- Bytes of such a master enter coherence order at the home. -/
def domainWrite (s : State) (pa n v : Nat) : State :=
  let cells := cellsOf pa n v
  let s := ((cells.map (fun c => granOf c.1)).eraseDups).foldl domainEvent s
  wakeQueue (((cells.map (fun c => c.1 / 64)).eraseDups).foldl (fun t e => homeWriteEcc t (cells.filter (fun c => c.1 / 64 = e)) [] false) s) pa

/-- The number that stands for the PCIe port of a module, which reaches the mailbox alone (24 R388).
(DESIGN CHOICE, unsafe: notes/assumptions/43.) -/
def pcieEp : Nat := 1024

/-- The target lets the master in: the PCIe port to the mailbox, a host adapter through its access-table entry; a frame of a protected region is
not written without a parity group (22 R360).
(DEDUCED, unsafe: notes/assumptions/46.) -/
def hostAllowed (s : State) (ep pa n : Nat) (k : Kind) : Bool :=
  n != 0 && decide (n ≤ 64) && (
    if ep = pcieEp then areaOf pa == .mailbox && areaOf (pa + n - 1) == .mailbox && k != .atomic
    else decide (256 ≤ ep) && decide (ep ≤ 319) && tableAllows s ep pa k && tableAllows s ep (pa + n - 1) k
      && !protRefuses s 0 pa (k != .read) && !protRefuses s 0 (pa + n - 1) (k != .read))

/-- A response to such a master. -/
def State.reply (s : State) (r : HostReply) : State := { s with replies := s.replies ++ [r] }

/-- The operation of 15 R268 that such an atomic performs; CAS and APPEND have functions of their own. -/
def hostCode : HostOp → Nat
  | .write => 0 | .swap => 0 | .add => 1 | .band => 2 | .bor => 3 | .bxor => 4 | .min => 5 | .max => 6 | .minu => 7 | .maxu => 8 | .cas _ => 9 | .append => 10
/-- Its width and alignment: 4 or 8 bytes, aligned; the header of an APPEND stands at a multiple of 8. -/
def hostShape (op : HostOp) (pa n : Nat) : Bool :=
  match op with
  | .write => true
  | .append => (n == 4 || n == 8) && pa % 8 == 0
  | _ => (n == 4 || n == 8) && pa % n == 0
/-- What it writes over the old value, if anything. -/
def hostNew (op : HostOp) (n old x : Nat) : Option Nat :=
  match op with
  | .write => some x
  | .cas e => if old = uAt (8 * n) e then some x else none
  | _ => some (amoFun (hostCode op) (8 * n) old x)
/-- An APPEND of such a master at the cell of header pa: the element, the count, and the answer of 15 R270; it ends with the 64 KiB frame. -/
def hostAppend (s : State) (pa n x hd : Nat) : State × Nat :=
  let cnt := hd % 2 ^ 32
  let slot := pa + 8 + cnt * n
  if hd / 2 ^ 32 ≤ cnt then (domainEvent s (granOf pa), 2 ^ 64 - 1)
  else if pa / 65536 * 65536 + 65535 < slot then (domainEvent s (granOf pa), 2 ^ 64 - 2)
  else (domainWrite (domainWrite s slot n x) pa 8 (hd / 2 ^ 32 * 2 ^ 32 + (cnt + 1) % 2 ^ 32), cnt)

/-- The host's access needs a module that answers: of a lost number's addresses only the protected ones have one (22 R363). -/
def hostReaches (s : State) (pa n : Nat) : Bool := !lostAt s pa && !lostAt s (pa + n - 1)
/-- It waits at the home: for the next atomic of its granule's queue, or, as an atomic, for those that have arrived before it (15 R262). -/
def hostWaits (s : State) (pa : Nat) (atomic : Bool) : Bool :=
  gapFull s (granOf pa) || (atomic && s.homeq.any (fun r => granOf r.pa == granOf pa && s.arrived r.msg))
/-- A master outside the strands writes n bytes, or performs an atomic on them (04 R407). A refused access has no effect (24 R387). It names no
frame of a protected region (22 R360), so no seal holds it. -/
def execHostWrite (ep pa n : Nat) (op : HostOp) (v : BitVec 512) (s : State) : Host.Outcome State Fault Refusal :=
  let k : Kind := match op with | .write => .write | _ => .atomic
  if !hostAllowed s ep pa n k || !hostReaches s pa n || !hostShape op pa n then .next (s.reply ⟨ep, pa, true, 0, false⟩)
  else if hostWaits s pa (k == .atomic) then .next (s.post (.hostWrite ep pa n op v))
  else
    let s := gapEvent s (granOf pa)
    let s := serveDegraded s pa
    let m := if op = .append then 8 else n
    let d := drainGroup s (granOf pa) 5 0
    let old := homeReadN d pa m
    if k == .atomic && old.2.any id then .next (d.reply ⟨ep, pa, false, 0, true⟩)
    else
      let x := v.toNat % 256 ^ n
      if op = .append then
        let r := hostAppend d pa n x old.1
        .next (r.1.reply ⟨ep, pa, false, r.2, false⟩)
      else match hostNew op n old.1 x with
        | none => .next ((domainEvent s (granOf pa)).reply ⟨ep, pa, false, old.1, false⟩)
        | some new =>
          let s := domainWrite s pa n new
          let s := ringMailbox s ep (cellsOf pa n new)
          .next (s.reply ⟨ep, pa, false, if k == .atomic then old.1 else 0, false⟩)

/-- A master outside the strands reads n bytes: checked as a read by a strand whose lvl to every nonempty G is DOMAIN (04 R407, R64). -/
def execHostRead (ep pa n : Nat) (s : State) : Host.Outcome State Fault Refusal :=
  let seen := fun (g : Nat) => let t := s.tag g; t.corrupt || t.allows (if t.gl = 7 then 0 else 5)
  if !hostAllowed s ep pa n .read || !hostReaches s pa n || !(seen (granOf pa) && seen (granOf (pa + n - 1))) then .next (s.reply ⟨ep, pa, true, 0, false⟩)
  else
    let s := serveDegraded s pa
    let r := homeReadN s pa n
    let gs := [granOf pa, granOf (pa + n - 1)]
    .next (((opensRow s pa).logTags gs).reply ⟨ep, pa, false, r.1, r.2.any id || gs.any (fun g => (s.tag g).corrupt)⟩)

end Sys2Proof.Machine
end

