-- ==== Sys2Proof/Machine/Darning.lean ====
section
/-! DEFINITION. The Darning engine (22): parity groups and PGRP, deltas, a lost member and its rebuild, and major 0x74, SURVQ. -/
namespace Sys2Proof.Machine

/-! ## Descriptors (22 R357, R358) -/

/-- The descriptor of a 64-byte value. -/
def descOf (v : Nat) : PGroup :=
  let b := fun (i n : Nat) => v / 256 ^ i % 256 ^ n
  { members := (List.range (Nat.min 15 (b 16 1) + 1)).map (fun i => b i 1), k := b 16 1, state := b 17 1, lostix := b 18 1, repl := b 19 1
    base := b 24 8, size := b 32 8, done := b 40 8 }
/-- A range of offsets lies within one memory of a module. -/
def inMemory (base size : Nat) : Bool :=
  decide (base + size ≤ 0x8000000000) || (decide (0x20000000000 ≤ base) && decide (base + size ≤ 0x38000000000))
/-- The reserved bytes are zero. -/
def descClean (v : Nat) (g : PGroup) : Bool :=
  v / 256 ^ 20 % 2 ^ 32 == 0 && v / 256 ^ 48 == 0 && g.base / 2 ^ 44 == 0 && v % 2 ^ 128 / 256 ^ (g.k + 1) == 0
/-- A descriptor with STATE not 0 is valid on module m beside the others; a rebuild target, which is no member, holds it too (R365). -/
def descOk (s : State) (m : Nat) (v : Nat) (g : PGroup) (others : List PGroup) : Bool :=
  descClean v g && decide (g.state ≤ 3) && decide (2 ≤ g.k) && decide (g.k ≤ 15) && g.members.eraseDups.length == g.members.length
    && (g.members.any (fun x => x == m || s.answers x == m) || (g.state == 3 && g.repl == m))
    && g.base % 65536 == 0 && g.size != 0 && g.size % ((g.k + 1) * 65536) == 0 && inMemory g.base g.size
    && others.all (fun o => decide (o.base + o.size ≤ g.base) || decide (g.base + g.size ≤ o.base))
    && (if g.state = 1 then g.lostix == 255 else decide (g.lostix ≤ g.k)) && !(g.state == 3 && g.members.contains g.repl)

/-- Firmware writes PGRP of module m: every descriptor of the table is validated; an invalid one is taken as STATE 0 and reported (22 R357,
R358). -/
def writePgrp (s : State) (m : Nat) (v : Word) : State :=
  let w := v &&& 0x000FFFFFFFFFFC01
  let tab := (w &&& 0x000FFFFFFFFFFC00).toNat
  let raw := (List.range 16).map (fun i => s.mem.readN (tab + 64 * i) 64)
  let ds := raw.map descOf
  let r := (List.range 16).foldl (fun (acc : Map PGroup × List Nat) i =>
    let d := descOf (raw.getD i 0)
    let others := (ds.zipIdx.filter (fun x => x.2 ≠ i ∧ x.1.state ≠ 0)).map (·.1)
    if d.state = 0 ∨ descOk s m (raw.getD i 0) d others = true then (acc.1 ++ [(i, d)], acc.2)
    else (acc.1 ++ [(i, { d with state := 0 })], acc.2 ++ [i])) ([], [])
  let s := s.updMod m (fun x => { x with pgrp := w, groups := r.1 })
  r.2.foldl (fun s i => s.toFirmware m 1024 (BitVec.ofNat 64 i)) s

/-- Firmware writes PGRP. -/
def execPgrpWrite (m : Nat) (v : Word) (s : State) : Host.Outcome State Fault Refusal := .next (writePgrp s m v)

/-! ## Deltas and a lost member (22 R361 to R364) -/

/-- The holder of a delta can be reached from its home. -/
def deltaReaches (s : State) (d : Delta) : Bool :=
  match (groupsAt s (s.answers d.home)).find? (fun e => e.1 = d.group) with
  | none => true
  | some (_, g) => !(s.modl (s.answers d.home)).unreach.contains (holderNow s g d.stripe)

/-- The first delta on its way, from the k-th on, that Dexlink has brought to a holder that can be reached is folded there and acknowledged; bad is an
uncorrectable read of the parity row (22 R361, R362). -/
def execParityDeltaFold (k : Nat) (bad : Bool) (s : State) : Host.Outcome State Fault Refusal :=
  match (s.deltas.drop k).find? (fun d => s.arrived d.msg && deltaReaches s d) with
  | none => .next s
  | some d =>
    .next (foldDelta (State.delivered { s with deltas := s.deltas.erase d } d.msg) d bad)

/-- A read by strand p of n bytes at a lost member's address reaches the serving engine, which reconstructs the granule: the survivors' deltas
are folded first, and a poisoned input marks the stripe (22 R364). -/
def execDegradedRead (_p pa n : Nat) (s : State) : Host.Outcome State Fault Refusal :=
  if n = 0 ∨ granOf pa ≠ granOf (pa + n - 1) then .next s else .next (serveDegraded s pa)

/-- A write by strand p of n bytes of value v to a lost member's address, on its way in an outbound slice, is performed by the serving engine
(22 R364). -/
def execDegradedWrite (p pa n : Nat) (v : BitVec 512) (s : State) : Host.Outcome State Fault Refusal :=
  let cells := cellsOf pa n v.toNat
  if n = 0 ∨ degradedAt s pa = none then .next s
  else match s.outbound.find? (fun (o : Outbound) => o.writers.any (fun w => w.strand == p) && cells.all (fun c => o.cells.contains c)) with
    | none => .next s
    | some o => .next (writeBack s o)

/-- A granule of a lost module's number is served by one of its group's members, not by the rebuild target that has taken its tag over (22 R363 to R366). -/
def servedAfresh (s : State) (lost g : Nat) : Bool :=
  granModule g == lost && (match stripeAt s lost (g * 256 % 2 ^ 44) with | some (_, x, _, _) => x.members.contains (s.answers lost) | none => true)
/-- Firmware redirects a lost module number domain-wide: to a serving member, which starts from fresh tags, with no copy of its granules left (22 R363, R364,
04 R76), and later to the rebuild target (R366). Deltas that waited for the holder go on. -/
def execModuleNumberRedirect (lost to_ : Nat) (s : State) : Host.Outcome State Fault Refusal :=
  let s := { s with redirect := mset lost to_ s.redirect }
  let s := { s with tags := s.tags.filter (fun e => !servedAfresh s lost e.1), inbound := s.inbound.filter (fun c => !servedAfresh s lost c.gran) }
  .next (s.deltas.foldl (fun s _ => s.post (.parityDeltaFold 0 false)) s)

/-! ## Rebuild (22 R365) -/

/-- DONE of a group on module x, in the engine and in the descriptor table. -/
def setDone (s : State) (x n done : Nat) : State :=
  let md := s.modl x
  match md.groups.find? (fun e => e.1 = n) with
  | none => s
  | some (_, g) =>
    let tab := (md.pgrp &&& 0x000FFFFFFFFFFC00).toNat
    let s := s.updMod x (fun y => { y with groups := mset n { g with done := done } y.groups })
    { s with mem := Memory.writeN s.mem (tab + 64 * n + 40) 8 done }

/-- A rebuilt frame is written at module m, 64 bytes at a time, each granule poisoned when an input is. -/
def rebuildFrame (s : State) (m : Nat) (g : PGroup) (stripe : Nat) : State :=
  (List.range 1024).foldl (fun t i =>
    let r := reconstruct t g g.lostix stripe (64 * i) 64
    let pa := m * 2 ^ 44 + g.base + stripe * 65536 + 64 * i
    let rest := t.poison.filter (· ≠ pa / 64)
    { t with mem := Memory.writeN t.mem pa 64 r.1, poison := if r.2 then (pa / 64) :: rest else rest })
    (opensStripe (activate s m (m * 2 ^ 44 + g.base + stripe * 65536)) g g.lostix stripe 0)

/-- The first access that the rebuild of the next stripe by module m is refused: a member's frame to read, or its own to write (24 R386). -/
def rebuildRefused (s : State) (m : Nat) (g : PGroup) : Option Nat :=
  let own := m * 2 ^ 44 + g.base + g.done * 65536
  (darnRefused s m g g.lostix g.done).or (if tableAllows s m own .write then none else some own)
/-- The rebuild target m rebuilds the next stripe of group n as one event (22 R365); a target that refuses it is reported, and the stripe stays as it
is (24 R387). -/
def execStripeRebuild (m g : Nat) (s : State) : Host.Outcome State Fault Refusal :=
  match (groupsAt s m).find? (fun e => e.1 = g) with
  | none => .next s
  | some (n, x) =>
    if x.state ≠ 3 ∨ x.repl ≠ m ∨ x.size / 65536 ≤ x.done then .next s
    else match rebuildRefused s m x with
    | some pa => .next (reportRefused s m (some pa))
    | none =>
      let s := rebuildFrame (foldStripe s n x.done) m x x.done
      let all := (x.members.map s.answers ++ [m]).eraseDups
      .next (all.foldl (fun t y =>
        (setDone t y n (x.done + 1)).updMod y (fun z => { z with unsurv := z.unsurv.filter (fun e => e ≠ (n, x.done)) })) s)

/-! ## SURVQ (22 R367, R368) -/

/-- The checks of an address form: orders 2 and 3 of 06 R108 as a read. -/
def survAsk : Ask := { kind := .read, touch := false, scope1 := false, scope2 := false, tag := false }
/-- The access that an address form checks. -/
def survAccess (s : State) (va : Word) : Res (Acc × State) :=
  match checkAccess s s.cur va survAsk with
  | (.error c, s) => raise s c.code c.qual va
  | (.ok a, s) => .ok (a, s)

/-- What names the stripe that a seal holds. -/
def sealMark (g : PGroup) (stripe : Nat) : Nat × Nat := (holderOf g stripe, g.base / 65536 + stripe)
/-- survq sD, [sB]. -/
def execSurvq (o : UnOps) (s : State) : Host.Outcome State Fault Refusal := finish do
  operands s [.s o.b o.fb]
  let (a, s) ← survAccess s (sv s o.b)
  if !a.prot then writeBackS s o.d 0
  else match stripeAt s (paModule a.pa) (a.pa % 2 ^ 44) with
    | none => writeBackS s o.d 0
    | some (n, g, stripe, _) =>
      let ix := stripe % (g.k + 1)
      let st := if s.strands.any (fun e => e.2.sealing == some (sealMark g stripe)) then 3
        else if (s.modl (holderNow s g stripe)).unsurv.contains (n, stripe) then 2
        else if g.state = 2 ∨ (g.state = 3 ∧ g.done ≤ stripe) then 1 else 0
      writeBackS s o.d (BitVec.ofNat 64 (2 ^ 62 + st * 2 ^ 60 + n * 2 ^ 48 + g.k * 2 ^ 44 + ix * 2 ^ 40 + holderOf g stripe * 2 ^ 32 + stripe % 2 ^ 32))

/-- survq.grp sD, sB. -/
def execSurvqGrp (o : UnOps) (s : State) : Host.Outcome State Fault Refusal := finish do
  operands s [.s o.b o.fb]
  let v := sv s o.b
  if 15 < v.toNat then writeBackS s o.d 0x8000000000000001
  else match s.mymod.groups.find? (fun e => e.1 = v.toNat) with
    | none => writeBackS s o.d 0
    | some (_, g) => writeBackS s o.d (BitVec.ofNat 64 (g.state * 2 ^ 56 + g.lostix * 2 ^ 48 + g.repl * 2 ^ 40 + g.k * 2 ^ 32 + g.done % 2 ^ 32))

/-- The parity frame of a stripe becomes the XOR of its data frames, at the holder with index ix (22 R368). -/
def sealStripe (s : State) (n : Nat) (g : PGroup) (stripe : Nat) : State :=
  let h := holderNow s g stripe
  let pa := h * 2 ^ 44 + g.base + stripe * 65536
  let s := opensStripe (activate s h pa) g (stripe % (g.k + 1)) stripe 0
  let v := (reconstruct s g (stripe % (g.k + 1)) stripe 0 65536).1
  { s with mem := Memory.writeN s.mem pa 65536 v, poison := s.poison.filter (fun e => e / 1024 ≠ pa / 65536) }.updMod h
    (fun x => { x with unsurv := x.unsurv.filter (fun e => e ≠ (n, stripe)) })

/-- A member of a group is unreachable from the running strand's module or from another member. -/
def memberCut (s : State) (g : PGroup) : Bool :=
  (moduleOf s.cur :: g.members).any (fun y => g.members.any (fun x => (s.modl (s.answers y)).unreach.contains (s.answers x)))
/-- The first access that the seal of a stripe by its holder is refused: a data frame to read, or the parity frame to write (24 R386). -/
def sealRefused (s : State) (g : PGroup) (stripe : Nat) : Option Nat :=
  let h := holderNow s g stripe
  let own := h * 2 ^ 44 + g.base + stripe * 65536
  (darnRefused s h g (stripe % (g.k + 1)) stripe).or (if tableAllows s h own .write then none else some own)
/-- The refusal of a seal of the stripe of an access, 0 when it can proceed (R368); data that a target does not give counts with data that cannot be read.
(DEDUCED, unsafe: notes/assumptions/46.) -/
def sealCode (s : State) (a : Acc) : Nat :=
  if !a.prot then 1
  else match stripeAt s (paModule a.pa) (a.pa % 2 ^ 44) with
    | none => 2
    | some (_, g, stripe, _) =>
      if g.state ≠ 1 then 2
      else if memberCut s g then 3
      else if (sealRefused s g stripe).isSome || (List.range 1024).any (fun i => (reconstruct s g (stripe % (g.k + 1)) stripe (64 * i) 64).2) then 4 else 0
/-- survq.seal sD, [sB]: the hold begins, the strand waits, and the seal ends once every delta of the stripe has come to its holder. A trap or an interrupt in
between has released the hold. -/
def execSurvqSeal (o : UnOps) (s : State) : Host.Outcome State Fault Refusal := finish do
  needS s
  operands s [.s o.b o.fb]
  let (a, s) ← survAccess s (sv s o.b)
  let free := fun (s : State) => s.updMe (fun st => { st with sealing := none })
  match sealCode s a, stripeAt s (paModule a.pa) (a.pa % 2 ^ 44) with
  | 0, some (n, g, stripe, _) =>
    if s.me.sealing ≠ some (sealMark g stripe) then wait (s.updMe (fun st => { st with sealing := some (sealMark g stripe) }))
    else if s.deltas.any (fun d => d.group == n && d.stripe == stripe && !s.arrived d.msg) then wait s
    else writeBackS (free (sealStripe (foldStripe s n stripe) n g stripe)) o.d 0
  | c, st =>
    let s := match c, st with | 4, some (_, g, stripe, _) => reportRefused s (holderNow s g stripe) (sealRefused s g stripe) | _, _ => s
    writeBackS (free s) o.d (BitVec.ofNat 64 (2 ^ 63 + c))

end Sys2Proof.Machine
end

