-- ==== Sys2Proof/Machine/Reduce.lean ====
section
/-! DEFINITION. Majors 0x4A to 0x4C: reductions, scans and permutes (10 R208 to R212, 08 R151, R153). -/
namespace Sys2Proof.Machine

/-! ## The fixed tree (08 R151) -/

/-- A partial: its value with the highest element index it holds, and the flags raised so far with the index each records. -/
structure Part (α : Type) where
  val : Option (α × Nat)
  notes : List (Nat × Nat)

/-- Combines two partials, the left one first; empty combined with x is x. -/
def Part.join {α : Type} (f : α → α → α × Nat) (a b : Part α) : Part α :=
  match a.val, b.val with
  | some x, some y =>
    let r := f x.1 y.1
    let hi := Nat.max x.2 y.2
    ⟨some (r.1, hi), a.notes ++ b.notes ++ [(hi, r.2)]⟩
  | some x, none => ⟨some x, a.notes ++ b.notes⟩
  | none, y => ⟨y, a.notes ++ b.notes⟩

/-- One level of the tree. -/
def pairUp {α : Type} (f : α → α → α × Nat) : List (Part α) → List (Part α)
  | a :: b :: r => Part.join f a b :: pairUp f r
  | l => l

/-- The reduction of elements (index, value, conversion flags) of width w, ascending: lane partials, then the tree of 16. -/
def reduceTree {α : Type} (f : α → α → α × Nat) (w : Nat) (es : List (Nat × α × Nat)) : Part α :=
  let lane := fun (l : Nat) => (es.filter (fun e => e.1 / (128 / w) % 16 = l)).foldl
    (fun (acc : Part α) e => Part.join f acc ⟨some (e.2.1, e.1), [(e.1, e.2.2)]⟩) ⟨none, []⟩
  match pairUp f (pairUp f (pairUp f (pairUp f ((List.range 16).map lane)))) with
  | p :: _ => p
  | [] => ⟨none, []⟩

/-! ## The operations (10 R209) -/

/-- A floating combination in the operation format: one rounding, FTZ_OUT, NV for a signalling NaN. -/
def redFloat (st : Strand) (opf op : Nat) (a b : FV) : FV × Nat :=
  let mode := if st.rm = 5 then 0 else st.rm
  let sig := a.isSig || b.isSig
  let x : FV × Nat := if op = 0 then (if a.isNan || b.isNan then (.nan false, 0) else fvAdd mode a b)
    else if a.isNan && b.isNan then (.nan false, 0) else (if op = 1 then fvMin a b else fvMax a b, 0)
  let r := toFormat (fmtOf opf) mode x.1
  let ftz := st.vec.vcfg.getLsbD 6 && isSub (fmtOf opf) r.1
  (if ftz then zeroOf r.1 else r.1, (if sig then fNV else 0) ||| x.2 ||| (if ftz then fUF ||| fNX else r.2))

/-- An integer combination, exact; and, or and xor act on the two's-complement patterns at the widest width n. -/
def redInt (n op : Nat) (a b : Int) : Int × Nat :=
  match op with
  | 0 => (a + b, 0)
  | 1 => (if a ≤ b then a else b, 0)
  | 2 => (if a ≤ b then b else a, 0)
  | 3 => (toSigned n (ofIntAt n a &&& ofIntAt n b), 0)
  | 4 => (toSigned n (ofIntAt n a ||| ofIntAt n b), 0)
  | _ => (toSigned n (ofIntAt n a ^^^ ofIntAt n b), 0)

/-- What a reduction or scan reads: the fields it shares. -/
structure RedSpec where
  op : Nat
  d : Reg
  b : Reg
  fb : Bool
  c : Reg
  fc : Bool
  s : Bool
  init : Bool
  km : BitVec 3

/-- The initial value's tag: vC's, or vB's for a scalar. -/
def RedSpec.tc (o : RedSpec) (st : Strand) : Nat := if o.init && !o.s then st.tag o.c.toNat else st.tag o.b.toNat
/-- The initial value's bits. -/
def RedSpec.initBits (o : RedSpec) (s : State) : Nat :=
  let w := tagWidth (o.tc s.me)
  if o.s then (sv s o.c).toNat % 2 ^ w else elem s o.c.toNat w 0
/-- A floating instruction. -/
def RedSpec.flt (o : RedSpec) (st : Strand) : Bool := tagFloat (st.tag o.b.toNat) || tagFloat (st.tag o.d.toNat) || tagFloat (o.tc st)

/-- The checks and operand tests of a reduction or scan; nd is the number of destination elements. -/
def redIssue (s : State) (o : RedSpec) (nd : Nat) : Res Unit := do
  let st := s.me
  let tb := st.tag o.b.toNat
  let td := st.tag o.d.toNat
  let tc := o.tc st
  legal s (tb != 15 && td != 15 && tc != 15 && (decide (o.op < 3) || !o.flt st) && (!o.flt st || decide (st.rm < 6)))
  legal s (groupOk s o.b.toNat (tagWidth tb) st.nvl && groupOk s o.d.toNat (tagWidth td) nd
    && (!o.init || o.s || groupOk s o.c.toNat (tagWidth tc) 1))
  operands s (groupOps o.b.toNat (tagWidth tb) st.nvl o.fb
    ++ (if o.init then (if o.s then [.s o.c o.fc] else groupOps o.c.toNat (tagWidth tc) 1 o.fc) else []) ++ maskOps o.km)

/-- The active elements of 0 to VL - 1. -/
def redActive (s : State) (km : BitVec 3) : List Nat := (List.range s.me.nvl).filter (activeAt s km)

/-- The lowest active element with a poisoned source; vC's element 0 counts as the lowest active element's.
(DEDUCED, unsafe: notes/assumptions/22.) -/
def redPoison (s : State) (o : RedSpec) (act : List Nat) : Option (Nat × Word) :=
  let wc := tagWidth (o.tc s.me)
  match (if o.init && !o.s then srcPoison s [(o.c.toNat, wc)] 0 else none) with
  | some tv => some (act.headD 0, tv)
  | none => act.findSome? (fun e =>
      ((if o.km = 0 then none else maskPoison s o.km.toNat e).or (srcPoison s [(o.b.toNat, tagWidth (s.me.tag o.b.toNat))] e)).map (fun tv => (e, tv)))

/-- Raises UE_DATA for a poisoned element of an instruction that writes nothing before it completes. -/
def wholePoison (s : State) (p : Option (Nat × Word)) : Res Unit :=
  match p with
  | some (e, tv) => raise (s.updMe (fun st => { st with vec := { st.vec with vstart := BitVec.ofNat 64 e } })) 0x10 2 tv
  | none => .ok ()

/-- A value in the operation format converted into a tag. -/
def redOut (st : Strand) (td : Nat) (v : FV) : EOut :=
  (toTag td (if st.rm = 5 then 0 else st.rm) none (st.vec.vcfg.getLsbD 4) false v).out 0
/-- An integer wrapped into a tag. -/
def redWrap (td : Nat) (v : Int) : EOut := ⟨ofIntAt (tagWidth td) v, 0, false⟩

/-- A reduction's or scan's result has left: elements, flags by recorded index, saturation by element, channels consumed. -/
def redState (s : State) (o : RedSpec) (nd : Nat) (r : List (Nat × EOut) × List (Nat × Nat)) (reads : List Nat) : State :=
  let w := tagWidth (s.me.tag o.d.toNat)
  let marks := r.1.map (fun x => (x.1, ({ bits := 0, flags := 0, sat := x.2.sat } : EOut))) ++ r.2.map (fun n => (n.1, ({ bits := 0, flags := n.2 } : EOut)))
  consume (vecLeave s (if r.1.isEmpty then [] else writeGroup s o.d.toNat w nd (r.1.map (fun x => (x.1, x.2.bits)))) [] marks (o.flt s.me) none
    s.me.vec.lfsr.toNat) (consumed s reads)

/-- The registers a reduction reads. -/
def redReads (s : State) (o : RedSpec) : List Nat :=
  (group o.b.toNat (tagWidth (s.me.tag o.b.toNat)) s.me.nvl ++ (if o.init && !o.s then [o.c.toNat] else [])).eraseDups

/-- What vred computes: element 0 with its saturation, and the flags with the index each records (10 R209, R211). -/
def redResult (s : State) (o : RedSpec) : List (Nat × EOut) × List (Nat × Nat) :=
  let st := s.me
  let tb := st.tag o.b.toNat
  let td := st.tag o.d.toNat
  let wb := tagWidth tb
  let act := redActive s o.km
  let hi := act.foldl Nat.max 0
  if o.flt st then
    let opf := opFormat (if o.init then [tb, o.tc st, td] else [tb, td]) false
    let f := redFloat st opf o.op
    let p := reduceTree f wb (act.map (fun e => let v := srcVal st opf tb none (elem s o.b.toNat wb e); (e, v.1, v.2)))
    let iv := srcVal st opf (o.tc st) none (o.initBits s)
    let x : FV × Nat := match p.val, o.init with
      | some v, true => let r := f v.1 iv.1; (r.1, r.2 ||| iv.2)
      | some v, false => (v.1, 0)
      | none, true => iv
      | none, false => (.fin false 0 0 false, 0)
    let out := redOut st td x.1
    ([(0, out)], p.notes ++ [(hi, x.2 ||| out.flags)])
  else
    let n := Nat.max wb (Nat.max (tagWidth td) (tagWidth (o.tc st)))
    let f := redInt n o.op
    let p := reduceTree f wb (act.map (fun e => (e, intVal tb (elem s o.b.toNat wb e), 0)))
    let iv := intVal (o.tc st) (o.initBits s)
    let x : Int := match p.val, o.init with
      | some v, true => (f v.1 iv).1
      | some v, false => v.1
      | none, true => iv
      | none, false => 0
    ([(0, redWrap td x)], [])

/-- vred (10 R209, R211). -/
def redOp (s : State) (o : RedSpec) : Res State := do
  needVs s
  let s := settle s (coreOf s.cur)
  redIssue s o 1
  if !writable s [o.d.toNat] then wait s
  else
    wholePoison s (redPoison s o (redActive s o.km))
    advance (redState s o 1 (redResult s o) (redReads s o))

/-- The fields of a reduction. -/
def RedOps.spec (o : RedOps) (op : Nat) : RedSpec := ⟨op, o.d, o.b, o.fb, o.c, o.fc, o.s, o.init, o.km⟩
/-- The fields of a scan. -/
def ScanOps.spec (o : ScanOps) (op : Nat) : RedSpec := ⟨op, o.d, o.b, o.fb, o.c, o.fc, o.s, o.init, o.km⟩

/-- vred.sum. -/
def execVredSum (o : RedOps) (s : State) : Host.Outcome State Fault Refusal := finish (redOp s (RedOps.spec o 0))
/-- vred.min. -/
def execVredMin (o : RedOps) (s : State) : Host.Outcome State Fault Refusal := finish (redOp s (RedOps.spec o 1))
/-- vred.max. -/
def execVredMax (o : RedOps) (s : State) : Host.Outcome State Fault Refusal := finish (redOp s (RedOps.spec o 2))
/-- vred.and. -/
def execVredAnd (o : RedOps) (s : State) : Host.Outcome State Fault Refusal := finish (redOp s (RedOps.spec o 3))
/-- vred.or. -/
def execVredOr (o : RedOps) (s : State) : Host.Outcome State Fault Refusal := finish (redOp s (RedOps.spec o 4))
/-- vred.xor. -/
def execVredXor (o : RedOps) (s : State) : Host.Outcome State Fault Refusal := finish (redOp s (RedOps.spec o 5))

/-- What vscan computes: for each active element the reduction over the active elements up to it, or below it (08 R153, 10 R210). -/
def scanResult (s : State) (o : RedSpec) (excl : Bool) : List (Nat × EOut) × List (Nat × Nat) :=
  let st := s.me
  let tb := st.tag o.b.toNat
  let td := st.tag o.d.toNat
  let wb := tagWidth tb
  let act := redActive s o.km
  let hi := act.foldl Nat.max 0
  let lo := act.headD 0
  let upTo := fun (e x : Nat) => if excl then decide (x < e) else decide (x ≤ e)
  if o.flt st then
    let opf := opFormat (if o.init then [tb, o.tc st, td] else [tb, td]) false
    let f := redFloat st opf o.op
    let vals := act.map (fun e => let v := srcVal st opf tb none (elem s o.b.toNat wb e); (e, v.1, v.2))
    let iv := srcVal st opf (o.tc st) none (o.initBits s)
    let outs := act.map (fun e =>
      let p := reduceTree f wb (vals.filter (fun v => upTo e v.1))
      let x : FV × Nat := match p.val, o.init with
        | some v, true => f v.1 iv.1
        | some v, false => (v.1, 0)
        | none, true => (iv.1, 0)
        | none, false => (.fin false 0 0 false, 0)
      let out := redOut st td x.1
      ((e, out), p.notes ++ [(hi, x.2), (e, out.flags)]))
    (outs.map (·.1), (outs.map (·.2)).flatten ++ (if o.init then [(lo, iv.2)] else []))
  else
    let n := Nat.max wb (Nat.max (tagWidth td) (tagWidth (o.tc st)))
    let f := redInt n o.op
    let vals := act.map (fun e => (e, intVal tb (elem s o.b.toNat wb e), 0))
    let iv := intVal (o.tc st) (o.initBits s)
    (act.map (fun e =>
      let p := reduceTree f wb (vals.filter (fun v => upTo e v.1))
      let x : Int := match p.val, o.init with
        | some v, true => (f v.1 iv).1
        | some v, false => v.1
        | none, true => iv
        | none, false => 0
      (e, redWrap td x)), [])

/-- The checks of vscan after VSTATE_OFF. -/
def scanGate (s : State) (o : RedSpec) : Res Unit := do
  let st := s.me
  redIssue s o st.nvl
  destOverlap s true (o.d.toNat, tagWidth (st.tag o.d.toNat)) st.nvl
    ((o.b.toNat, tagWidth (st.tag o.b.toNat), st.nvl) :: (if o.init && !o.s then [(o.c.toNat, tagWidth (o.tc st), 1)] else []))

/-- vscan (10 R210, R211). -/
def scanOp (s : State) (o : RedSpec) (excl : Bool) : Res State := do
  needVs s
  let s := settle s (coreOf s.cur)
  scanGate s o
  if !writable s (group o.d.toNat (tagWidth (s.me.tag o.d.toNat)) s.me.nvl) then wait s
  else
    wholePoison s (redPoison s o (redActive s o.km))
    advance (redState s o s.me.nvl (scanResult s o excl) (redReads s o))

/-- vscan.sum. -/
def execVscanSum (o : ScanOps) (s : State) : Host.Outcome State Fault Refusal := finish (scanOp s (ScanOps.spec o 0) o.excl)
/-- vscan.min. -/
def execVscanMin (o : ScanOps) (s : State) : Host.Outcome State Fault Refusal := finish (scanOp s (ScanOps.spec o 1) o.excl)
/-- vscan.max. -/
def execVscanMax (o : ScanOps) (s : State) : Host.Outcome State Fault Refusal := finish (scanOp s (ScanOps.spec o 2) o.excl)
/-- vscan.and. -/
def execVscanAnd (o : ScanOps) (s : State) : Host.Outcome State Fault Refusal := finish (scanOp s (ScanOps.spec o 3) o.excl)
/-- vscan.or. -/
def execVscanOr (o : ScanOps) (s : State) : Host.Outcome State Fault Refusal := finish (scanOp s (ScanOps.spec o 4) o.excl)
/-- vscan.xor. -/
def execVscanXor (o : ScanOps) (s : State) : Host.Outcome State Fault Refusal := finish (scanOp s (ScanOps.spec o 5) o.excl)

/-! ## Permutes (10 R212) -/

/-- The checks of a permute: equal widths, no scale tags, groups in order, no overlap; cs is the index group of VPERM. -/
def permIssue (s : State) (d b : Reg) (fb : Bool) (cs : List (Nat × Bool)) (scalars : List Opnd) (km : BitVec 3) : Res Unit := do
  let st := s.me
  let w := tagWidth (st.tag b.toNat)
  legal s (st.tag b.toNat != 15 && st.tag d.toNat != 15 && tagWidth (st.tag d.toNat) == w && cs.all (fun c => tagInt (st.tag c.1)))
  legal s (groupOk s b.toNat w st.nvl && groupOk s d.toNat w st.nvl && cs.all (fun c => groupOk s c.1 (tagWidth (st.tag c.1)) st.nvl))
  operands s (groupOps b.toNat w st.nvl fb ++ (cs.map (fun c => groupOps c.1 (tagWidth (st.tag c.1)) st.nvl c.2)).flatten ++ scalars ++ maskOps km)
  destOverlap s false (d.toNat, w) st.nvl ((b.toNat, w, st.nvl) :: cs.map (fun c => (c.1, tagWidth (st.tag c.1), st.nvl)))

/-- The lowest written element with a poisoned mask, index or source. -/
def permPoison (s : State) (b : Reg) (cs : List Nat) (km : BitVec 3) (moves : List (Nat × Option Nat)) : Option (Nat × Word) :=
  moves.findSome? (fun m =>
    ((if km = 0 then none else maskPoison s km.toNat m.1).or ((srcPoison s (cs.map (fun c => (c, tagWidth (s.me.tag c)))) m.1).or
      (match m.2 with | some i => srcPoison s [(b.toNat, tagWidth (s.me.tag b.toNat))] i | none => none))).map (fun tv => (m.1, tv)))

/-- Elements moved: each written element with the element of vB it takes, none for 0. -/
def permState (s : State) (d b : Reg) (cs : List Nat) (moves : List (Nat × Option Nat)) : State :=
  let st := s.me
  let w := tagWidth (st.tag b.toNat)
  let outs := moves.map (fun m => (m.1, match m.2 with | some i => elem s b.toNat w i | none => 0))
  let reads := (group b.toNat w st.nvl ++ (cs.map (fun c => group c (tagWidth (st.tag c)) st.nvl)).flatten).eraseDups
  consume (vecLeave s (if outs.isEmpty then [] else writeGroup s d.toNat w st.nvl outs) [] [] false none st.vec.lfsr.toNat) (consumed s reads)

/-- Moves elements; km is k0 where the mask register does not mask. -/
def permMove (s : State) (d b : Reg) (cs : List Nat) (km : BitVec 3) (moves : List (Nat × Option Nat)) : Res State :=
  if !writable s (group d.toNat (tagWidth (s.me.tag b.toNat)) s.me.nvl) then wait s
  else do
    wholePoison s (permPoison s b cs km moves)
    advance (permState s d b cs moves)

/-- vperm: element e takes the element its index names, 0 past VL. -/
def permIndex (s : State) (c : Reg) (km : BitVec 3) : List (Nat × Option Nat) :=
  (redActive s km).map (fun e => let i := elem s c.toNat (tagWidth (s.me.tag c.toNat)) e; (e, if i < s.me.nvl then some i else none))
/-- vslideup: element e at or above k takes element e - k. -/
def permUp (s : State) (k : Nat) (km : BitVec 3) : List (Nat × Option Nat) :=
  ((redActive s km).filter (fun e => k ≤ e)).map (fun e => (e, some (e - k)))
/-- vslidedn: element e takes element e + k, 0 past VL. -/
def permDown (s : State) (k : Nat) (km : BitVec 3) : List (Nat × Option Nat) :=
  (redActive s km).map (fun e => (e, if e + k < s.me.nvl then some (e + k) else none))
/-- vrev: element e takes element VL - 1 - e. -/
def permRev (s : State) (km : BitVec 3) : List (Nat × Option Nat) := (redActive s km).map (fun e => (e, some (s.me.nvl - 1 - e)))
/-- vcompress: the i-th active element goes to element i. -/
def permPack (s : State) (km : BitVec 3) : List (Nat × Option Nat) := (redActive s km).zipIdx.map (fun e => (e.2, some e.1))
/-- vexpand: the i-th active element takes element i. -/
def permSpread (s : State) (km : BitVec 3) : List (Nat × Option Nat) := (redActive s km).zipIdx.map (fun e => (e.1, some e.2))

/-- vperm. -/
def execVperm (o : VV) (s : State) : Host.Outcome State Fault Refusal := finish do
  needVs s
  let s := settle s (coreOf s.cur)
  permIssue s o.d o.b o.fb [(o.c.toNat, o.fc)] [] o.km
  permMove s o.d o.b [o.c.toNat] o.km (permIndex s o.c o.km)
/-- vslideup. -/
def execVslideup (o : VV) (s : State) : Host.Outcome State Fault Refusal := finish do
  needVs s
  let s := settle s (coreOf s.cur)
  permIssue s o.d o.b o.fb [] [.s o.c o.fc] o.km
  permMove s o.d o.b [] o.km (permUp s (sv s o.c).toNat o.km)
/-- vslidedn. -/
def execVslidedn (o : VV) (s : State) : Host.Outcome State Fault Refusal := finish do
  needVs s
  let s := settle s (coreOf s.cur)
  permIssue s o.d o.b o.fb [] [.s o.c o.fc] o.km
  permMove s o.d o.b [] o.km (permDown s (sv s o.c).toNat o.km)
/-- vrev. -/
def execVrev (o : V2) (s : State) : Host.Outcome State Fault Refusal := finish do
  needVs s
  let s := settle s (coreOf s.cur)
  permIssue s o.d o.b o.fb [] [] o.km
  permMove s o.d o.b [] o.km (permRev s o.km)
/-- The lowest poisoned chunk of a mask that selects. -/
def packPoison (s : State) (km : BitVec 3) : Option (Nat × Word) :=
  if km = 0 then none else ((List.range s.me.nvl).findSome? (fun e => maskPoison s km.toNat e)).map (fun tv => (0, tv))
/-- vcompress: the mask selects and does not mask. -/
def execVcompress (o : V2) (s : State) : Host.Outcome State Fault Refusal := finish do
  needVs s
  let s := settle s (coreOf s.cur)
  permIssue s o.d o.b o.fb [] [] o.km
  wholePoison s (packPoison s o.km)
  permMove s o.d o.b [] 0 (permPack s o.km)
/-- vexpand. -/
def execVexpand (o : V2) (s : State) : Host.Outcome State Fault Refusal := finish do
  needVs s
  let s := settle s (coreOf s.cur)
  permIssue s o.d o.b o.fb [] [] o.km
  permMove s o.d o.b [] o.km (permSpread s o.km)

end Sys2Proof.Machine
end

