-- ==== Sys2Proof/Machine/Unpick.lean ====
section
/-! DEFINITION. The Unpick engine: majors 0x70 to 0x72, SKINS, SKDEL, SKLOOK, SKCLR, RECON and RECONQ, and the events of its tickets (20, 21
R355, R356, 04 R80). -/
namespace Sys2Proof.Machine

/-! ## SKINS, SKDEL and SKLOOK (20 R342) -/

/-- The header checks: a multiple of 64, then those of 15 R267; a write needs W. -/
def skHeader (s : State) (ea : Word) (writes : Bool) : Res (Acc × State) := do
  aligned s ea 64
  if busyAtomic s s.cur ea then wait s
  else access s ea { kind := if writes then .atomic else .read, tag := false, setc := true, set := true, via := some .atomic }

/-- Issues a table operation as an atomic: operation, destinations, header address, key, value. -/
def skIssue (s : State) (op : Nat) (d d2 b : Reg) (key val : Word) : Res State := do
  let ea := sv s b
  let (a, s) ← skHeader s ea (op != 13)
  if Config.maxAtomics ≤ s.me.atomics then wait s
  else
    let (tok, s) := s.token
    let cell := fun (r : Reg) => if r = 0 then none else some (physReg s.me.status.uiact r.toNat)
    let (msg, s) := toHome s s.cur a.pa
    let r : HomeReq := ⟨s.cur, tok, cell d, cell d2, op, 8, ea, a.pa, a.pa, a.share, false, false, key, val, msg⟩
    let s := s.updMe (fun st =>
      let st := if d = 0 then st else st.markEmpty d.toNat tok
      { (if d2 = 0 then st else st.markEmpty d2.toNat tok) with atomics := st.atomics + 1 })
    advance (State.post { s with homeq := s.homeq ++ [r] } (.atomicHomeEvent 0 false))

/-- skins. -/
def execSkins (o : SkinsOps) (s : State) : Host.Outcome State Fault Refusal := finish do
  operands s [.s o.b o.fb, .s o.c o.fc, .s o.v o.fv]
  skIssue s 11 o.d 0 o.b (sv s o.c) (sv s o.v)
/-- skdel. -/
def execSkdel (o : BinOps) (s : State) : Host.Outcome State Fault Refusal := finish do
  operands s [.s o.b o.fb, .s o.c o.fc]
  skIssue s 12 o.d 0 o.b (sv s o.c) 0
/-- sklook: sD the value, sE the result word. -/
def execSklook (o : SklookOps) (s : State) : Host.Outcome State Fault Refusal := finish do
  operands s [.s o.b o.fb, .s o.c o.fc]
  skIssue s 13 o.d o.e o.b (sv s o.c) 0

/-! ## Tickets (20 R347, R409) -/

/-- Ticket t of module m. -/
def ticketAt (s : State) (m t : Nat) : Option Ticket := (s.modl m).tickets.find? (fun x => x.num = t)
/-- Ticket x of module m replaced. -/
def setTicket (s : State) (m : Nat) (x : Ticket) : State :=
  s.updMod m (fun y => { y with tickets := y.tickets.map (fun z => if z.num = x.num then x else z) })
/-- The lowest ticket number that no ticket of the engine holds. -/
def freeTicket (s : State) (m : Nat) : Nat :=
  ((List.range 64).find? (fun t => !(s.modl m).tickets.any (fun x => x.num == t))).getD 0
/-- No ticket can be had: the strand holds 8, or the engine 64. -/
def noTicket (s : State) : Bool := decide (8 ≤ s.me.tickets.length) || decide (64 ≤ s.mymod.tickets.length)
/-- A ticket with nothing done. -/
def Ticket.new (s : State) (mode cls gen : Nat) : Ticket :=
  { num := freeTicket s (moduleOf s.cur), strand := s.cur, who := s.me.cont.map (fun c => (c.grid, c.vsi)), root := s.me.ptroot, mode := mode, cls := cls, gen := gen, peer := 0, f := 0, round := 0, buf := 0
    list := 0, cap := 0, pages := [], header := 0, stage := 0, loc := [], oth := [], peel := [], ix := 0, phase := 0, opA := none, opB := none, stop := 0
    failed := false, apfull := false, short := false, est := 0, status := 0 }
/-- The engine accepts a ticket of the running strand. -/
def acceptTicket (s : State) (x : Ticket) (i : Instr) : State :=
  State.post ((s.updMod (moduleOf s.cur) (fun y => { y with tickets := y.tickets ++ [x] })).updMe (fun st => { st with tickets := st.tickets ++ [x.num] })) i

/-- CODE: the first condition that applies (20 R347). -/
def Ticket.code (x : Ticket) : Nat :=
  if x.stop ≠ 0 then x.stop else if x.failed then 0x11 else if x.apfull then 0x23 else if x.short then 0x24 else 0
/-- Entries peeled with a sign. -/
def Ticket.peeled (x : Ticket) (plus : Bool) : Nat := x.peel.countP (fun e => e.2.2 == plus)
/-- The status word of a reconciliation. -/
def Ticket.word (x : Ticket) : Word :=
  BitVec.ofNat 64 (x.code * 2 ^ 56 + x.round % 16 * 2 ^ 52 + x.short.toNat * 2 ^ 49 + x.apfull.toNat * 2 ^ 48 + Nat.min x.est 65535 * 2 ^ 32
    + Nat.min (x.peeled true) 65535 * 2 ^ 16 + Nat.min (x.peeled false) 65535)
/-- The ticket is complete. -/
def Ticket.complete (x : Ticket) : Ticket := { x with stage := 4, status := x.word }
/-- A condition met: the first in the order of R347 stands. -/
def Ticket.meets (x : Ticket) (code : Nat) : Ticket :=
  let rank := fun (c : Nat) => [0x10, 0x25, 0x20, 0x21, 0x22].idxOf c
  if x.stop = 0 ∨ rank code < rank x.stop then { x with stop := code } else x

/-- reconq (20 R347, R353). -/
def execReconq (o : UnOps) (s : State) : Host.Outcome State Fault Refusal := finish do
  operands s [.s o.b o.fb]
  let t := (sv s o.b).toNat
  let m := moduleOf s.cur
  match (if s.me.tickets.contains t then ticketAt s m t else none) with
  | none => advance (issueProd s o.d 0xFF00000000000000 .clean 0)
  | some x =>
    if x.stage ≠ 4 then advance (issueProd s o.d 0xFE00000000000000 .clean 0)
    else
      let code := x.status.toNat / 2 ^ 56
      let s := s.updMod m (fun y => { y with tickets := y.tickets.filter (fun z => z.num ≠ t) })
      let s := s.updMe (fun st =>
        let used := st.skrnd.toNat / 256 % 32
        let used' := if code = 0 then 0 else if code = 0x11 then Nat.min (used + 1) 16 else used
        { st with tickets := st.tickets.erase t, skrnd := (st.skrnd &&& ~~~0x1F00#64) ||| BitVec.ofNat 64 (used' * 256) })
      let mark := if code = 0x11 ∧ s.me.skrnd.getLsbD 16 = true then Mark.peel x.status else .clean
      advance (issueProd s o.d x.status mark 0)

/-! ## SKCLR (20 R344, 21 R356) -/

/-- The addresses of a region at which a 64 KiB page of it begins. -/
def regionPages (va : Word) (n : Nat) : List Word :=
  let a := va.toNat
  va :: (((List.range ((n + 65535) / 65536)).map (fun i => (a / 65536 + 1 + i) * 65536)).filter (fun x => x < a + n)).map (BitVec.ofNat 64)
/-- The checks of SKCLR on each page of its region, as a write under orders 2 and 3 of 06 R108. -/
def skclrPages (s : State) (vas : List Word) : Res (List (Word × Acc) × State) :=
  vas.foldlM (fun (acc : List (Word × Acc) × State) va =>
    match checkAccess acc.2 acc.2.cur va { kind := .write, setc := true, scope1 := false, scope2 := false, via := some .atomic } with
    | (.error c, s) => raise s c.code c.qual va
    | (.ok a, s) => .ok (acc.1 ++ [(va, a)], s)) ([], s)

/-- Bytes of the sketches that an engine holds beside a class. -/
def sketchBytes (s : State) (m cls : Nat) : Nat :=
  (((s.modl m).classes.filter (fun c => c.cls ≠ cls)).map (fun c => 72 * 2 ^ c.log2m)).foldl (· + ·) 0
/-- A class being cleared (R344 steps 1 and 2). -/
def classNew (s : State) (gen : Nat) (v : Word) (ps : List (Word × Acc)) : SkClass :=
  { cls := v.toNat % 16, base := ((ps.map (fun p => p.2.pa)).headD 0), frames := ps.map (fun p => p.2.pa / 65536), log2n := v.toNat / 256 % 32
    log2m := s.me.skmax.toNat % 32, hash := [], fprint := 0, share := ((ps.map (fun p => p.2.share)).headD 0), cells := [], clearing := true, gen := gen }

/-- The checks of SKCLR that trap: alignment, then every page of the region, SETC, no DIR and one SHARE. -/
def skclrGate (s : State) (b v : Word) : Res (List (Word × Acc) × State) := do
  let n := v.toNat / 256 % 32
  aligned s b 64
  let inRange := decide (4 ≤ n) && decide (n ≤ 20)
  let (ps, s) ← skclrPages s (regionPages b (64 + if inRange then 16 * 2 ^ n else 0))
  match ps.find? (fun p => !p.2.leaf.getLsbD 8 || p.2.dir) with
  | some p => raise s 0x08 9 p.1
  | none =>
    need (ps.all (fun p => p.2.share == ((ps.map (fun q => q.2.share)).headD 0))) (raise s 0x08 9 b)
    .ok (ps, s)
/-- The code that refuses an SKCLR of header v: BADHDR, NOSPACE, NOTICKET, in this order.
(DEDUCED, unsafe: notes/assumptions/47.) -/
def skclrRefusal (s : State) (v : Word) : Option Nat :=
  if !headerOk v then some 8
  else if 25165824 < sketchBytes s (moduleOf s.cur) (v.toNat % 16) + 72 * 2 ^ (s.me.skmax.toNat % 32) ∨ 16 ≤ s.mymod.classes.length then some 9
  else if noTicket s then some 5 else none
/-- SKCLR is accepted: the class is being cleared, and a ticket is out. -/
def skclrAccept (s : State) (v : Word) (ps : List (Word × Acc)) : State × Nat :=
  let m := moduleOf s.cur
  let cls := v.toNat % 16
  let (gen, s) := s.token
  let s := s.updMod m (fun y => { y with classes := y.classes.filter (fun c => c.cls ≠ cls) ++ [classNew s gen v ps] })
  let x : Ticket := { Ticket.new s 5 cls gen with buf := s.me.sktab, header := v }
  (acceptTicket s x (.skclrTicket m x.num), x.num)

/-- skclr. -/
def execSkclr (o : BinOps) (s : State) : Host.Outcome State Fault Refusal := finish do
  needS s
  operands s [.s o.b o.fb, .s o.c o.fc]
  let v := sv s o.c
  let (ps, s) ← skclrGate s (sv s o.b) v
  match skclrRefusal s v with
  | some e => writeBackS s o.d (refusalWord e)
  | none => writeBackS (skclrAccept s v ps).1 o.d (BitVec.ofNat 64 (skclrAccept s v ps).2)

/-- Runs f with strand p translating through a root, at S. -/
def withRoot {α : Type} (s : State) (p : Nat) (root : Word) (f : State → State × α) : State × α :=
  let st := s.strand p
  if st.ptroot = root then f s
  else
    let r := f (s.setStrand p { st with ptroot := root, tlb := [] })
    (r.1.updStrand p (fun y => { y with ptroot := st.ptroot, tlb := st.tlb }), r.2)

/-- A read of granule g by an engine of module m passes R64: the engine acts as a member of its module's DEVICE group (04 R77). -/
def engineReadable (s : State) (m g : Nat) : Bool :=
  let t := s.tag g
  t.corrupt || t.allows (if t.gl = 7 then 0 else Nat.max 4 (t.lvl g (m * 384)))
/-- An engine's read of a dword at its home, and its poison, a corrupt tag's with it (14 R247); its activation is counted with the whole read's. -/
def engineTake (s : State) (pa : Nat) : (Word × Bool) × State :=
  let s := serveDegraded s pa
  let r := homeRead s pa 8
  let bad := (s.tag (granOf pa)).corrupt
  ((BitVec.ofNat 64 r.1, r.2 || bad), if bad then s.logTag (granOf pa) else s)
/-- The rows of these addresses are activated at their homes (23 R381). -/
def activateAll (s : State) (pas : List Nat) : State := pas.foldl opensRow s
/-- What an engine's read of a table in memory has come to: the state, the addresses read, and the dwords or the cause that a read has failed with. -/
abbrev TableRead := State × List Nat × Except Nat (List Word)
/-- The next dword of the hash tables, at va, read by the engine of strand p's module through the strand's tables (20 R344 step 3, 04 R77). -/
def hashDword (p : Nat) (va : Word) (acc : TableRead) : TableRead :=
  match acc.2.2 with
  | .error _ => acc
  | .ok l =>
    match checkAccess acc.1 p va { kind := .read, prv := some true, tag := false, via := some .atomic } with
    | (.error c, s) => (s, acc.2.1, .error c.code)
    | (.ok x, s) =>
      if !x.dir && !engineReadable s (moduleOf p) (granOf x.pa) then (s, acc.2.1, .error 0x09)
      else if unreachable s (moduleOf p) x.pa then (s, acc.2.1, .error 0x10)
      else
        let r := engineTake (sendFlit s (moduleOf p) (s.answers (paModule x.pa))) x.pa
        (r.2, acc.2.1 ++ [x.pa], if r.1.2 then .error 0x10 else .ok (l ++ [r.1.1]))
/-- The hash tables at an address, dword by dword. -/
def hashTables (s : State) (p : Nat) (va : Word) : TableRead :=
  (List.range 2048).foldl (fun acc i => hashDword p (va + BitVec.ofNat 64 (8 * i)) acc) (s, [], .ok [])
/-- The rows of what has been read activated, and what the read has come to. -/
def tableDone (r : TableRead) : State × Except Nat (List Word) := (activateAll r.1 r.2.1, r.2.2)
/-- The hash tables at an address, or the cause that a read of them fails with. -/
def readHash (s : State) (p : Nat) (va : Word) : State × Except Nat (List Word) := tableDone (hashTables s p va)

/-- The engine of a module acting as a member of its module's DEVICE group (04 R77). -/
def engineActor (m : Nat) (va : Word) : Actor := ⟨m * 384, 4, va⟩

/-- Writes an empty table: the header and every slot (R344 step 4). -/
def clearTable (s : State) (m : Nat) (c : SkClass) (header : Word) : State :=
  let who := engineActor m (BitVec.ofNat 64 c.base)
  let s := tableWrite s c who 0 8 header.toNat
  let s := tableWrite s c who 8 8 0
  let s := tableWrite s c who 16 8 c.fprint.toNat
  (List.range (2 ^ c.log2n)).foldl (fun s i => tableWrite s c who (64 + 16 * i) 16 emptyKey.toNat) s

/-- The engine carries out an SKCLR: hash tables, header, slots, sketch; a failed read leaves the class not live (R344 steps 3 to 5). -/
def execSkclrTicket (m t : Nat) (s : State) : Host.Outcome State Fault Refusal :=
  match ticketAt s m t with
  | none => .next s
  | some x =>
    if x.mode ≠ 5 ∨ x.stage = 4 then .next s
    else match (s.modl m).classes.find? (fun c => c.cls = x.cls ∧ c.gen = x.gen) with
      | none => .next (setTicket s m { x with stage := 4, status := 0x2500000000000000 })
      | some c =>
        match withRoot s x.strand x.root (fun s => readHash s x.strand x.buf) with
        | (s, .error code) =>
          let s := s.updMod m (fun y => { y with classes := y.classes.filter (fun c => c.cls ≠ x.cls) })
          .next (setTicket s m { x with stage := 4, status := BitVec.ofNat 64 (code * 2 ^ 56) })
        | (s, .ok h) =>
          let c : SkClass := { c with hash := h, fprint := fprintOf h, clearing := false }
          let s := clearTable (setClass s m c) m c x.header
          .next (setTicket s m { x with stage := 4, status := 0 })

/-! ## RECON (20 R345) -/

/-- The addresses of a range at which a turn granule of it begins. -/
def rangeGranules (va : Word) (n : Nat) : List Word :=
  let a := va.toNat
  if n = 0 then [] else va :: (((List.range ((n + 255) / 256)).map (fun i => (a / 256 + 1 + i) * 256)).filter (fun x => x < a + n)).map (BitVec.ofNat 64)
/-- Orders 1 to 4 of 06 R108 over a range of dwords: the translations taken. A range of none is not checked.
(DEDUCED, unsafe: notes/assumptions/45.) -/
def checkRange (s : State) (va : Word) (n : Nat) (writes : Bool) : Res (List Tlb × State) := do
  if n ≠ 0 then aligned s va 8
  (rangeGranules va n).foldlM (fun (acc : List Tlb × State) a => do
    let (x, s) ← access acc.2 a { kind := if writes then .write else .read, tag := false, via := some .atomic }
    .ok (if acc.1.contains x.tlb then acc.1 else acc.1 ++ [x.tlb], s)) ([], s)

/-- The translation among those taken that covers an address, as an access. -/
def pageAcc (s : State) (pages : List Tlb) (va : Word) (writes : Bool) : Acc :=
  let a := va.toNat % 2 ^ 55
  match pages.find? (fun t => if t.big then t.base == a / 2 ^ 29 * 2 ^ 29 else t.base == a / 65536 * 65536) with
  | some t => ⟨physIn s t a writes, t.leaf, t⟩
  | none => ⟨0, 0, ⟨0, false, 0, 0, 0⟩⟩
/-- An engine's read of a dword for a strand: the last write to it, and poison; a granule with a corrupt tag delivers it (14 R247). -/
def engineRead (s : State) (p : Nat) (a : Acc) : Word × Bool :=
  let r := homeRead (drainGroup s (granOf a.pa) 5 p) a.pa 8
  (BitVec.ofNat 64 r.1, r.2 || (s.tag (granOf a.pa)).corrupt)
/-- The corrupt tags that a read of n bytes meets are logged (23 R382). -/
def logCorrupt (s : State) (pages : List Tlb) (va : Word) (n : Nat) : State :=
  (rangeGranules va n).foldl (fun s a =>
    let g := granOf (pageAcc s pages a false).pa
    if (s.tag g).corrupt then s.logTag g else s) s
/-- An engine's write of a dword for strand p, performed; a write issued at its instruction (04 R78) has taken its effect on the tag there. -/
def engineWrite (s : State) (p : Nat) (pages : List Tlb) (va v : Word) (issued : Bool) : State :=
  let a := pageAcc s pages va true
  drainGroup ((if issued then performWrite else writeBytes) s p a va 8 v.toNat) (granOf a.pa) 1 p
/-- The writes of a buffer of n bytes are issued at their instruction: each granule's tag, version state and list entry (04 R63, R78, 20 R349). -/
def issueRange (s : State) (pages : List Tlb) (va : Word) (n : Nat) : State :=
  (rangeGranules va n).foldl (fun s a =>
    let x := pageAcc s pages a true
    if unreachable s (moduleOf s.cur) x.pa then s
    else issueWrite s s.cur x a (Nat.min (va.toNat + n) ((a.toNat / 256 + 1) * 256) - a.toNat)) s

/-- The class whose header stands at a physical address, cleared or not. -/
def classHeld (s : State) (m pa : Nat) : Option SkClass :=
  let w := BitVec.ofNat 64 (tableRead s pa).1
  if !headerOk w then none else (s.modl m).classes.find? (fun c => c.cls = w.toNat % 16 ∧ c.base = pa)

/-- The checks of RECON that trap: the header, the buffer of a save or a diff, the list of a diff. It answers the header's address, the pages taken
and the fold size. -/
def reconGate (s : State) (mode : Nat) (ea c n k : Word) : Res ((Nat × List Tlb × Nat) × State) := do
  let (a, s) ← skHeader s ea false
  let m := moduleOf s.cur
  let (hp, s) ← (if 3 ≤ mode then checkRange s c 64 (mode == 3) else .ok ([], s) : Res (List Tlb × State))
  let lf := if mode = 4 then (engineRead s s.cur (pageAcc s hp c false)).1.toNat % 32 else s.me.sksz.toNat % 32
  let fits := match classHeld s m a.pa with | some x => decide (2 ≤ lf) && decide (lf ≤ x.log2m) | none => false
  let (cp, s) ← (if 3 ≤ mode ∧ fits = true then checkRange s (c + 64) (72 * 2 ^ lf) (mode == 3) else .ok ([], s) : Res (List Tlb × State))
  let (lp, s) ← (if mode = 4 then checkRange s n (24 * k.toNat) true else .ok ([], s) : Res (List Tlb × State))
  .ok ((a.pa, hp ++ cp ++ lp, lf), s)
/-- The class that a RECON works on, or the code that refuses it: NOCLASS and BUSY, ROUNDS, BADSIZE, BADPEER, NOTICKET, in this order. -/
def reconClass (s : State) (mode pa lf : Nat) (c : Word) : Except Nat SkClass :=
  let m := moduleOf s.cur
  let used := s.me.skrnd.toNat / 256 % 32
  let limit := if s.me.skrnd.toNat % 16 = 0 then 16 else s.me.skrnd.toNat % 16
  match classAt s m pa with
  | .error e => .error e
  | .ok x =>
    if limit ≤ used then .error 2
    else if lf < 2 ∨ x.log2m < lf then .error 3
    else if mode < 3 ∧ (255 < c.toNat ∨ c.toNat = m) then .error 0xA
    else if noTicket s then .error 5 else .ok x
/-- The ticket of an accepted RECON. -/
def reconTicket (s : State) (mode : Nat) (x : SkClass) (g : Nat × List Tlb × Nat) (c n k : Word) : Ticket :=
  { Ticket.new s mode x.cls x.gen with
    peer := c.toNat % 256, f := g.2.2, round := s.me.skrnd.toNat / 256 % 32, buf := c, list := n, cap := k.toNat, pages := g.2.1 }

/-- RECON of a mode with table sB, operand c, and for diff the list n with capacity k. -/
def recon (s : State) (mode : Nat) (d b : Reg) (c n k : Word) : Res State := do
  let (g, s) ← reconGate s mode (sv s b) c n k
  match reconClass s mode g.1 g.2.2 c with
  | .error e => writeBackS s d (refusalWord e)
  | .ok x =>
    let t := reconTicket s mode x g c n k
    let s := if mode = 3 then issueRange s g.2.1 c (64 + 72 * 2 ^ g.2.2) else s
    writeBackS (acceptTicket s t (.reconciliation (moduleOf s.cur) t.num)) d (BitVec.ofNat 64 t.num)

/-- RECON with two operands. -/
def reconOp (s : State) (mode : Nat) (o : BinOps) : Res State := do
  operands s [.s o.b o.fb, .s o.c o.fc]
  recon s mode o.d o.b (sv s o.c) 0 0
/-- recon.pull. -/
def execReconPull (o : BinOps) (s : State) : Host.Outcome State Fault Refusal := finish (reconOp s 0 o)
/-- recon.push. -/
def execReconPush (o : BinOps) (s : State) : Host.Outcome State Fault Refusal := finish (reconOp s 1 o)
/-- recon.merge. -/
def execReconMerge (o : BinOps) (s : State) : Host.Outcome State Fault Refusal := finish (reconOp s 2 o)
/-- recon.save. -/
def execReconSave (o : BinOps) (s : State) : Host.Outcome State Fault Refusal := finish (reconOp s 3 o)
/-- recon.diff. -/
def execReconDiff (o : DiffOps) (s : State) : Host.Outcome State Fault Refusal := finish do
  operands s [.s o.b o.fb, .s o.c o.fc, .s o.n o.fn, .s o.m o.fm]
  recon s 4 o.d o.b (sv s o.c) (sv s o.n) (sv s o.m)

/-! ## Folding, subtracting, peeling (20 R339, R348) -/

/-- A sketch of size f folded to size g. -/
def foldSketch (f g : Nat) (m : Map Cell) : Map Cell :=
  m.foldl (fun (acc : Map Cell) e =>
    let c := e.1 / 2 ^ f * 2 ^ g + e.1 % 2 ^ f % 2 ^ g
    let y := cellAt acc c
    setCell acc c ⟨y.count + e.2.count, y.check ^^^ e.2.check, y.key ^^^ e.2.key, y.val ^^^ e.2.val⟩) []
/-- D := A - P. -/
def diffSketch (a p : Map Cell) : Map Cell :=
  p.foldl (fun (acc : Map Cell) e =>
    let y := cellAt acc e.1
    setCell acc e.1 ⟨y.count - e.2.count, y.check ^^^ e.2.check, y.key ^^^ e.2.key, y.val ^^^ e.2.val⟩) a

/-- Cell c of a sketch of size f is pure. -/
def pureCell (e : List Word) (f c : Nat) (x : Cell) : Bool :=
  let h := entryHash e x.key x.val
  (x.count == 1 || x.count == 0xFFFFFFFF) && hashChk h == x.check && hashIdx h (c / 2 ^ f) % 2 ^ f == c % 2 ^ f

/-- A peel under way: the cells, the list, whether it is at its end, whether this scan has peeled. -/
structure Peel where
  cells : Map Cell
  list : List (Word × Word × Bool)
  ends : Bool
  any : Bool

/-- One scan in ascending c. -/
def peelScan (e : List Word) (f : Nat) (p : Peel) : Peel :=
  (List.range (3 * 2 ^ f)).foldl (fun p c =>
    let x := cellAt p.cells c
    if p.ends || !pureCell e f c x then p
    else if 3 * 2 ^ f ≤ p.list.length then { p with ends := true }
    else
      let plus := x.count == 1
      { p with cells := sketchAdd e f (!plus) x.key x.val p.cells, list := p.list ++ [(x.key, x.val, plus)], any := true }) { p with any := false }
/-- Scans until one peels nothing. -/
def peelAll (e : List Word) (f : Nat) : Nat → Peel → Peel
  | 0, p => p
  | n + 1, p => let q := peelScan e f p; if q.ends || !q.any then q else peelAll e f n q
/-- The peel of a difference. -/
def peelOf (e : List Word) (f : Nat) (d : Map Cell) : Peel := peelAll e f (3 * 2 ^ f + 1) ⟨d, [], false, false⟩

/-- The estimate of what a failed peel leaves, ceil((sum |COUNT| + 2 Z) / 3). -/
def residue (m : Map Cell) : Nat :=
  let abs := fun (c : BitVec 32) => c.toInt.natAbs
  ((m.foldl (fun a e => a + abs e.2.count) 0) + 2 * m.countP (fun e => e.2.count == 0) + 2) / 3

/-! ## The stages of a reconciliation (20 R348, R349) -/

/-- The class that a ticket works on is still the one it began with. -/
def ticketClass (s : State) (m : Nat) (x : Ticket) : Option SkClass := (s.modl m).classes.find? (fun c => c.cls = x.cls ∧ c.gen = x.gen ∧ c.clearing = false)
/-- The peer's class with the ticket's number, live and reachable. -/
def peerClass (s : State) (m : Nat) (x : Ticket) : Option SkClass :=
  if (s.modl m).unreach.contains x.peer then none else (s.modl x.peer).classes.find? (fun c => c.cls = x.cls ∧ c.clearing = false)

/-- Dwords 0 to 3 of a saved buffer and its cells, each as (offset, value) (R346). -/
def bufferWords (cls f fprint m count : Nat) (cells : Map Cell) : List (Nat × Word) :=
  [(0, BitVec.ofNat 64 (cls * 256 + f)), (8, BitVec.ofNat 64 fprint), (16, BitVec.ofNat 64 m), (24, BitVec.ofNat 64 count), (32, 0), (40, 0), (48, 0), (56, 0)]
    ++ ((List.range (3 * 2 ^ f)).map (fun c =>
      let x := cellAt cells c
      [(64 + 24 * c, BitVec.ofNat 64 (x.check.toNat * 2 ^ 32 + x.count.toNat)), (72 + 24 * c, x.key), (80 + 24 * c, x.val)])).flatten

/-- The buffer of a diff as the engine reads it: header dwords, cells and poison. -/
def readBuffer (s : State) (x : Ticket) : List Word × Map Cell × Bool :=
  let rd := fun (o : Nat) => engineRead s x.strand (pageAcc s x.pages (x.buf + BitVec.ofNat 64 o) false)
  let hd := (List.range 8).map (fun i => rd (8 * i))
  let cs := (List.range (3 * 2 ^ x.f)).map (fun c => (c, rd (64 + 24 * c), rd (72 + 24 * c), rd (80 + 24 * c)))
  (hd.map (·.1),
    cs.foldl (fun (m : Map Cell) c => setCell m c.1 ⟨c.2.1.1.extractLsb' 0 32, c.2.1.1.extractLsb' 32 32, c.2.2.1.1, c.2.2.2.1⟩) [],
    hd.any (·.2) || cs.any (fun c => c.2.1.2 || c.2.2.1.2 || c.2.2.2.2))
/-- The header agrees with the class. -/
def bufferLike (c : SkClass) (h : List Word) : Bool :=
  let w := h.getD 0 0
  (w >>> 12 == 0#64) && (w &&& 0xE0#64 == 0#64) && w.toNat / 256 % 16 == c.cls && h.getD 1 0 == c.fprint && decide ((h.getD 2 0).toNat < 256)
    && decide ((h.getD 3 0).toNat < 2 ^ 32) && (h.drop 4).all (· == 0)

/-- The local snapshot, and for save and diff the buffer (R348 step 1). -/
def snapshot (s : State) (m : Nat) (c : SkClass) (x : Ticket) : State :=
  let x : Ticket := { x with loc := foldSketch c.log2m x.f c.cells, stage := 1 }
  let low := decide (c.share < 4)
  if x.mode = 3 then
    let hd := tableRead s (c.pa 8)
    let s := opensRow s (c.pa 8)
    if hd.2 then setTicket s m (x.meets 0x10).complete
    else if low then setTicket s m (x.meets 0x22).complete
    else
      let ws := bufferWords c.cls x.f c.fprint.toNat m (hd.1 % 2 ^ 32) x.loc
      let s := ws.foldl (fun s w => engineWrite s x.strand x.pages (x.buf + BitVec.ofNat 64 w.1) w.2 true) s
      setTicket s m x.complete
  else if x.mode = 4 then
    let b := readBuffer s x
    let n := 64 + 72 * 2 ^ x.f
    let s := activateAll (logCorrupt s x.pages x.buf n) ((rangeGranules x.buf n).map (fun a => (pageAcc s x.pages a false).pa))
    if b.2.2 then setTicket s m (x.meets 0x10).complete
    else if !bufferLike c b.1 then setTicket s m (x.meets 0x21).complete
    else if low then setTicket s m (x.meets 0x22).complete
    else (setTicket s m { x with oth := b.2.1, stage := 2 }).post (.reconciliation m x.num)
  else (setTicket s m x).post (.peerSnapshot m x.num)

/-- Subtract and peel; the diff list is written (R348 steps 2 to 5, R349). -/
def subtract (s : State) (m : Nat) (c : SkClass) (x : Ticket) : State :=
  let p := peelOf c.hash x.f (diffSketch x.loc x.oth)
  let bad := !p.cells.isEmpty
  let x : Ticket := { x with stage := 3, peel := p.list, failed := bad, est := p.list.length + if bad then residue p.cells else 0, ix := 0 }
  if x.mode = 4 then
    let s := ((p.list.take x.cap).zipIdx).foldl (fun s e =>
      let at_ := fun (o : Nat) => x.list + BitVec.ofNat 64 (24 * e.2 + o)
      let s := engineWrite s x.strand x.pages (at_ 0) e.1.1 false
      let s := engineWrite s x.strand x.pages (at_ 8) e.1.2.1 false
      engineWrite s x.strand x.pages (at_ 16) (if e.1.2.2 then 1 else BitVec.allOnes 64) false) s
    setTicket s m ({ x with short := decide (x.cap < p.list.length) } : Ticket).complete
  else if x.peel.isEmpty then setTicket s m x.complete
  else (setTicket s m x).post (.reconApplyOp m x.num)

/-- The engine takes the next stage of a reconciliation (R348). -/
def execReconciliation (m t : Nat) (s : State) : Host.Outcome State Fault Refusal :=
  match ticketAt s m t with
  | none => .next s
  | some x =>
    if x.mode = 5 ∨ 4 ≤ x.stage then .next s
    else match ticketClass s m x with
      | none => .next (setTicket s m (x.meets 0x25).complete)
      | some c =>
        match x.stage with
        | 0 => .next (snapshot s m c x)
        | 2 => .next (subtract s m c x)
        | _ => .next s

/-- The strand of the ticket's module that its context runs on, if it runs; grids are numbered by each Hamper (17 R282). -/
def ticketStrand (s : State) (x : Ticket) : Option Nat :=
  match x.who with
  | none => some x.strand
  | some w => (s.strands.find? (fun e => moduleOf e.1 == moduleOf x.strand && e.2.cont.any (fun c => (c.grid, c.vsi) == w))).map (·.1)
/-- What a save leaves on its way from the strand where the ticket's context ran: remote writes, contributions, pushes; without a name of their context, those of
the strand.
(DEDUCED, safe: notes/assumptions/45.) -/
def leftBehind (s : State) (x : Ticket) : Bool :=
  x.who.isSome && (s.remote.any (fun r => r.strand == x.strand) || !(contribsOut s x.strand).isEmpty)
/-- An earlier access of a ticket's context is still on its way: one of the strand where it runs, a transfer that a save left in flight (05
R94), a buffer that an earlier ticket of it reads or writes (21 R355). -/
def accessesOut (s : State) (m : Nat) (x : Ticket) : Bool :=
  (ticketStrand s x).any (outstanding s) || leftBehind s x || s.xfers.any (fun t => t.saved.isSome && t.saved == x.who && moduleOf t.strand == m)
    || ((s.modl m).tickets.takeWhile (fun y => y.num != x.num)).any (fun y =>
      (y.mode == 3 || y.mode == 4) && decide (y.stage < 4) && y.who == x.who && (x.who.isSome || y.strand == x.strand))

/-- The peer engine reads and folds its sketch at one point of its table order and sends it (R348 step 1). -/
def execPeerSnapshot (m t : Nat) (s : State) : Host.Outcome State Fault Refusal :=
  match ticketAt s m t with
  | none => .next s
  | some x =>
    if x.stage ≠ 1 then .next s
    else if accessesOut s m x then .next (s.post (.peerSnapshot m t))
    else
      let s := sendFlit ((ticketStrand s x).elim s (drainOwn s)) m x.peer
      match peerClass s m x, ticketClass s m x with
      | _, none => .next (setTicket s m (x.meets 0x25).complete)
      | none, _ => .next (setTicket s m (x.meets 0x20).complete)
      | some q, some c =>
        if q.fprint ≠ c.fprint ∨ q.log2m < x.f then .next (setTicket s m (x.meets 0x21).complete)
        else if q.share < 4 ∨ c.share < 4 then .next (setTicket s m (x.meets 0x22).complete)
        else .next ((setTicket s m { x with oth := foldSketch q.log2m x.f q.cells, stage := 2 }).post (.reconciliation m t))

/-- One table operation of the apply on the table of module h, in its table order: the state and what it found or met. -/
def applyTable (s : State) (h : Nat) (c : SkClass) (op : Nat) (k v : Word) : SkRes :=
  if k = emptyKey ∨ k = tombKey then ⟨s, refusalWord 6, none, false⟩
  else if !tableAllows s h c.base .atomic then ⟨s.toFirmware h 1024 (BitVec.ofNat 64 c.base), 0, none, true⟩
  else tableOp s h c (engineActor h (BitVec.ofNat 64 c.base)) op k v

/-- The next operation of the apply: on the peer's table or not, operation, value; none when the entry in work is done (R349). -/
def nextApply (x : Ticket) : Option (Bool × Nat × Word) :=
  match x.mode, x.phase with
  | 0, 0 => some (true, 13, 0)
  | 0, 1 => match x.opA with | some v => some (false, 11, v) | none => some (false, 12, 0)
  | 1, 0 => some (false, 13, 0)
  | 1, 1 => match x.opA with | some v => some (true, 11, v) | none => some (true, 12, 0)
  | 2, 0 => some (false, 13, 0)
  | 2, 1 => some (true, 13, 0)
  | 2, 2 => match x.opA, x.opB with
    | some a, none => some (true, 11, a)
    | none, some b => some (false, 11, b)
    | some a, some b => if a = b then none else some (false, 11, if a.toNat < b.toNat then b else a)
    | none, none => none
  | 2, 3 => match x.opA, x.opB with
    | some a, some b => if a = b then none else some (true, 11, if a.toNat < b.toNat then b else a)
    | _, _ => none
  | _, _ => none

/-- The next entry of the peel list. -/
def Ticket.nextEntry (x : Ticket) : Ticket := { x with ix := x.ix + 1, phase := 0, opA := none, opB := none }

/-- An engine performs one lookup, insert or delete of the apply (R349). -/
def execReconApplyOp (m t : Nat) (s : State) : Host.Outcome State Fault Refusal :=
  match ticketAt s m t with
  | none => .next s
  | some x =>
    if x.stage ≠ 3 then .next s
    else match x.peel[x.ix]?, ticketClass s m x, peerClass s m x with
      | none, _, _ => .next (setTicket s m x.complete)
      | _, none, _ => .next (setTicket s m (x.meets 0x25).complete)
      | _, _, none => .next (setTicket s m (x.meets 0x20).complete)
      | some e, some c, some q =>
        match nextApply x with
        | none => .next ((setTicket s m x.nextEntry).post (.reconApplyOp m t))
        | some (far, op, v) =>
          let r := if far then applyTable (sendFlit s m x.peer) x.peer q op e.1 v else applyTable s m c op e.1 v
          let y : Ticket :=
            if r.bad then (x.meets 0x10).nextEntry
            else
              let y : Ticket := { x with phase := x.phase + 1, apfull := x.apfull || r.res == refusalWord 7 }
              if op = 13 then (if x.phase = 0 then { y with opA := r.value } else { y with opB := r.value }) else y
          .next ((setTicket r.s m y).post (.reconApplyOp m t))

end Sys2Proof.Machine
end

