-- ==== Sys2Proof/Machine/Rinse.lean ====
section
/-! DEFINITION. Rechecks and squashes of the vector window (23 R370 to R372), Rinse and the disturbance limit (23 R378 to R381), the pager's
moves (15 R276) and firmware's policy (23 R379, 17 R287). -/
namespace Sys2Proof.Machine

/-! ## Recheck and squash (23 R370 to R372) -/

/-- The result of a window entry. -/
def VEntry.result (e : VEntry) : VResult :=
  ⟨e.dest.map (fun d => (d.1, d.2.1)), e.mask.map (fun d => (d.1, d.2.1)), e.flags, if e.setsFirst then e.first else 0, e.scalar.map (·.2.1)⟩
/-- The entry with another result, on its core: the mask registers are those that the result names, since whether a KSAT bit is set is part of it, each with
the poison that it has. -/
def VEntry.withResult (e : VEntry) (c : Core) (r : VResult) : VEntry :=
  { e with
    dest := r.dest.map (fun d => (d.1, d.2, mget 0 (e.dest.map (fun x => (x.1, x.2.2))) d.1))
    mask := r.mask.map (fun d => (d.1, d.2, ((e.mask.find? (fun x => x.1 = d.1)).map (·.2.2)).getD (mget KReg.zero c.k d.1).poison))
    flags := r.flags, first := if e.setsFirst then r.first else e.first
    scalar := match e.scalar, r.scalar with | some x, some v => some (x.1, v, x.2.2) | x, _ => x }
/-- What an entry has changed beside the window follows the value that its recheck has settled: its scalar destination, and VDIRTY with VS (05 R87). -/
def VEntry.putScalar (e : VEntry) (s : State) : State :=
  s.updStrand e.strand (fun st =>
    { ({ st with vdirty := e.vdirty, vstate := e.vstate } : Strand).dirty (e.mask.foldl (fun b m => b ||| dirtyK m.1) (dirtyV (e.dest.map (·.1)))) with
      sregs := match e.scalar with | some x => mset x.1 ⟨x.2.1, true, .clean, 0⟩ st.sregs | none => st.sregs })
/-- The value that more of the results hold than any other. -/
def majority (rs : List VResult) : Option VResult := rs.find? (fun r => rs.all (fun q => q == r || decide (rs.count q < rs.count r)))

/-- What an instruction of the window has changed beside its result is taken back: LFSR, VSTART, the loop stack, VDIRTY and VS, a checkpoint that has
landed, a scalar destination, registers that it consumed, and a load's producer with its remote reads. -/
def VEntry.undo (e : VEntry) (s : State) (core : Nat) : State :=
  let s := s.updCore core (fun c => { c with
    v := e.before.foldl (fun m x => mset x.1 x.2 m) (e.took.foldl (fun m j => mset j { mget VReg.zero m j with full := true } m) c.v) })
  let s := if e.vtok = 0 then s else { s with remote := s.remote.filter (fun r => r.tok ≠ e.vtok) }
  s.updStrand e.strand (fun st =>
    { st with
      vec := { st.vec with lfsr := e.lfsr, vstart := e.vstart }, loops := e.loops, loopd := e.loopd, vdirty := e.vdirty, vstate := e.vstate, landed := none
      prods := if e.vtok = 0 then st.prods else st.prods.filter (fun d => d.tok ≠ e.vtok)
      sregs := match e.scalar with | some x => mset x.1 x.2.2 st.sregs | none => st.sregs })
/-- The strand's instructions in the window are discarded, with all their effects, and it takes a MACHINE_CHECK at the oldest (05 R88, 23 R370,
R372); the other strand's are reissued. No later instruction has executed: a strand's next instruction finds its window retired. -/
def windowCheck (s : State) (core : Nat) (e : VEntry) (qual : Nat) : State :=
  let s := e.undo (s.updCore core (fun c => { c with window := c.window.filter (fun x => x.strand ≠ e.strand) })) core
  takeTrapOn s e.strand { code := 0x17, qual := qual, epc := some e.pc }

/-- The oldest instruction of a core's window has been executed again: it retires if both results agree; else two more decide by majority, or the
strand takes a MACHINE_CHECK (23 R370). -/
def execVectorRecheck (core : Nat) (second third fourth : VResult) (s : State) : Host.Outcome State Fault Refusal :=
  match (s.core core).window with
  | [] => .next s
  | e :: rest =>
    if e.result = second then .next (retireOne s core)
    else
      let log := fun (s : State) (t : Byte) => s.logRec (core / 192) t 9 (core % 192) e.pc.toNat
      match majority [e.result, second, third, fourth] with
      | some r =>
        let e := e.withResult (s.core core) r
        .next (log (e.putScalar (retireOne (s.updCore core (fun c => { c with window := e :: rest })) core)) 0x07)
      | none => .next (windowCheck (log s 0x08) core e 1)

/-- An uncorrectable error in a core's vector window: its instructions are squashed and reissued from the replay queue, with the same results; an
entry squashed a third time in a row raises MACHINE_CHECK (23 R372). -/
def execSquashReplay (core : Nat) (s : State) : Host.Outcome State Fault Refusal :=
  match (s.core core).window with
  | [] => .next s
  | e :: _ =>
    let s := s.logRec (core / 192) 0x09 9 (core % 192) e.pc.toNat
    if 2 ≤ e.squashes then .next (windowCheck s core e 2)
    else .next (s.updCore core (fun c => { c with window := c.window.map (fun x => { x with squashes := x.squashes + 1 }) }))

/-! ## Errors in scratchpad and register storage (23 R373, R374, R382) -/

/-- A poisoned register is logged with the PC of a strand of its core. -/
def State.logFile (s : State) (p : Nat) : State := s.logRec (moduleOf p) 0x0C 9 (coreOf p % 192) (s.strand p).pc.toNat
/-- A strand of the core that owns vector register j. -/
def ownerOf (s : State) (core j : Nat) : Nat := if ownsV (s.core core).vpart (2 * core) j then 2 * core else 2 * core + 1
/-- An uncorrectable error poisons its unit where it is found; a register's is logged. The address that a scalar register's poison names is left open; s0 has
no storage.
(DESIGN CHOICE, safe: notes/assumptions/39.) -/
def flawAt (s : State) : Flaw → State
  | .scratch c w =>
    if Config.scratchBytes ≤ 8 * w then s else s.updCore c (fun x => { x with spoison := w :: x.spoison.filter (· ≠ w) })
  | .scalar p k =>
    if k = 0 ∨ 36 ≤ k then s
    else (s.draw.2.updStrand p (fun st => st.setCell k { st.cell k with mark := .poison (BitVec.ofNat 64 s.draw.1) })).logFile p
  | .vector c j ch =>
    let r := mget VReg.zero (s.core c).v j
    if 32 ≤ j ∨ 32 ≤ ch then s else (s.updCore c (fun x => { x with v := mset j { r with poison := r.poison ||| (1#32 <<< ch) } x.v })).logFile (ownerOf s c j)
  | .mask c j ch =>
    let r := mget KReg.zero (s.core c).k j
    if 8 ≤ j ∨ 4 ≤ ch then s else (s.updCore c (fun x => { x with k := mset j { r with poison := r.poison ||| (1#4 <<< ch) } x.k })).logFile (2 * c)
  | .tile c t r =>
    let x := (s.core c).mx.tile t
    if 8 ≤ t ∨ 128 ≤ r then s else (s.updMx c (fun m => { m with tiles := mset t { x with poison := x.poison ||| (1#128 <<< r) } m.tiles })).logFile (2 * c)
  | .bank c a r =>
    let x := (s.core c).mx.bank a
    if 2 ≤ a ∨ 128 ≤ r then s else (s.updMx c (fun m => { m with banks := mset a { x with poison := x.poison ||| (1#128 <<< r) } m.banks })).logFile (2 * c)
  | .slot c n =>
    let x := (s.core c).mx.slot n
    if 2 ≤ n then s else (s.updMx c (fun m => { m with slots := mset n { x with bad := true } m.slots })).logFile (2 * c)

/-! ## Rinse (23 R378 to R381) -/

/-- 24 hours in clk (01 R20). -/
def dayClk : Nat := 86400 * 1750000000

/-- A corrected error is counted against its bank; with CETHR of them in 24 hours re-encoding is requested, by a record that names the frames in the
bank's highest 1/32 of rows (23 R379, R380).
(DEDUCED, unsafe: notes/assumptions/40.) -/
def countError (s : State) (m pa : Nat) : State :=
  let bank := Config.bankOf (pa % 2 ^ 44)
  let s := s.logRec m 0x01 (srcOf pa) bank pa
  let r := (s.modl m).rinse
  let old := mget (0, s.clk) r.errors bank
  let new := if old.2 + dayClk < s.clk then (1, s.clk) else (old.1 + 1, old.2)
  let s := s.updRinse m (fun r => { r with errors := mset bank new r.errors })
  if r.cethr ≤ new.1 ∧ (mget .none r.reenc bank).state = 0 then
    (s.updRinse m (fun r => { r with reenc := mset bank ⟨1, srcOf pa, []⟩ r.reenc })).logWith m 0x04 (srcOf pa) bank pa
      (Config.namedFrames (Config.retiredFrames bank))
  else s

/-- The address by which a group knows what stands at a place: its own, or that of the member whose frame a rebuild has put there (22 R365, R366). -/
def knownAs (s : State) (place : Nat) : Nat :=
  let m := paModule place
  let o := place % 2 ^ 44
  match (groupsAt s m).findSome? (fun e => if e.2.members.contains m then none else e.2.members.find? (fun x => physOf s (x * 2 ^ 44 + o) == place)) with
  | some x => x * 2 ^ 44 + o
  | none => place
/-- An uncorrectable error in an ECC granule: rebuilt from parity in a data frame of a stripe in a normal group, else poisoned; a parity row's
stripe is then UNSURV (23 R378). -/
def scrubBad (s : State) (place : Nat) : State :=
  let e := place / 64
  let m := paModule place
  let pa := knownAs s place
  let poisoned := fun (s : State) => poisonAt s place
  match stripeAt s (paModule pa) (pa % 2 ^ 44) with
  | none => poisoned s
  | some (n, g, stripe, o) =>
    let ix := memberIx g (paModule pa)
    if ix = stripe % (g.k + 1) then markUnsurv (poisoned s) (holderNow s g stripe) n stripe pa
    else if g.state ≠ 1 then poisoned s
    else
      let s := opensStripe (foldStripe s n stripe) g ix stripe o
      let s := reportRefused s m (darnRefused s m g ix stripe)
      let r := reconstruct s g ix stripe (o / 64 * 64) 64
      if r.2 then poisoned s
      else State.logMem { s with mem := Memory.writeN s.mem (e * 64) 64 r.1, poison := s.poison.filter (· ≠ e) } m 0x03 place

/-- Rinse reads the ECC granule of an address, where that stands, as one event at its home, which waits for the granule's queue (23 R378, 15 R262). Corrected
data is what the granule already reads as. -/
def execScrubRead (pa : Nat) (f : ScrubFinding) (s : State) : Host.Outcome State Fault Refusal :=
  if areaOf pa = .nothing ∨ areaOf pa = .mailbox then .next s
  else if eventHeld s pa then .next (s.post (.scrubRead pa f))
  else
    let place := physOf s pa
    let m := paModule place
    let s := activate (gapEvent s (granOf pa)) m place
    match f with
    | .clean => .next s
    | .corrected => .next (countError s m place)
    | .uncorrectable => .next (scrubBad s (place / 64 * 64))

/-- The neighbours' refresh ends a row's count and its listing (23 R381). -/
def execNeighbourRefresh (m row : Nat) (s : State) : Host.Outcome State Fault Refusal :=
  .next (s.updRinse m (fun r => { r with acts := mdel row r.acts, listed := r.listed.filter (· ≠ row) }))

/-- Firmware has vacated a bank's highest rows and enables the re-encoding that Rinse requested (23 R380). -/
def execReencodeEnable (m bank : Nat) (s : State) : Host.Outcome State Fault Refusal :=
  let x := mget .none (s.modl m).rinse.reenc bank
  if x.state = 1 then
    .next ((s.updRinse m (fun r => { r with reenc := mset bank { x with state := 2 } r.reenc })).post (.reencodeRow m bank 0))
  else .next s

/-- Rinse rewrites one row of a bank under the stronger code; the last one closes the re-encoding (23 R380). -/
def execReencodeRow (m bank row : Nat) (s : State) : Host.Outcome State Fault Refusal :=
  let x := mget .none (s.modl m).rinse.reenc bank
  if x.state ≠ 2 ∨ Config.bankRows ≤ row ∨ x.rows.contains row then .next s
  else
    let rows := x.rows ++ [row]
    if Config.bankRows ≤ rows.length then
      .next ((s.updRinse m (fun r => { r with reenc := mset bank { x with state := 3, rows := rows } r.reenc })).logRec m 0x05 x.src bank 0)
    else .next ((s.updRinse m (fun r => { r with reenc := mset bank { x with rows := rows } r.reenc })).post (.reencodeRow m bank (row + 1)))

/-- Firmware sets a policy value; the hardware holds it within its bounds (17 R287, 23 R379). -/
def execPolicyWrite (m : Nat) (p : Policy) (s : State) : Host.Outcome State Fault Refusal :=
  let hold := fun (lo hi x : Nat) => Nat.max lo (Nat.min hi x)
  match p with
  | .patrol h => .next (s.updRinse m (fun r => { r with patrol := hold 1 168 h }))
  | .cethr n => .next (s.updRinse m (fun r => { r with cethr := hold 16 65535 n }))
  | .pwait c => .next (s.updHamper m (fun h => { h with pwait := hold 1024 65536 c }))

/-! ## The pager (15 R276) -/

/-- A physical address after frame a has moved to frame b. -/
def movedPa (a b pa : Nat) : Nat := if pa / 65536 = a then b * 65536 + pa % 65536 else pa
/-- A granule after frame a has moved to frame b. -/
def movedGran (a b g : Nat) : Nat := if g / 256 = a then b * 256 + g % 256 else g
/-- A frame after frame a has moved to frame b. -/
def movedFrame (a b f : Nat) : Nat := if f = a then b else f
/-- The keys of a map that are granules, after the move. -/
def movedMap {α : Type} (a b : Nat) (m : Map α) : Map α :=
  (m.filter (fun e => e.1 / 256 = a)).foldl (fun acc e => mset (movedGran a b e.1) e.2 acc) (m.filter (fun e => e.1 / 256 ≠ a ∧ e.1 / 256 ≠ b))
/-- Where a record stands, after the move. -/
def Place.moved (a b : Nat) : Place → Place
  | .parked c => .parked (movedPa a b c)
  | .page f => .page (movedFrame a b f)
  | p => p
/-- A translation whose leaf's own frame has moved. -/
def Tlb.moved (a b : Nat) (t : Tlb) : Tlb := { t with leafPa := movedPa a b t.leafPa }
/-- A continuation record, after the move. -/
def Rec.moved (a b : Nat) (r : Rec) : Rec := { r with place := r.place.moved a b, unturned := r.unturned.map (movedGran a b), turned := r.turned.map (fun t => (t.1, movedGran a b t.2)) }
/-- What a strand keeps by physical address, after the move. -/
def Strand.moved (a b : Nat) (st : Strand) : Strand :=
  { st with
    tlb := st.tlb.map (Tlb.moved a b), unturned := st.unturned.map (movedGran a b), turned := st.turned.map (fun t => (t.1, movedGran a b t.2)), start := st.start.map (Rec.moved a b)
    yielded := st.yielded.map (fun y => { y with place := y.place.moved a b }), early := st.early.map (fun e => { e with gran := movedGran a b e.gran })
    prods := st.prods.map (fun d => { d with
      late := d.late.map (fun x => (movedPa a b x.1, x.2)), home := d.home.map (movedPa a b), srcs := d.srcs.map (fun u => (movedPa a b (u.1 * 64) / 64, u.2)) }) }
/-- What a core's matrix queue keeps by physical address, after the move. -/
def Core.moved (a b : Nat) (c : Core) : Core :=
  { c with mx := { c.mx with queue := c.mx.queue.map (fun o => match o with
    | .store p t rb rows => .store p t rb (rows.map (fun r => { r with pa := movedPa a b r.pa, tlb := r.tlb.moved a b }))
    | o => o) } }
/-- What a module's engines keep by physical address, after the move. -/
def Module.moved (a b : Nat) (x : Module) : Module :=
  { x with
    hamper := { x.hamper with
      recs := x.hamper.recs.map (Rec.moved a b), regs := x.hamper.regs.map (fun r => (r.1, { r.2 with frame := movedFrame a b r.2.frame })) }
    classes := x.classes.map (fun c => { c with base := movedPa a b c.base, frames := c.frames.map (movedFrame a b) })
    tickets := x.tickets.map (fun t => { t with pages := t.pages.map (Tlb.moved a b) }) }
/-- An event set going on a version pair by its even frame, after the move. -/
def eventMoved (a b : Nat) : Instr → Instr
  | .catchupCopy f => .catchupCopy (movedFrame a b f)
  | .publishSwap f => .publishSwap (movedFrame a b f)
  | i => i

/-- Data, tags, poison and version state of frame a go to frame b, a retired frame as poison (23 R380); drains and held accesses are completed or go on there, and whatever an agent
keeps by the frame follows; copies are discarded. -/
def moveFrame (s : State) (a b : Nat) : State :=
  let s := (List.range 256).foldl (fun s i => dropCopies (drainGroup s (a * 256 + i) 5 0) (a * 256 + i) (fun _ => true)) s
  let s := opensRow (opensRow s (a * 65536)) (b * 65536)
  let vers := s.vers.map (fun (v : Nat × Vers) => (v.1, { v.2 with back := movedFrame a b v.2.back }))
  let gone := retiredAt s (a * 65536)
  { s with
    mem := Memory.writeN s.mem (b * 65536) 65536 (if gone then 0 else s.mem.readN (a * 65536) 65536)
    poison := s.poison.filter (fun e => e / 1024 ≠ b)
      ++ (if gone then (List.range 1024).map (b * 1024 + ·) else (s.poison.filter (fun e => e / 1024 = a)).map (fun e => b * 1024 + e % 1024))
    tags := movedMap a b s.tags
    vers := match vers.find? (fun v => v.1 = a) with | some v => mset b v.2 (mdel a vers) | none => vers
    gap := movedMap a b (s.gap.map (fun e => if e.1 / 256 = a then (e.1, e.2 + 1) else e))
    homeq := s.homeq.map (fun r => { r with pa := movedPa a b r.pa, lastPa := movedPa a b r.lastPa })
    adq := s.adq.map (fun u => { u with leafPa := movedPa a b u.leafPa })
    xfers := s.xfers.map (fun x => { x with pages := x.pages.map (Tlb.moved a b) })
    colls := s.colls.map (fun c => { c with pa := movedPa a b c.pa, place := c.place.map (fun x => (movedPa a b x.1, x.2)) })
    agenda := s.agenda.map (eventMoved a b)
    strands := s.strands.map (fun e => (e.1, e.2.moved a b))
    cores := s.cores.map (fun c => (c.1, c.2.moved a b))
    mods := s.mods.map (fun m => (m.1, m.2.moved a b)) }

/-- A frame lies in the second tier. -/
def inTier2 (f : Nat) : Bool := areaOf (f * 65536) == .tier2
/-- A frame lies in memory, and in no region that a parity group protects (22 R360). -/
def inFrames (s : State) (f : Nat) : Bool :=
  (match areaOf (f * 65536) with | .die _ => true | .tier2 => true | _ => false) && (stripeAt s (paModule (f * 65536)) (f * 65536 % 2 ^ 44)).isNone
/-- A leaf that names another frame, with TIER as the frame has it. -/
def leafTo (w : Word) (f : Nat) : Word := (w &&& ~~~0xFFFFFFFFF4000#64) ||| BitVec.ofNat 64 (f * 65536 + if inTier2 f then 0x4000 else 0)
/-- The leaf at an address, and the one after it. -/
def leafAt (s : State) (leaf : Nat) : Word := BitVec.ofNat 64 (homeRead s leaf 8).1
/-- The frames that move: a page of 64 KiB, a version pair, or the 8,192 of a page of 512 MiB. -/
def pageFrames (e q : Word) (big : Bool) (f : Nat) : List (Nat × Nat) :=
  if big then (List.range 8192).map (fun i => (pteFrame e + i, f + i))
  else (pteFrame e, f) :: (if e.getLsbD 9 then [(pteFrame q, f + 1)] else [])
/-- The pager may move the page of a leaf to a frame: a leaf in order, to the other tier of its module, a version pair whole, a page of 512 MiB to
an aligned place (15 R276).
(DEDUCED, unsafe: notes/assumptions/48.) -/
def migrates (s : State) (leaf newFrame : Nat) (big : Bool) : Bool :=
  let e := leafAt s leaf
  let q := leafAt s (leaf + 8)
  decide (leaf % 8 = 0) && e.getLsbD 0 && leafOk big e && (!e.getLsbD 9 || partnerOk e q) && (!big || decide (newFrame % 8192 = 0))
    && (pageFrames e q big newFrame).all (fun f =>
      inFrames s f.2 && inTier2 f.2 != inTier2 f.1 && paModule (f.2 * 65536) == paModule (f.1 * 65536))
    && leafOk big (leafTo e newFrame)
/-- A translation of the page of a leaf names the new frames. -/
def Tlb.retarget (t : Tlb) (leaf newFrame : Nat) : Tlb :=
  if t.leafPa = leaf then { t with leaf := leafTo t.leaf newFrame, partner := if t.leaf.getLsbD 9 then leafTo t.partner (newFrame + 1) else t.partner }
  else t
/-- The page of a leaf moved: its frames, then its leaves; the translations of it that strands hold go, those that an engine's access has taken
follow. -/
def migrate (s : State) (leaf newFrame : Nat) (big : Bool) : State :=
  let e := leafAt s leaf
  let q := leafAt s (leaf + 8)
  let vers := e.getLsbD 9
  let s := (pageFrames e q big newFrame).foldl (fun s f => moveFrame s f.1 f.2) s
  let s := domainWrite s leaf 8 (leafTo e newFrame).toNat
  let s := if vers then domainWrite s (leaf + 8) 8 (leafTo q (newFrame + 1)).toNat else s
  { s with
    strands := s.strands.map (fun x => (x.1, { x.2 with tlb := x.2.tlb.filter (fun t => t.leafPa ≠ leaf) }))
    cores := s.cores.map (fun c => (c.1, { c.2 with mx := { c.2.mx with queue := c.2.mx.queue.map (fun o => match o with
      | .store p t rb rows => .store p t rb (rows.map (fun r => if r.tlb.leafPa = leaf then { r with leaf := leafTo r.leaf newFrame, tlb := r.tlb.retarget leaf newFrame } else r))
      | o => o) } }))
    xfers := s.xfers.map (fun x => { x with pages := x.pages.map (fun t => t.retarget leaf newFrame) })
    mods := s.mods.map (fun m => (m.1, { m.2 with tickets := m.2.tickets.map (fun t => { t with pages := t.pages.map (fun x => x.retarget leaf newFrame) }) })) }

/-- A granule of a frame waits for the next atomic of its queue, or a seal holds it: an event on the whole frame waits (15 R262, 22 R368). -/
def frameHeld (s : State) (f : Nat) : Bool := s.gap.any (fun e => e.1 / 256 == f && gapFull s e.1) || heldAt s (f * 65536)
/-- The move of a page waits for what holds its frames, the new ones or its leaves. -/
def moveHeld (s : State) (leaf newFrame : Nat) (big : Bool) : Bool :=
  eventHeld s leaf || (pageFrames (leafAt s leaf) (leafAt s (leaf + 8)) big newFrame).any (fun f => frameHeld s f.1 || frameHeld s f.2)
/-- Firmware's pager moves the page of a leaf, by the leaf's physical address, to which it adds 1 for the leaf of a page of 512 MiB, to another
tier: a versioned page as a pair, its partner to the frame after the new one (15 R276). -/
def execPageMigration (leaf newFrame : Nat) (s : State) : Host.Outcome State Fault Refusal :=
  let big := leaf % 8 == 1
  let at_ := if big then leaf - 1 else leaf
  let s := drainGroup s (granOf at_) 5 0
  .next (if !migrates s at_ newFrame big then s
    else if moveHeld s at_ newFrame big then s.post (.pageMigration leaf newFrame) else migrate (gapEvent s (granOf at_)) at_ newFrame big)

end Sys2Proof.Machine
end

