-- ==== Sys2Proof/Machine/Scalar.lean ====
section
/-! DEFINITION. Majors 0x00 to 0x07: NOP, the integer unit, LI and address arithmetic (02 R37, 06 R100 to R107). -/
namespace Sys2Proof.Machine

/-- NOP changes nothing but the pc (02 R37). -/
def execNop (s : State) : Host.Outcome State Fault Refusal := finish (advance s)

/-- A register-form result: sources under R40, the function at width n, the destination (06 R100). -/
def aluReg (s : State) (o : AluR) (f : Nat → Word → Word → Word) : Res State := do
  operands s [.s o.b o.fb, .s o.c o.fc]
  writeBackS s o.d (f (widthOf o.w) (sv s o.b) (sv s o.c))

/-- An immediate-form result (06 R101). -/
def aluImm (s : State) (o : AluI) (f : Nat → Word → Word → Word) : Res State := do
  operands s [.s o.b o.fb]
  writeBackS s o.d (f (widthOf o.w) (sv s o.b) o.imm.word)

/-- The rows of the MIN table of 06 R101, at width n. -/
def fAdd (n : Nat) (a b : Word) : Word := wrapAt n (sAt n a + sAt n b)
def fSub (n : Nat) (a b : Word) : Word := wrapAt n (sAt n a - sAt n b)
def fRsb (n : Nat) (a b : Word) : Word := wrapAt n (sAt n b - sAt n a)
def fAnd (n : Nat) (a b : Word) : Word := wrapAt n (uAt n a &&& uAt n b : Nat)
def fOr (n : Nat) (a b : Word) : Word := wrapAt n (uAt n a ||| uAt n b : Nat)
def fXor (n : Nat) (a b : Word) : Word := wrapAt n (uAt n a ^^^ uAt n b : Nat)
def fAndn (n : Nat) (a b : Word) : Word := wrapAt n (uAt n a &&& uAt n (~~~b) : Nat)
def fSll (n : Nat) (a b : Word) : Word := wrapAt n (uAt n a * 2 ^ (uAt n b % n) : Nat)
def fSrl (n : Nat) (a b : Word) : Word := wrapAt n (uAt n a / 2 ^ (uAt n b % n) : Nat)
def fSra (n : Nat) (a b : Word) : Word := wrapAt n (sAt n a / 2 ^ (uAt n b % n))
def fRor (n : Nat) (a b : Word) : Word :=
  wrapAt n (uAt n a / 2 ^ (uAt n b % n) ||| (uAt n a * 2 ^ (n - uAt n b % n)) % 2 ^ n : Nat)
def fSlt (n : Nat) (a b : Word) : Word := if sAt n a < sAt n b then 1 else 0
def fSltu (n : Nat) (a b : Word) : Word := if uAt n a < uAt n b then 1 else 0
def fMin (n : Nat) (a b : Word) : Word := wrapAt n (if sAt n a < sAt n b then sAt n a else sAt n b)
def fMax (n : Nat) (a b : Word) : Word := wrapAt n (if sAt n a < sAt n b then sAt n b else sAt n a)
def fMinu (n : Nat) (a b : Word) : Word := wrapAt n (Nat.min (uAt n a) (uAt n b) : Nat)
def fMaxu (n : Nat) (a b : Word) : Word := wrapAt n (Nat.max (uAt n a) (uAt n b) : Nat)

/-- add (06 R101). -/
def execAdd (o : AluR) (s : State) : Host.Outcome State Fault Refusal := finish (aluReg s o fAdd)
/-- sub (06 R101). -/
def execSub (o : AluR) (s : State) : Host.Outcome State Fault Refusal := finish (aluReg s o fSub)
/-- and (06 R101). -/
def execAnd (o : AluR) (s : State) : Host.Outcome State Fault Refusal := finish (aluReg s o fAnd)
/-- or (06 R101). -/
def execOr (o : AluR) (s : State) : Host.Outcome State Fault Refusal := finish (aluReg s o fOr)
/-- xor (06 R101). -/
def execXor (o : AluR) (s : State) : Host.Outcome State Fault Refusal := finish (aluReg s o fXor)
/-- andn (06 R101). -/
def execAndn (o : AluR) (s : State) : Host.Outcome State Fault Refusal := finish (aluReg s o fAndn)
/-- sll (06 R101). -/
def execSll (o : AluR) (s : State) : Host.Outcome State Fault Refusal := finish (aluReg s o fSll)
/-- srl (06 R101). -/
def execSrl (o : AluR) (s : State) : Host.Outcome State Fault Refusal := finish (aluReg s o fSrl)
/-- sra (06 R101). -/
def execSra (o : AluR) (s : State) : Host.Outcome State Fault Refusal := finish (aluReg s o fSra)
/-- ror (06 R101). -/
def execRor (o : AluR) (s : State) : Host.Outcome State Fault Refusal := finish (aluReg s o fRor)
/-- slt (06 R101). -/
def execSlt (o : AluR) (s : State) : Host.Outcome State Fault Refusal := finish (aluReg s o fSlt)
/-- sltu (06 R101). -/
def execSltu (o : AluR) (s : State) : Host.Outcome State Fault Refusal := finish (aluReg s o fSltu)
/-- min (06 R101). -/
def execMin (o : AluR) (s : State) : Host.Outcome State Fault Refusal := finish (aluReg s o fMin)
/-- max (06 R101). -/
def execMax (o : AluR) (s : State) : Host.Outcome State Fault Refusal := finish (aluReg s o fMax)
/-- minu (06 R101). -/
def execMinu (o : AluR) (s : State) : Host.Outcome State Fault Refusal := finish (aluReg s o fMinu)
/-- maxu (06 R101). -/
def execMaxu (o : AluR) (s : State) : Host.Outcome State Fault Refusal := finish (aluReg s o fMaxu)
/-- add, immediate (06 R101). -/
def execAddImm (o : AluI) (s : State) : Host.Outcome State Fault Refusal := finish (aluImm s o fAdd)
/-- rsb, immediate (06 R101). -/
def execRsbImm (o : AluI) (s : State) : Host.Outcome State Fault Refusal := finish (aluImm s o fRsb)
/-- and, immediate (06 R101). -/
def execAndImm (o : AluI) (s : State) : Host.Outcome State Fault Refusal := finish (aluImm s o fAnd)
/-- or, immediate (06 R101). -/
def execOrImm (o : AluI) (s : State) : Host.Outcome State Fault Refusal := finish (aluImm s o fOr)
/-- xor, immediate (06 R101). -/
def execXorImm (o : AluI) (s : State) : Host.Outcome State Fault Refusal := finish (aluImm s o fXor)
/-- andn, immediate (06 R101). -/
def execAndnImm (o : AluI) (s : State) : Host.Outcome State Fault Refusal := finish (aluImm s o fAndn)
/-- sll, immediate (06 R101). -/
def execSllImm (o : AluI) (s : State) : Host.Outcome State Fault Refusal := finish (aluImm s o fSll)
/-- srl, immediate (06 R101). -/
def execSrlImm (o : AluI) (s : State) : Host.Outcome State Fault Refusal := finish (aluImm s o fSrl)
/-- sra, immediate (06 R101). -/
def execSraImm (o : AluI) (s : State) : Host.Outcome State Fault Refusal := finish (aluImm s o fSra)
/-- ror, immediate (06 R101). -/
def execRorImm (o : AluI) (s : State) : Host.Outcome State Fault Refusal := finish (aluImm s o fRor)
/-- slt, immediate (06 R101). -/
def execSltImm (o : AluI) (s : State) : Host.Outcome State Fault Refusal := finish (aluImm s o fSlt)
/-- sltu, immediate (06 R101). -/
def execSltuImm (o : AluI) (s : State) : Host.Outcome State Fault Refusal := finish (aluImm s o fSltu)
/-- min, immediate (06 R101). -/
def execMinImm (o : AluI) (s : State) : Host.Outcome State Fault Refusal := finish (aluImm s o fMin)
/-- max, immediate (06 R101). -/
def execMaxImm (o : AluI) (s : State) : Host.Outcome State Fault Refusal := finish (aluImm s o fMax)
/-- minu, immediate (06 R101). -/
def execMinuImm (o : AluI) (s : State) : Host.Outcome State Fault Refusal := finish (aluImm s o fMinu)
/-- maxu, immediate (06 R101). -/
def execMaxuImm (o : AluI) (s : State) : Host.Outcome State Fault Refusal := finish (aluImm s o fMaxu)

/-- The rows of 06 R102 at width n; the quotient of the most negative value by -1 wraps (06 R103). -/
def fMul (n : Nat) (a b : Word) : Word := wrapAt n (sAt n a * sAt n b)
def fMulh (n : Nat) (a b : Word) : Word := wrapAt n (sAt n a * sAt n b / 2 ^ n)
def fMulhu (n : Nat) (a b : Word) : Word := wrapAt n (uAt n a * uAt n b / 2 ^ n : Nat)
def fMulhsu (n : Nat) (a b : Word) : Word := wrapAt n (sAt n a * (uAt n b : Int) / 2 ^ n)
def fDiv (n : Nat) (a b : Word) : Word := wrapAt n ((sAt n a).tdiv (sAt n b))
def fDivu (n : Nat) (a b : Word) : Word := wrapAt n (uAt n a / uAt n b : Nat)
def fRem (n : Nat) (a b : Word) : Word := wrapAt n (sAt n a - sAt n b * (sAt n a).tdiv (sAt n b))
def fRemu (n : Nat) (a b : Word) : Word := wrapAt n (uAt n a - uAt n b * (uAt n a / uAt n b) : Nat)

/-- A division form: a zero divisor raises ARITH with QUAL 0x01 (06 R102). -/
def divReg (s : State) (o : AluR) (f : Nat → Word → Word → Word) : Res State := do
  operands s [.s o.b o.fb, .s o.c o.fc]
  need (uAt (widthOf o.w) (sv s o.c) != 0) (raise s 0x0F 1)
  writeBackS s o.d (f (widthOf o.w) (sv s o.b) (sv s o.c))

/-- mul (06 R102). -/
def execMul (o : AluR) (s : State) : Host.Outcome State Fault Refusal := finish (aluReg s o fMul)
/-- mulh (06 R102). -/
def execMulh (o : AluR) (s : State) : Host.Outcome State Fault Refusal := finish (aluReg s o fMulh)
/-- mulhu (06 R102). -/
def execMulhu (o : AluR) (s : State) : Host.Outcome State Fault Refusal := finish (aluReg s o fMulhu)
/-- mulhsu (06 R102). -/
def execMulhsu (o : AluR) (s : State) : Host.Outcome State Fault Refusal := finish (aluReg s o fMulhsu)
/-- div (06 R102). -/
def execDiv (o : AluR) (s : State) : Host.Outcome State Fault Refusal := finish (divReg s o fDiv)
/-- divu (06 R102). -/
def execDivu (o : AluR) (s : State) : Host.Outcome State Fault Refusal := finish (divReg s o fDivu)
/-- rem (06 R102). -/
def execRem (o : AluR) (s : State) : Host.Outcome State Fault Refusal := finish (divReg s o fRem)
/-- remu (06 R102). -/
def execRemu (o : AluR) (s : State) : Host.Outcome State Fault Refusal := finish (divReg s o fRemu)

/-- The width of a bit count: 8 << WC (06 R104). -/
def wcWidth (wc : BitVec 2) : Nat := 8 * 2 ^ wc.toNat
/-- Leading zeros of an n-bit number. -/
def clzNat (n x : Nat) : Nat := if x = 0 then n else n - 1 - Nat.log2 x
/-- Trailing zeros of an n-bit number. -/
def ctzNat (n x : Nat) : Nat := ((List.range n).find? (fun i => x.testBit i)).getD n
/-- Number of ones. -/
def popNat (n x : Nat) : Nat := (List.range n).countP (fun i => x.testBit i)
/-- Bit i to bit n-1-i. -/
def brevNat (n x : Nat) : Nat := (List.range n).foldl (fun acc i => if x.testBit i then acc + 2 ^ (n - 1 - i) else acc) 0
/-- Byte j to byte n/8-1-j. -/
def bswapNat (n x : Nat) : Nat := (List.range (n / 8)).foldl (fun acc j => acc + x / 256 ^ j % 256 * 256 ^ (n / 8 - 1 - j)) 0

/-- A unary bit operation, zero-extended from its width (06 R104). -/
def bitUnary (s : State) (o : BitU) (f : Nat → Nat → Nat) : Res State := do
  operands s [.s o.b o.fb]
  writeBackS s o.d (BitVec.ofNat 64 (f (wcWidth o.wc) (uAt (wcWidth o.wc) (sv s o.b))))

/-- clz (06 R104, R105). -/
def execClz (o : BitU) (s : State) : Host.Outcome State Fault Refusal := finish (bitUnary s o clzNat)
/-- ctz (06 R104, R105). -/
def execCtz (o : BitU) (s : State) : Host.Outcome State Fault Refusal := finish (bitUnary s o ctzNat)
/-- popc (06 R104, R105). -/
def execPopc (o : BitU) (s : State) : Host.Outcome State Fault Refusal := finish (bitUnary s o popNat)
/-- brev (06 R104, R105). -/
def execBrev (o : BitU) (s : State) : Host.Outcome State Fault Refusal := finish (bitUnary s o brevNat)
/-- bswap (06 R104, R105). -/
def execBswap (o : BitU) (s : State) : Host.Outcome State Fault Refusal := finish (bitUnary s o bswapNat)

/-- sel: (sB AND sA) OR (sC AND NOT sA) (06 R104). -/
def execSel (o : SelOps) (s : State) : Host.Outcome State Fault Refusal := finish do
  operands s [.s o.b o.fb, .s o.c o.fc, .s o.a o.fa]
  writeBackS s o.d ((sv s o.b &&& sv s o.a) ||| (sv s o.c &&& ~~~(sv s o.a)))

/-- LEN ones. -/
def lenMask (lenm1 : BitVec 6) : Word := BitVec.ofNat 64 (2 ^ (lenm1.toNat + 1) - 1)

/-- ext: a field, zero-extended (06 R104). -/
def execExt (o : ExtOps) (s : State) : Host.Outcome State Fault Refusal := finish do
  operands s [.s o.b o.fb]
  writeBackS s o.d ((sv s o.b >>> o.pos.toNat) &&& lenMask o.lenm1)

/-- extn: the same field, sign-extended from its top bit. -/
def execExtn (o : ExtOps) (s : State) : Host.Outcome State Fault Refusal := finish do
  operands s [.s o.b o.fb]
  writeBackS s o.d (wrapAt (o.lenm1.toNat + 1) ((sv s o.b >>> o.pos.toNat).toNat : Int))

/-- ins: sB's low LEN bits replace a field of sD, which is read under F = 0. -/
def execIns (o : ExtOps) (s : State) : Host.Outcome State Fault Refusal := finish do
  operands s [.s o.b o.fb, .s o.d false]
  let m := lenMask o.lenm1 <<< o.pos.toNat
  writeBackS s o.d ((sv s o.d &&& ~~~m) ||| ((sv s o.b <<< o.pos.toNat) &&& m))

/-- li, 16 bits (06 R106). -/
def execLi16 (z : Bool) (d : Reg) (i : BitVec 16) (s : State) : Host.Outcome State Fault Refusal :=
  finish (writeBackS s d (if z then i.setWidth 64 else i.signExtend 64))
/-- li, 32 bits. -/
def execLi32 (z : Bool) (d : Reg) (i : BitVec 32) (s : State) : Host.Outcome State Fault Refusal :=
  finish (writeBackS s d (if z then i.setWidth 64 else i.signExtend 64))
/-- li, 64 bits. -/
def execLi64 (d : Reg) (i : BitVec 64) (s : State) : Host.Outcome State Fault Refusal := finish (writeBackS s d i)

/-- sB + (sC << SC) + disp (06 R107). -/
def leaOp (s : State) (o : LeaOps) (disp : Word) : Res State := do
  operands s [.s o.b o.fb, .s o.c o.fc]
  writeBackS s o.d (sv s o.b + (sv s o.c <<< o.sc.toNat) + disp)
/-- lea (06 R107). -/
def execLea (o : LeaOps) (s : State) : Host.Outcome State Fault Refusal := finish (leaOp s o 0)
/-- lea with a displacement. -/
def execLeaDisp (o : LeaOps) (disp : Imm) (s : State) : Host.Outcome State Fault Refusal := finish (leaOp s o disp.word)
/-- addpc: the address of its own head plus a byte displacement (06 R107). -/
def execAddpc (d : Reg) (disp : Imm) (s : State) : Host.Outcome State Fault Refusal := finish (writeBackS s d (s.me.pc + disp.word))

end Sys2Proof.Machine
end

