-- ==== Sys2Proof/Machine/System.lean ====
section
/-! DEFINITION. The management controller (24): boot, release, access tables, the mailbox and its commands, power and temperature, and the TAP;
and the withdrawal of strands (17 R282). -/
namespace Sys2Proof.Machine

/-- Changes the management controller of module m. -/
def State.updMgmt (s : State) (m : Nat) (f : Mgmt → Mgmt) : State := s.updMod m (fun x => { x with mgmt := f x.mgmt })

/-! ## Boot (24 R383, R384) -/

/-- Every part of the domain that stands on module m as after power-on; its clk counts from now (05 R86), and its Dexlinks start anew at both ends. -/
def clearModule (s : State) (m : Nat) : State :=
  let far := fun (a : Nat) => paModule a != m
  let lost := ((List.range 24).map (fun i => (s.mods.map (fun x => (linkAt s x.1 i m).unsent)).flatten)).flatten
  { s with
    mem := s.mem.filter (fun c => far c.1)
    poison := s.poison.filter (fun e => far (e * 64))
    tags := s.tags.filter (fun t => granModule t.1 ≠ m)
    inbound := s.inbound.filter (fun (c : Inbound) => far (c.gran * 256) && (if c.cluster then c.unit / 48 else c.unit / 192) != m)
    outbound := s.outbound.filter (fun (o : Outbound) => far (o.gran * 256) && o.cluster / 48 != m)
    merges := s.merges.filter (fun (x : Merge) => x.cells.all (fun c => far c.1))
    vers := s.vers.filter (fun v => far (v.1 * 65536))
    adq := s.adq.filter (fun (x : AdUpdate) => far x.leafPa)
    homeq := s.homeq.filter (fun (r : HomeReq) => moduleOf r.strand != m)
    remote := s.remote.filter (fun (r : Remote) => moduleOf r.strand != m && r.core / 192 != m)
    deltas := s.deltas.filter (fun (d : Delta) => d.home != m)
    xfers := s.xfers.filter (fun (x : Xfer) => moduleOf x.strand != m)
    strands := s.strands.filter (fun (x : Nat × Strand) => moduleOf x.1 != m)
    cores := s.cores.filter (fun (x : Nat × Core) => x.1 / 192 != m)
    colls := s.colls.filter (fun (c : Coll) => far c.pa)
    gap := s.gap.filter (fun g => granModule g.1 ≠ m)
    net := s.net.filter (fun (x : Packet) => routerModule x.src != m && routerModule x.dst != m)
    redirect := s.redirect.filter (fun r => r.2 ≠ m)
    transit := s.transit.filter (fun x => !lost.contains x)
    mods := mset m { Module.reset with clk0 := s.clk } (s.mods.map (fun x => (x.1, { x.2 with
      ports := x.2.ports.map (fun e => (e.1, { e.2 with links := mdel m e.2.links })) }))) }

/-- Steps 1 to 3 of the boot ROM: the image can be read, its key is the fused one, its signature verifies, and it is no older than the fuses allow
(24 R383). -/
def imageOk (f : Fuses) (least : Nat) (image : BootImage) : Bool :=
  image.readable && Config.keyHash image.key == f.keyHash && Config.slhDsaVerify image.key image.bytes image.signature && decide (least ≤ image.version)
/-- Step 4: the ROM, the image and the fuse configuration are measured into slots 1 to 3; slot 4 is firmware's (24 R383, R384). -/
def bootMeasures (f : Fuses) (image : BootImage) : List (BitVec 384) :=
  [Config.sha3 Config.bootRom, Config.sha3 image.bytes, Config.sha3 f.config, 0]
/-- The boot of an image: firmware starts, with the identity of this boot and the TAP disabled, or the recovery state (24 R383, R385, R389). -/
def Mgmt.start (g : Mgmt) (image : BootImage) : Mgmt :=
  if imageOk g.fuses g.minVersion image then
    { g with boot := 2, version := image.version, meas := bootMeasures g.fuses image, identity := Config.identity g.fuses.secret (Config.sha3 image.bytes)
             tap := false }
  else { g with boot := 1 }
/-- Power-on reset of module m: its strands are held, and the boot ROM boots the image. The fuses keep what they hold (24 R383). -/
def execPowerOnReset (m : Nat) (image : BootImage) (s : State) : Host.Outcome State Fault Refusal :=
  let old := (s.modl m).mgmt
  .next ((clearModule s m).updMgmt m (fun g => Mgmt.start { g with fuses := old.fuses, minVersion := old.minVersion } image))

/-- Firmware loads the boot values, the access tables, PGRP and its policy, measures its policy tables and releases the strands, which are idle
(24 R384). -/
def execStrandRelease (m : Nat) (boot : BootValues) (s : State) : Host.Outcome State Fault Refusal :=
  let g := (s.modl m).mgmt
  if g.boot ≠ 2 ∨ g.released = true then .next s
  else
    let s := s.updMod m (fun x => { x with access := boot.access.map (fun a => ⟨a.1, a.2.1, a.2.2⟩) })
    let s := writePgrp s m boot.pgrp
    let s := s.updHamper m (fun h => { h with
      pwait := Nat.max 1024 (Nat.min 65536 boot.pwait), slots := Nat.max 65536 (Nat.min (2 ^ 26) boot.slots) })
    let s := s.updMgmt m (fun g => { g with released := true, meas := g.meas.set 3 boot.meas4 })
    .next ((List.range 384).foldl (fun s p => s.updStrand (m * 384 + p) (fun st => { st with run := .idle, tvec := boot.tvec })) s)

/-- Firmware writes an access-table entry, which accesses that arrive afterwards use (24 R386, R387). -/
def execAccessTableWrite (m target ep : Nat) (entry : Word) (s : State) : Host.Outcome State Fault Refusal :=
  if (s.modl m).mgmt.boot ≠ 2 ∨ 6 ≤ target ∨ 1024 ≤ ep then .next s
  else .next (s.updMod m (fun x => { x with access := ⟨target, ep, entry⟩ :: x.access.filter (fun a => ¬ (a.target = target ∧ a.ep = ep)) }))

/-! ## The mailbox (24 R388) -/

/-- The address of a mailbox offset. -/
def mboxAt (m o : Nat) : Nat := m * 2 ^ 44 + 0xF0000000000 + o
/-- A little-endian number of a request.
(DESIGN CHOICE, unsafe: notes/assumptions/42.) -/
def requestN (s : State) (m o n : Nat) : Nat := s.mem.readN (mboxAt m (0x100 + o)) n

/-- A doorbell has been written: with no request under way the controller takes the one at 0x100; in the recovery state commands 0x01 and 0x02
alone, from the PCIe port (24 R383, R388). -/
def execMailboxDoorbell (m ep : Nat) (s : State) : Host.Outcome State Fault Refusal :=
  let g := (s.modl m).mgmt
  let c := requestN s m 0 1
  if g.boot = 0 ∨ g.cmd.isSome = true ∨ s.mem.readN (mboxAt m 0) 1 ≠ 1 then .next s
  else if g.boot = 1 ∧ ¬ (ep = pcieEp ∧ (c = 1 ∨ c = 2)) then .next s
  else
    let s := s.updMgmt m (fun g => { g with cmd := some c, asker := ep })
    match c with
    | 1 => .next (s.post (.spdmMessage m))
    | 2 => .next (s.post (.readErrorLog m))
    | 3 => .next (s.post (.readHaltedState m))
    | 4 => .next (s.post (.resumeHaltedStrand m))
    | 5 => .next (s.post (.setPowerCap m))
    | 6 => .next (s.post (.readSensors m))
    | 7 => .next (s.post (.raiseSecurityVersion m))
    | _ => .next (s.updMgmt m (fun g => { g with cmd := none }))

/-- Bytes of the answer at 0x2000, after which the doorbell is cleared and the request is served. -/
def answerBytes (s : State) (m : Nat) (bs : List Nat) : State :=
  let mem := (bs.zipIdx).foldl (fun (mem : Memory) b => Memory.writeN mem (mboxAt m (0x2000 + b.2)) 1 b.1) s.mem
  let s := { s with mem := Memory.writeN mem (mboxAt m 0) 1 0 }
  let s := { s with inbound := s.inbound.filter (fun (c : Inbound) => ¬ (mboxAt m 0 / 65536 = c.gran / 256)) }
  s.updMgmt m (fun g => { g with cmd := none })
/-- The n bytes of a number, the lowest first. -/
def numBytes (n v : Nat) : List Nat := (List.range n).map (fun i => v / 256 ^ i % 256)
/-- The bytes of dwords. -/
def dwordBytes (ws : List Nat) : List Nat := ws.flatMap (numBytes 8)
/-- An answer whose contents the spec leaves open: free bytes, as many as a free number says, at most 4,096. -/
def answerFree (s : State) (m : Nat) : State :=
  let d := s.draw
  let n := d.1 % 4097
  let r := (List.range n).foldl (fun (acc : List Nat × State) _ => let x := acc.2.draw; (acc.1 ++ [x.1 % 256], x.2)) ([], d.2)
  answerBytes r.2 m r.1
/-- Serves the request under way when it is command c. -/
def serve (s : State) (m c : Nat) (f : State → State) : Host.Outcome State Fault Refusal :=
  if (s.modl m).mgmt.cmd = some c then .next (f s) else .next s

/-- A measurement block of slot i: its index, DMTF's format with its size, the kind of what is measured, and the digest (24 R385). -/
def measBlock (g : Mgmt) (i : Nat) : List Nat := [i, 1] ++ numBytes 2 51 ++ [i - 1] ++ numBytes 2 48 ++ numBytes 48 (g.meas.getD (i - 1) 0).toNat
/-- The start of MEASUREMENTS for an operation: how many indices there are, the block of one, or all of them; none for an index that is no slot. -/
def measAnswer (g : Mgmt) (v op : Nat) : Option (List Nat) :=
  let blocks := fun (is : List Nat) => let b := is.flatMap (measBlock g); some ([v, 0x60, 0, 0, is.length] ++ numBytes 3 b.length ++ b)
  if op = 0 then some ([v, 0x60, 4, 0, 0] ++ numBytes 3 0)
  else if op ≤ 4 then blocks [op] else if op = 0xFF then blocks [1, 2, 3, 4] else none
/-- ALGORITHMS: DMTF measurements of SHA-384, ECDSA P-384 with SHA-384, and one table, AES-256-GCM: nothing else is offered (24 R385). -/
def algAnswer (v : Nat) : List Nat :=
  [v, 0x63, 1, 0] ++ numBytes 2 40 ++ [1, 0] ++ numBytes 4 4 ++ numBytes 4 0x80 ++ numBytes 4 2 ++ numBytes 16 0 ++ [3, 0x20, 2, 0]
/-- An SPDM error. -/
def spdmError (v code data : Nat) : List Nat := [v, 0x7F, code, data]
/-- The responder (24 R385): the answer to a request, which free bytes follow where the answer's contents are a matter of keys and sessions (whether they do).
The codes are DMTF's, which the spec does not list.
(PRESUMED, unsafe: notes/assumptions/59.) -/
def spdmAnswer (g : Mgmt) (v code op : Nat) : List Nat × Bool :=
  if code = 0x84 then ([0x10, 0x04, 0, 0, 0, 2] ++ numBytes 2 0x1200 ++ numBytes 2 0x1300, false)
  else if v ≠ 0x12 ∧ v ≠ 0x13 then (spdmError 0x12 0x41 0, false)
  else if code = 0xE0 then (match measAnswer g v op with | some a => (a, true) | none => (spdmError v 0x01 0, false))
  else if code = 0xE3 then (algAnswer v, false)
  else if [0x81, 0x82, 0x83, 0xE1, 0xE4, 0xE5].contains code then ([v, code - 0x80], true)
  else (spdmError v 0x07 code, false)
/-- Command 0x01: one SPDM message, from the request's second dword on, and its answer (24 R385). -/
def execSpdmMessage (m : Nat) (s : State) : Host.Outcome State Fault Refusal :=
  serve s m 1 (fun s =>
    let g := (s.modl m).mgmt
    let a := spdmAnswer g (requestN s m 8 1) (requestN s m 9 1) (requestN s m 11 1)
    let d := s.draw
    if a.2 then answerBytes d.2 m (a.1 ++ (Config.spdmBody (a.1.getD 1 0) g.identity (numBytes 4088 (requestN s m 8 4088)) d.1).map (· % 256))
    else answerBytes s m a.1)

/-- The 32 bytes of a log record (23 R382). -/
def LogRec.words (r : LogRec) : List Nat :=
  [r.type.toNat + r.src.toNat * 2 ^ 8 + r.unit % 65536 * 2 ^ 16 + r.count % 2 ^ 32 * 2 ^ 32, r.addr, r.time, r.detail.toNat]
/-- Command 0x02: records of the error log, from the number in the request's second dword: how many there are, how many were dropped, then up to
126 records (the layout of request and answer is the model's). -/
def execReadErrorLog (m : Nat) (s : State) : Host.Outcome State Fault Refusal :=
  serve s m 2 (fun s =>
    let x := s.modl m
    let rs := (x.log.drop (requestN s m 8 8)).take 126
    answerBytes s m (dwordBytes ([x.log.length, x.logDrops] ++ (rs.map LogRec.words).flatten)))

/-- The strand that a request names in its second dword, when it is halted. -/
def haltedStrand (s : State) (m : Nat) : Option Nat :=
  let p := requestN s m 8 8
  if p < 384 ∧ (s.strand (m * 384 + p)).run = .halted then some (m * 384 + p) else none
/-- A bit a register, the first lowest. -/
def bitsOf (bs : List Bool) : Nat := bs.foldr (fun b n => n * 2 + b.toNat) 0
/-- The registers of a strand: its pc, the full and the poison bits of s0 to s31 and the shadow registers, their values, and every system register by
ascending number (05 R85). -/
def haltedRegs (s : State) (p : Nat) : List Nat :=
  let st := s.strand p
  let cells := (List.range 36).map st.cell
  [st.pc.toNat, bitsOf (cells.map SReg.full), bitsOf (cells.map (fun c => c.mark != .clean))] ++ cells.map (fun c => c.val.toNat)
  ++ ((List.range 0x200).filter (fun n => sysAssigned (BitVec.ofNat 12 n))).map (fun n => (sysRead { s with cur := p } st (s.core (coreOf p)) n).toNat)
/-- A section of a strand's state: 0 its registers; 1 to 32 the vector registers of its core, 33 to 40 the mask registers, 41 to 48 the tiles, 49 to 52 the
halves of the banks, each after its full and poison bits; 53 the codebook slots. None is longer than what the mailbox has from 0x2000 on.
(DESIGN CHOICE, unsafe: notes/assumptions/42.) -/
def haltedPart (s : State) (p j : Nat) : List Nat :=
  let c := s.core (coreOf p)
  if j = 0 then dwordBytes (haltedRegs s p)
  else if j ≤ 32 then
    let v := mget VReg.zero c.v (j - 1)
    dwordBytes [v.full.toNat, v.poison.toNat] ++ numBytes 2048 v.val.toNat
  else if j ≤ 40 then
    let k := mget KReg.zero c.k (j - 33)
    dwordBytes [k.full.toNat, k.poison.toNat] ++ numBytes 256 k.val.toNat
  else if j ≤ 48 then
    let t := mget Tile.zero c.mx.tiles (j - 41)
    numBytes 16 t.poison.toNat ++ numBytes 32768 t.data.toNat
  else if j ≤ 52 then
    let b := mget Bank.zero c.mx.banks ((j - 49) / 2)
    numBytes 16 b.poison.toNat ++ numBytes 32768 (b.data.toNat / 256 ^ (32768 * ((j - 49) % 2)))
  else (List.range 2).flatMap (fun n => dwordBytes [(c.mx.slot n).st, (c.mx.slot n).bad.toNat] ++ numBytes 16 (c.mx.slot n).table.toNat)
/-- Command 0x03: the state of a halted strand, a section at a time, which the request's third dword names. Of a strand that is not halted nothing is said. -/
def execReadHaltedState (m : Nat) (s : State) : Host.Outcome State Fault Refusal :=
  serve s m 3 (fun s =>
    match haltedStrand s m with
    | none => answerFree s m
    | some p => answerBytes s m (haltedPart s p (requestN s m 16 8)))
/-- Command 0x04: a halted strand goes on at seqnext of its HALT (07 R134), also where the HALT is the END of a loop: no back-edge is made.
(DESIGN CHOICE, unsafe: notes/assumptions/54.) -/
def execResumeHaltedStrand (m : Nat) (s : State) : Host.Outcome State Fault Refusal :=
  serve s m 4 (fun s =>
    let s := match haltedStrand s m with
      | none => s
      | some p => (s.updStrand p (fun st => { st with pc := st.seqNext, run := .active })).updMgmt m (fun g => { g with halts := g.halts.erase (p % 384) })
    answerFree s m)
/-- Command 0x05: the power cap, in watts in the request's second dword (the place and unit are the model's); a value outside 1,200 to 3,300 is
not taken (24 R390). -/
def execSetPowerCap (m : Nat) (s : State) : Host.Outcome State Fault Refusal :=
  serve s m 5 (fun s =>
    let w := requestN s m 8 8
    answerFree (if 1200 ≤ w ∧ w ≤ 3300 then s.updMgmt m (fun g => { g with cap := w }) else s) m)
/-- Command 0x06: the sensors. -/
def execReadSensors (m : Nat) (s : State) : Host.Outcome State Fault Refusal := serve s m 6 (fun s => answerFree s m)
/-- Command 0x07: the fused minimum rises to the running image's version, for a master whose mailbox entry has MG (24 R384, R388). -/
def execRaiseSecurityVersion (m : Nat) (s : State) : Host.Outcome State Fault Refusal :=
  serve s m 7 (fun s =>
    let g := (s.modl m).mgmt
    let mg := g.asker < 1024 ∧ (accessEntry s m 5 g.asker).getLsbD 4 = true
    answerFree (if g.boot = 2 ∧ mg then s.updMgmt m (fun g => { g with minVersion := Nat.max g.minVersion g.version }) else s) m)

/-! ## Temperature and power (24 R390) -/

/-- The junction limit or a rail's current limit holds instruction issue. -/
def execThermalThrottle (m : Nat) (s : State) : Host.Outcome State Fault Refusal := .next (s.updMgmt m (fun g => { g with throttled := true }))
/-- The hold on instruction issue ends. -/
def execThrottleRelease (m : Nat) (s : State) : Host.Outcome State Fault Refusal := .next (s.updMgmt m (fun g => { g with throttled := false }))
/-- The compute dies of module m lose what they hold and have under way: cores with their engines' queues, caches and buffers, transfers, and the requests
that wait at their controllers or have not left them.
(DESIGN CHOICE, unsafe: notes/assumptions/60.) -/
def clearDies (s : State) (m : Nat) : State :=
  let away := fun (pa : Nat) => !dieDown s pa
  { s with
    cores := s.cores.filter (fun (x : Nat × Core) => x.1 / 192 != m)
    inbound := s.inbound.filter (fun (c : Inbound) => (if c.cluster then c.unit / 48 else c.unit / 192) != m)
    outbound := s.outbound.filter (fun (o : Outbound) => o.cluster / 48 != m)
    merges := s.merges.filter (fun (x : Merge) => x.cells.all (fun c => away c.1))
    adq := s.adq.filter (fun (x : AdUpdate) => away x.leafPa)
    homeq := s.homeq.filter (fun (r : HomeReq) => away r.pa)
    remote := s.remote.filter (fun (r : Remote) => moduleOf r.strand != m && r.core / 192 != m)
    xfers := s.xfers.filter (fun (x : Xfer) => moduleOf x.strand != m) }
/-- The compute dies are powered down and the event is logged; R382 gives it no type of its own, so its type is a free value (24 R390). -/
def execThermalShutdown (m : Nat) (s : State) : Host.Outcome State Fault Refusal :=
  let d := s.draw
  let s := clearDies ((d.2.updMgmt m (fun g => { g with down := true })).logRec m (BitVec.ofNat 8 d.1) 10 0 0) m
  .next ((List.range 384).foldl (fun s p => s.updStrand (m * 384 + p) (fun st => { st with run := .off, prods := [] })) s)

/-! ## Others -/

/-- Firmware withdraws strands from the Hamper; what runs on them goes on (17 R282). -/
def execStrandWithdrawal (m : Nat) (strands : List Nat) (s : State) : Host.Outcome State Fault Refusal :=
  .next (s.updHamper m (fun h => { h with withdrawn := (h.withdrawn ++ strands.filter (fun p => moduleOf p = m)).eraseDups }))

/-- An IEEE 1149.1 operation on the TAP: it acts on pins, which are no state of the machine (24 R389).
(DEDUCED, unsafe: notes/assumptions/49.) -/
def execBoundaryScan (_m : Nat) (s : State) : Host.Outcome State Fault Refusal := .next s

end Sys2Proof.Machine
end

