-- ==== Sys2Proof/Machine/Dispatch.lean ====
section
/-! DEFINITION. The meaning of every instruction: one arm per constructor. -/
namespace Sys2Proof.Machine

def exec (i : Instr) (s : State) : Host.Outcome State Fault Refusal :=
  match i with
  | .atomicHomeEvent k bad => Sys2Proof.Machine.execAtomicHomeEvent k bad s
  | .lqregWithdraw o => Sys2Proof.Machine.execLqregWithdraw o s
  | .pgrpWrite m v => Sys2Proof.Machine.execPgrpWrite m v s
  | .idleWake p => Sys2Proof.Machine.execIdleWake p s
  | .publishSwap frame => Sys2Proof.Machine.execPublishSwap frame s
  | .catchupCopy frame => Sys2Proof.Machine.execCatchupCopy frame s
  | .wcbDrain core k => Sys2Proof.Machine.execWcbDrain core k s
  | .wcbAgeTimeout core k => Sys2Proof.Machine.execWcbAgeTimeout core k s
  | .outboundSliceWriteback cluster k => Sys2Proof.Machine.execOutboundSliceWriteback cluster k s
  | .homeWriteMerge k bad => Sys2Proof.Machine.execHomeWriteMerge k bad s
  | .adBitUpdate k => Sys2Proof.Machine.execAdBitUpdate k s
  | .loadDataArrival p k bad => Sys2Proof.Machine.execLoadDataArrival p k bad s
  | .remoteScratchpadArrival k => Sys2Proof.Machine.execRemoteScratchpadArrival k s
  | .barPhaseComplete m grid lvl unit => Sys2Proof.Machine.execBarPhaseComplete m grid lvl unit s
  | .nextwRequest k => Sys2Proof.Machine.execNextwRequest k s
  | .nextwReply k => Sys2Proof.Machine.execNextwReply k s
  | .yieldSave p => Sys2Proof.Machine.execYieldSave p s
  | .launchQueueRecord m slot => Sys2Proof.Machine.execLaunchQueueRecord m slot s
  | .groupPlacement m k strands => Sys2Proof.Machine.execGroupPlacement m k strands s
  | .freshDispatch p => Sys2Proof.Machine.execFreshDispatch p s
  | .contextRestore p => Sys2Proof.Machine.execContextRestore p s
  | .pwaitExpiry m k => Sys2Proof.Machine.execPwaitExpiry m k s
  | .preemptionRequest m k strands => Sys2Proof.Machine.execPreemptionRequest m k strands s
  | .listedSave p => Sys2Proof.Machine.execListedSave p s
  | .checkpointWatchdogExpiry p => Sys2Proof.Machine.execCheckpointWatchdogExpiry p s
  | .forcedSave p => Sys2Proof.Machine.execForcedSave p s
  | .savedStatusDelivery k => Sys2Proof.Machine.execSavedStatusDelivery k s
  | .doorbellArrival p => Sys2Proof.Machine.execDoorbellArrival p s
  | .ueDataReport p qual addr => Sys2Proof.Machine.execUeDataReport p qual addr s
  | .doorbell p => Sys2Proof.Machine.execDoorbell p s
  | .ueDataInterrupt p => Sys2Proof.Machine.execUeDataInterrupt p s
  | .userInterruptEntry p => Sys2Proof.Machine.execUserInterruptEntry p s
  | .vectorRecheck core second third fourth => Sys2Proof.Machine.execVectorRecheck core second third fourth s
  | .squashReplay core => Sys2Proof.Machine.execSquashReplay core s
  | .transferCompletion p k => Sys2Proof.Machine.execTransferCompletion p k s
  | .codebookRowExpand core => Sys2Proof.Machine.execCodebookRowExpand core s
  | .codebookFill core slot bad => Sys2Proof.Machine.execCodebookFill core slot bad s
  | .pushBufferPush p r => Sys2Proof.Machine.execPushBufferPush p r s
  | .foldContribution k pos => Sys2Proof.Machine.execFoldContribution k pos s
  | .resultGroupMulticast k => Sys2Proof.Machine.execResultGroupMulticast k s
  | .resultGroupFill p r => Sys2Proof.Machine.execResultGroupFill p r s
  | .mcastTargetWrite p k => Sys2Proof.Machine.execMcastTargetWrite p k s
  | .escapeChannelTimeout k => Sys2Proof.Machine.execEscapeChannelTimeout k s
  | .flitReceive m port f => Sys2Proof.Machine.execFlitReceive m port f s
  | .nakReceive m port seq => Sys2Proof.Machine.execNakReceive m port seq s
  | .replayTimeout m port => Sys2Proof.Machine.execReplayTimeout m port s
  | .laneTrainingFailure m port => Sys2Proof.Machine.execLaneTrainingFailure m port s
  | .hostWrite ep pa n op v => Sys2Proof.Machine.execHostWrite ep pa n op v s
  | .hostRead ep pa n => Sys2Proof.Machine.execHostRead ep pa n s
  | .skclrTicket m t => Sys2Proof.Machine.execSkclrTicket m t s
  | .reconciliation m t => Sys2Proof.Machine.execReconciliation m t s
  | .peerSnapshot m t => Sys2Proof.Machine.execPeerSnapshot m t s
  | .reconApplyOp m t => Sys2Proof.Machine.execReconApplyOp m t s
  | .parityDeltaFold k bad => Sys2Proof.Machine.execParityDeltaFold k bad s
  | .degradedRead p pa n => Sys2Proof.Machine.execDegradedRead p pa n s
  | .degradedWrite p pa n v => Sys2Proof.Machine.execDegradedWrite p pa n v s
  | .stripeRebuild m g => Sys2Proof.Machine.execStripeRebuild m g s
  | .scrubRead pa f => Sys2Proof.Machine.execScrubRead pa f s
  | .reencodeRow m bank row => Sys2Proof.Machine.execReencodeRow m bank row s
  | .neighbourRefresh m row => Sys2Proof.Machine.execNeighbourRefresh m row s
  | .pageMigration leaf newFrame => Sys2Proof.Machine.execPageMigration leaf newFrame s
  | .powerOnReset m image => Sys2Proof.Machine.execPowerOnReset m image s
  | .strandRelease m boot => Sys2Proof.Machine.execStrandRelease m boot s
  | .accessTableWrite m target ep entry => Sys2Proof.Machine.execAccessTableWrite m target ep entry s
  | .mailboxDoorbell m ep => Sys2Proof.Machine.execMailboxDoorbell m ep s
  | .spdmMessage m => Sys2Proof.Machine.execSpdmMessage m s
  | .readErrorLog m => Sys2Proof.Machine.execReadErrorLog m s
  | .readHaltedState m => Sys2Proof.Machine.execReadHaltedState m s
  | .resumeHaltedStrand m => Sys2Proof.Machine.execResumeHaltedStrand m s
  | .setPowerCap m => Sys2Proof.Machine.execSetPowerCap m s
  | .readSensors m => Sys2Proof.Machine.execReadSensors m s
  | .raiseSecurityVersion m => Sys2Proof.Machine.execRaiseSecurityVersion m s
  | .thermalThrottle m => Sys2Proof.Machine.execThermalThrottle m s
  | .thermalShutdown m => Sys2Proof.Machine.execThermalShutdown m s
  | .illegalOpcode head tail0 => Sys2Proof.Machine.execIllegalOpcode head tail0 s
  | .moduleNumberRedirect lost to_ => Sys2Proof.Machine.execModuleNumberRedirect lost to_ s
  | .strandWithdrawal m strands => Sys2Proof.Machine.execStrandWithdrawal m strands s
  | .reencodeEnable m bank => Sys2Proof.Machine.execReencodeEnable m bank s
  | .policyWrite m p => Sys2Proof.Machine.execPolicyWrite m p s
  | .boundaryScan m => Sys2Proof.Machine.execBoundaryScan m s
  | .throttleRelease m => Sys2Proof.Machine.execThrottleRelease m s
  | .nop => Sys2Proof.Machine.execNop s
  | .add o => Sys2Proof.Machine.execAdd o s
  | .sub o => Sys2Proof.Machine.execSub o s
  | .and o => Sys2Proof.Machine.execAnd o s
  | .or o => Sys2Proof.Machine.execOr o s
  | .xor o => Sys2Proof.Machine.execXor o s
  | .andn o => Sys2Proof.Machine.execAndn o s
  | .sll o => Sys2Proof.Machine.execSll o s
  | .srl o => Sys2Proof.Machine.execSrl o s
  | .sra o => Sys2Proof.Machine.execSra o s
  | .ror o => Sys2Proof.Machine.execRor o s
  | .slt o => Sys2Proof.Machine.execSlt o s
  | .sltu o => Sys2Proof.Machine.execSltu o s
  | .min o => Sys2Proof.Machine.execMin o s
  | .max o => Sys2Proof.Machine.execMax o s
  | .minu o => Sys2Proof.Machine.execMinu o s
  | .maxu o => Sys2Proof.Machine.execMaxu o s
  | .addImm o => Sys2Proof.Machine.execAddImm o s
  | .rsbImm o => Sys2Proof.Machine.execRsbImm o s
  | .andImm o => Sys2Proof.Machine.execAndImm o s
  | .orImm o => Sys2Proof.Machine.execOrImm o s
  | .xorImm o => Sys2Proof.Machine.execXorImm o s
  | .andnImm o => Sys2Proof.Machine.execAndnImm o s
  | .sllImm o => Sys2Proof.Machine.execSllImm o s
  | .srlImm o => Sys2Proof.Machine.execSrlImm o s
  | .sraImm o => Sys2Proof.Machine.execSraImm o s
  | .rorImm o => Sys2Proof.Machine.execRorImm o s
  | .sltImm o => Sys2Proof.Machine.execSltImm o s
  | .sltuImm o => Sys2Proof.Machine.execSltuImm o s
  | .minImm o => Sys2Proof.Machine.execMinImm o s
  | .maxImm o => Sys2Proof.Machine.execMaxImm o s
  | .minuImm o => Sys2Proof.Machine.execMinuImm o s
  | .maxuImm o => Sys2Proof.Machine.execMaxuImm o s
  | .mul o => Sys2Proof.Machine.execMul o s
  | .mulh o => Sys2Proof.Machine.execMulh o s
  | .mulhu o => Sys2Proof.Machine.execMulhu o s
  | .mulhsu o => Sys2Proof.Machine.execMulhsu o s
  | .div o => Sys2Proof.Machine.execDiv o s
  | .divu o => Sys2Proof.Machine.execDivu o s
  | .rem o => Sys2Proof.Machine.execRem o s
  | .remu o => Sys2Proof.Machine.execRemu o s
  | .clz o => Sys2Proof.Machine.execClz o s
  | .ctz o => Sys2Proof.Machine.execCtz o s
  | .popc o => Sys2Proof.Machine.execPopc o s
  | .brev o => Sys2Proof.Machine.execBrev o s
  | .bswap o => Sys2Proof.Machine.execBswap o s
  | .sel o => Sys2Proof.Machine.execSel o s
  | .ext o => Sys2Proof.Machine.execExt o s
  | .extn o => Sys2Proof.Machine.execExtn o s
  | .ins o => Sys2Proof.Machine.execIns o s
  | .li16 z d imm => Sys2Proof.Machine.execLi16 z d imm s
  | .li32 z d imm => Sys2Proof.Machine.execLi32 z d imm s
  | .li64 d imm => Sys2Proof.Machine.execLi64 d imm s
  | .lea o => Sys2Proof.Machine.execLea o s
  | .leaDisp o disp => Sys2Proof.Machine.execLeaDisp o disp s
  | .addpc d disp => Sys2Proof.Machine.execAddpc d disp s
  | .ld o => Sys2Proof.Machine.execLd o s
  | .ldDisp o disp => Sys2Proof.Machine.execLdDisp o disp s
  | .st o => Sys2Proof.Machine.execSt o s
  | .stDisp o disp => Sys2Proof.Machine.execStDisp o disp s
  | .lds o => Sys2Proof.Machine.execLds o s
  | .ldsDisp o disp => Sys2Proof.Machine.execLdsDisp o disp s
  | .sts o => Sys2Proof.Machine.execSts o s
  | .stsDisp o disp => Sys2Proof.Machine.execStsDisp o disp s
  | .pref o => Sys2Proof.Machine.execPref o s
  | .prefDisp o disp => Sys2Proof.Machine.execPrefDisp o disp s
  | .amoSwap o => Sys2Proof.Machine.execAmoSwap o s
  | .amoAdd o => Sys2Proof.Machine.execAmoAdd o s
  | .amoAnd o => Sys2Proof.Machine.execAmoAnd o s
  | .amoOr o => Sys2Proof.Machine.execAmoOr o s
  | .amoXor o => Sys2Proof.Machine.execAmoXor o s
  | .amoMin o => Sys2Proof.Machine.execAmoMin o s
  | .amoMax o => Sys2Proof.Machine.execAmoMax o s
  | .amoMinu o => Sys2Proof.Machine.execAmoMinu o s
  | .amoMaxu o => Sys2Proof.Machine.execAmoMaxu o s
  | .cas o => Sys2Proof.Machine.execCas o s
  | .append o => Sys2Proof.Machine.execAppend o s
  | .br off => Sys2Proof.Machine.execBr off s
  | .brLong off => Sys2Proof.Machine.execBrLong off s
  | .beq o => Sys2Proof.Machine.execBeq o s
  | .bne o => Sys2Proof.Machine.execBne o s
  | .blt o => Sys2Proof.Machine.execBlt o s
  | .bge o => Sys2Proof.Machine.execBge o s
  | .bltu o => Sys2Proof.Machine.execBltu o s
  | .bgeu o => Sys2Proof.Machine.execBgeu o s
  | .call d off => Sys2Proof.Machine.execCall d off s
  | .callLong d off => Sys2Proof.Machine.execCallLong d off s
  | .jmpr o => Sys2Proof.Machine.execJmpr o s
  | .ret o => Sys2Proof.Machine.execRet o s
  | .loop o => Sys2Proof.Machine.execLoop o s
  | .loopImm o => Sys2Proof.Machine.execLoopImm o s
  | .lidx d lv => Sys2Proof.Machine.execLidx d lv s
  | .lbrk lv => Sys2Proof.Machine.execLbrk lv s
  | .strip o => Sys2Proof.Machine.execStrip o s
  | .stripCk o cki => Sys2Proof.Machine.execStripCk o cki s
  | .trapEq o => Sys2Proof.Machine.execTrapEq o s
  | .trapNe o => Sys2Proof.Machine.execTrapNe o s
  | .trapLt o => Sys2Proof.Machine.execTrapLt o s
  | .trapGe o => Sys2Proof.Machine.execTrapGe o s
  | .trapLtu o => Sys2Proof.Machine.execTrapLtu o s
  | .trapGeu o => Sys2Proof.Machine.execTrapGeu o s
  | .ecall code => Sys2Proof.Machine.execEcall code s
  | .brk code => Sys2Proof.Machine.execBrk code s
  | .eret => Sys2Proof.Machine.execEret s
  | .eretN => Sys2Proof.Machine.execEretN s
  | .uiret => Sys2Proof.Machine.execUiret s
  | .mfs d num => Sys2Proof.Machine.execMfs d num s
  | .mts num o => Sys2Proof.Machine.execMts num o s
  | .vpartWrite o => Sys2Proof.Machine.execVpartWrite o s
  | .matrixRegWrite num o => Sys2Proof.Machine.execMatrixRegWrite num o s
  | .dbellWrite o => Sys2Proof.Machine.execDbellWrite o s
  | .lseedWrite o => Sys2Proof.Machine.execLseedWrite o s
  | .lqregRegister o => Sys2Proof.Machine.execLqregRegister o s
  | .tlbiAll lvl => Sys2Proof.Machine.execTlbiAll lvl s
  | .tlbiVa o lvl => Sys2Proof.Machine.execTlbiVa o lvl s
  | .idle => Sys2Proof.Machine.execIdle s
  | .halt => Sys2Proof.Machine.execHalt s
  | .turn o => Sys2Proof.Machine.execTurn o s
  | .turnPub o => Sys2Proof.Machine.execTurnPub o s
  | .fenceO => Sys2Proof.Machine.execFenceO s
  | .fenceIo => Sys2Proof.Machine.execFenceIo s
  | .fenceSurv => Sys2Proof.Machine.execFenceSurv s
  | .snapOpen o => Sys2Proof.Machine.execSnapOpen o s
  | .snapClose o => Sys2Proof.Machine.execSnapClose o s
  | .cacheWb o => Sys2Proof.Machine.execCacheWb o s
  | .cacheInv o => Sys2Proof.Machine.execCacheInv o s
  | .cacheWbinv o => Sys2Proof.Machine.execCacheWbinv o s
  | .cacheTinit o => Sys2Proof.Machine.execCacheTinit o s
  | .waits o => Sys2Proof.Machine.execWaits o s
  | .bar lvl => Sys2Proof.Machine.execBar lvl s
  | .barArrive lvl => Sys2Proof.Machine.execBarArrive lvl s
  | .barWait lvl => Sys2Proof.Machine.execBarWait lvl s
  | .spawn o => Sys2Proof.Machine.execSpawn o s
  | .done => Sys2Proof.Machine.execDone s
  | .doneCtr o => Sys2Proof.Machine.execDoneCtr o s
  | .waitj o => Sys2Proof.Machine.execWaitj o s
  | .launch o => Sys2Proof.Machine.execLaunch o s
  | .nextw o => Sys2Proof.Machine.execNextw o s
  | .getid d sel => Sys2Proof.Machine.execGetid d sel s
  | .yield ckv cki => Sys2Proof.Machine.execYield ckv cki s
  | .vsetvl o => Sys2Proof.Machine.execVsetvl o s
  | .vtag d cntm1 tag => Sys2Proof.Machine.execVtag d cntm1 tag s
  | .vcfg o => Sys2Proof.Machine.execVcfg o s
  | .vadd o => Sys2Proof.Machine.execVadd o s
  | .vsub o => Sys2Proof.Machine.execVsub o s
  | .vmul o => Sys2Proof.Machine.execVmul o s
  | .vdiv o => Sys2Proof.Machine.execVdiv o s
  | .vmin o => Sys2Proof.Machine.execVmin o s
  | .vmax o => Sys2Proof.Machine.execVmax o s
  | .vsqrt o => Sys2Proof.Machine.execVsqrt o s
  | .vabs o => Sys2Proof.Machine.execVabs o s
  | .vneg o => Sys2Proof.Machine.execVneg o s
  | .vsgnj o => Sys2Proof.Machine.execVsgnj o s
  | .vfma o => Sys2Proof.Machine.execVfma o s
  | .vfms o => Sys2Proof.Machine.execVfms o s
  | .vfnma o => Sys2Proof.Machine.execVfnma o s
  | .vfnms o => Sys2Proof.Machine.execVfnms o s
  | .vaddI o => Sys2Proof.Machine.execVaddI o s
  | .vsubI o => Sys2Proof.Machine.execVsubI o s
  | .vmulI o => Sys2Proof.Machine.execVmulI o s
  | .vmulh o => Sys2Proof.Machine.execVmulh o s
  | .vand o => Sys2Proof.Machine.execVand o s
  | .vor o => Sys2Proof.Machine.execVor o s
  | .vxor o => Sys2Proof.Machine.execVxor o s
  | .vsll o => Sys2Proof.Machine.execVsll o s
  | .vsrl o => Sys2Proof.Machine.execVsrl o s
  | .vsra o => Sys2Proof.Machine.execVsra o s
  | .vminI o => Sys2Proof.Machine.execVminI o s
  | .vmaxI o => Sys2Proof.Machine.execVmaxI o s
  | .vadds o => Sys2Proof.Machine.execVadds o s
  | .vsubs o => Sys2Proof.Machine.execVsubs o s
  | .vclz o => Sys2Proof.Machine.execVclz o s
  | .vctz o => Sys2Proof.Machine.execVctz o s
  | .vpopc o => Sys2Proof.Machine.execVpopc o s
  | .vffs o => Sys2Proof.Machine.execVffs o s
  | .vbrev o => Sys2Proof.Machine.execVbrev o s
  | .vcmpEq o => Sys2Proof.Machine.execVcmpEq o s
  | .vcmpNe o => Sys2Proof.Machine.execVcmpNe o s
  | .vcmpLt o => Sys2Proof.Machine.execVcmpLt o s
  | .vcmpLe o => Sys2Proof.Machine.execVcmpLe o s
  | .vcmpGt o => Sys2Proof.Machine.execVcmpGt o s
  | .vcmpGe o => Sys2Proof.Machine.execVcmpGe o s
  | .vcmpUn o => Sys2Proof.Machine.execVcmpUn o s
  | .kand o => Sys2Proof.Machine.execKand o s
  | .kor o => Sys2Proof.Machine.execKor o s
  | .kxor o => Sys2Proof.Machine.execKxor o s
  | .kandn o => Sys2Proof.Machine.execKandn o s
  | .knot o => Sys2Proof.Machine.execKnot o s
  | .kmov o => Sys2Proof.Machine.execKmov o s
  | .kset d => Sys2Proof.Machine.execKset d s
  | .kclr d => Sys2Proof.Machine.execKclr d s
  | .kpopc o => Sys2Proof.Machine.execKpopc o s
  | .kfirst o => Sys2Proof.Machine.execKfirst o s
  | .vcvt o => Sys2Proof.Machine.execVcvt o s
  | .vscale o => Sys2Proof.Machine.execVscale o s
  | .vqnt o => Sys2Proof.Machine.execVqnt o s
  | .vlut o => Sys2Proof.Machine.execVlut o s
  | .vunpk o => Sys2Proof.Machine.execVunpk o s
  | .vsel o => Sys2Proof.Machine.execVsel o s
  | .vmov o => Sys2Proof.Machine.execVmov o s
  | .vbcast o => Sys2Proof.Machine.execVbcast o s
  | .vextr o => Sys2Proof.Machine.execVextr o s
  | .vredSum o => Sys2Proof.Machine.execVredSum o s
  | .vredMin o => Sys2Proof.Machine.execVredMin o s
  | .vredMax o => Sys2Proof.Machine.execVredMax o s
  | .vredAnd o => Sys2Proof.Machine.execVredAnd o s
  | .vredOr o => Sys2Proof.Machine.execVredOr o s
  | .vredXor o => Sys2Proof.Machine.execVredXor o s
  | .vscanSum o => Sys2Proof.Machine.execVscanSum o s
  | .vscanMin o => Sys2Proof.Machine.execVscanMin o s
  | .vscanMax o => Sys2Proof.Machine.execVscanMax o s
  | .vscanAnd o => Sys2Proof.Machine.execVscanAnd o s
  | .vscanOr o => Sys2Proof.Machine.execVscanOr o s
  | .vscanXor o => Sys2Proof.Machine.execVscanXor o s
  | .vperm o => Sys2Proof.Machine.execVperm o s
  | .vslideup o => Sys2Proof.Machine.execVslideup o s
  | .vslidedn o => Sys2Proof.Machine.execVslidedn o s
  | .vrev o => Sys2Proof.Machine.execVrev o s
  | .vcompress o => Sys2Proof.Machine.execVcompress o s
  | .vexpand o => Sys2Proof.Machine.execVexpand o s
  | .qcfg o => Sys2Proof.Machine.execQcfg o s
  | .qrd d q w => Sys2Proof.Machine.execQrd d q w s
  | .qrst q => Sys2Proof.Machine.execQrst q s
  | .vld o => Sys2Proof.Machine.execVld o s
  | .vldStream o => Sys2Proof.Machine.execVldStream o s
  | .vst o => Sys2Proof.Machine.execVst o s
  | .vstStream o => Sys2Proof.Machine.execVstStream o s
  | .vgath o => Sys2Proof.Machine.execVgath o s
  | .vscat o => Sys2Proof.Machine.execVscat o s
  | .vlds o => Sys2Proof.Machine.execVlds o s
  | .vsts o => Sys2Proof.Machine.execVsts o s
  | .vldsx o => Sys2Proof.Machine.execVldsx o s
  | .vstsx o => Sys2Proof.Machine.execVstsx o s
  | .strmVector o => Sys2Proof.Machine.execStrmVector o s
  | .strmScratchpad o => Sys2Proof.Machine.execStrmScratchpad o s
  | .strmFabric o => Sys2Proof.Machine.execStrmFabric o s
  | .strmc n => Sys2Proof.Machine.execStrmc n s
  | .strmq d n => Sys2Proof.Machine.execStrmq d n s
  | .copyIn o => Sys2Proof.Machine.execCopyIn o s
  | .copyOut o => Sys2Proof.Machine.execCopyOut o s
  | .tshape t o => Sys2Proof.Machine.execTshape t o s
  | .tld o => Sys2Proof.Machine.execTld o s
  | .tldDisp o => Sys2Proof.Machine.execTldDisp o s
  | .tldMem o => Sys2Proof.Machine.execTldMem o s
  | .tst o => Sys2Proof.Machine.execTst o s
  | .tstDisp o => Sys2Proof.Machine.execTstDisp o s
  | .tstMem o => Sys2Proof.Machine.execTstMem o s
  | .tzero t => Sys2Proof.Machine.execTzero t s
  | .tzeroAcc a => Sys2Proof.Machine.execTzeroAcc a s
  | .tmov t b => Sys2Proof.Machine.execTmov t b s
  | .twld t wf => Sys2Proof.Machine.execTwld t wf s
  | .twldCb t cbm => Sys2Proof.Machine.execTwldCb t cbm s
  | .twldSp t tm wf => Sys2Proof.Machine.execTwldSp t tm wf s
  | .tcbk o => Sys2Proof.Machine.execTcbk o s
  | .tcbkDisp o disp => Sys2Proof.Machine.execTcbkDisp o disp s
  | .tcbkS o => Sys2Proof.Machine.execTcbkS o s
  | .tcbkSDisp o disp => Sys2Proof.Machine.execTcbkSDisp o disp s
  | .tmma o => Sys2Proof.Machine.execTmma o s
  | .tmmaSp o => Sys2Proof.Machine.execTmmaSp o s
  | .tdrain o => Sys2Proof.Machine.execTdrain o s
  | .tdrainN d a => Sys2Proof.Machine.execTdrainN d a s
  | .taccSet o => Sys2Proof.Machine.execTaccSet o s
  | .taccAdd o => Sys2Proof.Machine.execTaccAdd o s
  | .tstat d t => Sys2Proof.Machine.execTstat d t s
  | .tstatIdle d => Sys2Proof.Machine.execTstatIdle d s
  | .bind o => Sys2Proof.Machine.execBind o s
  | .unbind d r => Sys2Proof.Machine.execUnbind d r s
  | .mcast o => Sys2Proof.Machine.execMcast o s
  | .skins o => Sys2Proof.Machine.execSkins o s
  | .skdel o => Sys2Proof.Machine.execSkdel o s
  | .skclr o => Sys2Proof.Machine.execSkclr o s
  | .sklook o => Sys2Proof.Machine.execSklook o s
  | .reconPull o => Sys2Proof.Machine.execReconPull o s
  | .reconPush o => Sys2Proof.Machine.execReconPush o s
  | .reconMerge o => Sys2Proof.Machine.execReconMerge o s
  | .reconSave o => Sys2Proof.Machine.execReconSave o s
  | .reconDiff o => Sys2Proof.Machine.execReconDiff o s
  | .reconq o => Sys2Proof.Machine.execReconq o s
  | .survq o => Sys2Proof.Machine.execSurvq o s
  | .survqGrp o => Sys2Proof.Machine.execSurvqGrp o s
  | .survqSeal o => Sys2Proof.Machine.execSurvqSeal o s

end Sys2Proof.Machine
end

