-- ==== Sys2Proof/Machine/Fetch.lean ====
section
/-! DEFINITION. What stands around an instruction: time, what a strand does before its next instruction (05 R89, R92, R94, R96, 17 R290, 24 R390),
the line it fetches from (02 R28, R33), and which strand is next. -/
namespace Sys2Proof.Machine

/-- Time passes before a step: at least one clk, how many is left open (notes/assumptions/5). -/
def State.tick (s : State) : State := { s with clk := s.clk + 1 + Config.freeNat s.fresh, fresh := s.fresh + 1 }

/-- The strand fetches: it executes. -/
def Strand.fetching (st : Strand) : Bool := st.run == .active || st.run == .waiting
/-- A save of the strand is under way, for which its sibling's issue is held (05 R94). -/
def Strand.saving (st : Strand) : Bool := st.yielded.isSome || st.landed.isSome || (st.saveDue.isSome && !st.status.prv)
/-- The strand that shares strand p's core. -/
def sibling (p : Nat) : Nat := if p % 2 = 0 then p + 1 else p - 1
/-- The issue of the running strand is held: its module is throttled or powered down (24 R390), or its sibling's save is under way. -/
def issueHeld (s : State) : Bool := s.mymod.mgmt.throttled || s.mymod.mgmt.down || (!s.me.saving && (s.strand (sibling s.cur)).saving)

/-- What goes before the running strand's next instruction: a yield, a save that has landed or is due, the watchdog, an interrupt (05 R89, R92,
R94, R96); an IDLE that wakes ends before its interrupt (07 R134). The point of an interrupt lies before that instruction's fetch, whose own faults come at
a later point.
(DESIGN CHOICE, safe: notes/assumptions/53.) -/
def dueFirst (s : State) : Option Instr :=
  let st := s.me
  if st.yielded.isSome then some (.yieldSave s.cur)
  else if st.landed.isSome then some (.listedSave s.cur)
  else if st.status.preq && st.saveDue.isNone && decide (st.preqClk + Config.watchdog ≤ s.clk) then some (.checkpointWatchdogExpiry s.cur)
  else if st.saveDue.isSome && !st.status.prv then some (.forcedSave s.cur)
  else if st.atIdle && st.wakes then some (.idleWake s.cur)
  else if st.status.ie && !st.reports.isEmpty then some (.ueDataInterrupt s.cur)
  else if st.status.ie && st.status.intdb then some (.doorbell s.cur)
  else if !st.status.prv && st.ui.uie && !st.status.uiact && st.ui.pend != 0 then some (.userInterruptEntry s.cur)
  else none

/-- The running strand is held before its next instruction. -/
def State.holds (s : State) : State := s.updMe (fun st => { st with run := .waiting })

/-- The line that holds the current head: the one entered, or the line that sequential flow (02 R33) or a resumption enters now. -/
def enterLine (s : State) : Except TrapInfo CodeLine × State :=
  let st := s.me
  match st.line with
  | none => checkTarget s s.cur st.pc st.status.prv
  | some l =>
    if l.addr = lineOf st.pc then (.ok l, s)
    else match st.heldLine with
    | some l => (.ok l, s)
    | none => match fetchLine s s.cur st.pc st.status.prv with
      | (.ok l, s) => (.ok l, s)
      | (.error e, s) => (.error (if e.code = 0x02 then e else { e with tval := lineOf st.pc }), s)

/-- A load after the instruction may have been checked before it (06 R112): scalar arithmetic, loads and stores, branches. -/
def keepsEarly : Instr → Bool
  | .nop | .add .. | .sub .. | .and .. | .or .. | .xor .. | .andn .. | .sll .. | .srl .. | .sra .. | .ror .. | .slt .. | .sltu .. => true
  | .min .. | .max .. | .minu .. | .maxu .. | .addImm .. | .rsbImm .. | .andImm .. | .orImm .. | .xorImm .. | .andnImm .. => true
  | .sllImm .. | .srlImm .. | .sraImm .. | .rorImm .. | .sltImm .. | .sltuImm .. | .minImm .. | .maxImm .. | .minuImm .. | .maxuImm .. => true
  | .mul .. | .mulh .. | .mulhu .. | .mulhsu .. | .clz .. | .ctz .. | .popc .. | .brev .. | .bswap .. | .sel .. | .ext .. | .extn .. | .ins .. => true
  | .li16 .. | .li32 .. | .li64 .. | .lea .. | .leaDisp .. | .addpc .. | .ld .. | .ldDisp .. | .st .. | .stDisp .. => true
  | .br .. | .brLong .. | .beq .. | .bne .. | .blt .. | .bge .. | .bltu .. | .bgeu .. => true
  | _ => false
/-- The instruction at the running strand's pc in a line, ILLEGAL_OPCODE when the words are no instruction (02 R36), and the state that has
entered the line; an instruction that later loads may not be checked before drops what such checks have read. -/
noncomputable def fetched (s : State) (l : CodeLine) : Instr × State :=
  let w := lineInstr l.data (offOf s.me.pc)
  let i := match decode w.1 w.2 with | .ok i => i | .error _ => .illegalOpcode w.1 (w.2.headD 0)
  (i, s.updMe (fun st => { st with line := some l, early := if keepsEarly i then st.early else [] }))
/-- Before anything else than a recheck or a squash takes place the windows have retired: a recheck that disagrees comes before the next instruction, and a
vector store has written (05 R88, 23 R370, R371).
(DEDUCED, safe: notes/assumptions/23.) -/
def windowFirst (s : State) : State := s.cores.foldl (fun t e => if e.2.window.isEmpty then t else settle t e.1) s
/-- An event of the window itself. -/
def windowEvent : Instr → Bool | .vectorRecheck .. | .squashReplay .. => true | _ => false

/-- The next strand that executes, after s.cur and around.
(DESIGN CHOICE, safe: notes/assumptions/6.) -/
def nextStrand (s : State) : Nat :=
  match s.strands.find? (fun e => decide (s.cur < e.1) && e.2.fetching) with
  | some e => e.1
  | none => match s.strands.find? (fun e => e.2.fetching) with
    | some e => e.1
    | none => s.cur

/-- The bytes of a code line that holds the instruction alone: N = 1, its head, the gap, its tail (02 R25). -/
def oneLine (h : Half) (t : List Half) : Nat :=
  1 + h.toNat * 2 ^ 16 + (t.foldl (fun acc x => acc / 2 ^ 16 + x.toNat * 2 ^ 496) 0)

/-- Nothing goes before the strand's next instruction. -/
def Strand.calm (st : Strand) : Strand := { st with landed := none, saveDue := none, yielded := none }

/-- s with strand s.cur running at S at the head of the line at virtual and physical address 0x40_0000 of module 0, page tables for it at 0, an
access-table entry that allows its module everything on die 0, and nothing else to do first.
(DESIGN CHOICE, safe: notes/assumptions/9.) -/
def State.readyAt (s : State) (line : Nat) : State :=
  let mem := Memory.writeN s.mem 0x400000 64 line
  let mem := Memory.writeN mem 0 8 0x10001
  let mem := Memory.writeN mem 0x10000 8 0x20001
  let mem := Memory.writeN mem 0x20200 8 0x40105F
  let s := { s with mem := mem, sched := [.strand s.cur], inbound := [], tags := s.tags.filter (fun t => 0x4100 ≤ t.1)
                    poison := s.poison.filter (fun e => 0x10400 ≤ e), homeq := s.homeq.filter (fun r => r.strand ≠ s.cur) }
  let s := s.updMod (moduleOf s.cur) (fun m => { m with mgmt := { m.mgmt with throttled := false, down := false } })
  let s := s.updMod 0 (fun m => { m with access := ⟨0, moduleOf s.cur, 0x1FC0000001F⟩ :: m.access })
  let s := s.updStrand (sibling s.cur) Strand.calm
  s.updMe (fun st =>
    { st.calm with
      pc := 0x400002, line := none, run := .active, ptroot := 0, tlb := [], replay := none, unturned := [], turned := [], early := [], tested := none, asked := none
      status := { st.status with prv := true, ie := false, preq := false } })

end Sys2Proof.Machine
end

