-- ==== Sys2Proof/Machine/Step.lean ====
section
/-! DEFINITION. One step of the domain. -/
namespace Sys2Proof.Machine

/-- The running strand executes the instruction at its pc. -/
noncomputable def stepInstr (s : State) : Host.Outcome State Fault Refusal :=
  match enterLine s with
  | (.error e, s) => .next (takeTrap s e)
  | (.ok l, s) => exec (fetched s l).1 (fetched s l).2

/-- What strand s.cur does next, the windows having retired: nothing while it does not fetch or its issue is held; what goes before its next instruction; the wait for an
atomic with ACQ (04 R68); its next instruction. -/
noncomputable def stepStrand (s : State) : Host.Outcome State Fault Refusal :=
  let s := windowFirst s
  if !s.me.fetching then .next s
  else if issueHeld s then .next s.holds
  else match dueFirst s with
    | some i => exec i s
    | none => if acquiring s s.cur then .next s.holds else stepInstr s

/-- An event takes place: behind the retirement of the windows, unless it is one of a window itself. -/
noncomputable def stepEvent (s : State) (i : Instr) : Host.Outcome State Fault Refusal := exec i (if windowEvent i then s else windowFirst s)
/-- What sched names: a strand's next instruction, an event, or something that a strand or a transfer does apart from both. -/
noncomputable def stepTurn (s : State) : Turn → Host.Outcome State Fault Refusal
  | .strand p => stepStrand { s with cur := p }
  | .event i => stepEvent s i
  | .flaw f => .next (flawAt s f)
  | .ahead p va n => .next (checkAhead s p va n)
  | .late p => .next (s.updStrand p (fun st => { st with late := true }))
  | .move p k n => .next (moveXfer s p k n)
  | .cut p n => stepStrand { s.updStrand p (fun st => { st with cut := some n }) with cur := p }

/-- One step: what sched names; with sched empty, by turns, the oldest event that instructions have set going and the next strand that
executes. -/
noncomputable def step (s : State) : Host.Outcome State Fault Refusal :=
  let s := s.tick
  match s.sched with
  | t :: r => stepTurn { s with sched := r } t
  | [] => match s.evTurn, s.agenda with
    | true, i :: r => stepEvent { s with agenda := r, evTurn := false } i
    | _, _ => stepStrand { s with cur := nextStrand s, evTurn := true }

/-- s with a table word's instruction alone in the line that its current strand executes next, in the state that readyAt describes. -/
def State.withFetchWord (s : State) (nbits w : Nat) : State :=
  let n := nbits / 16
  let h := halfFromTop n w 0
  s.readyAt (oneLine h ((List.range (headTl h)).map (fun k => if k + 1 < n then halfFromTop n w (k + 1) else 0)))

end Sys2Proof.Machine
end

