-- ==== Sys2Proof/Safety.lean ====
section
/-! DEFINITION. The terms in which claims are stated: a safe state, sequential flow, readable operands, values at a width. -/
namespace Sys2Proof.Machine

/-- Every memory of the state is in its canonical form. -/
def State.Canonical (s : State) : Prop :=
  s.mem.wf = true ∧ ∀ e ∈ s.cores, Memory.wf e.2.scratch = true

/-- Cells stand at strictly ascending addresses. -/
def Ascending (cs : List Host.Cell) : Prop := (cs.map (·.1)).Pairwise (· < ·)
/-- What every step keeps: the canonical form of every memory, and an outbound path whose write-combining buffers of a core stand for distinct
granules, with the cells of each buffer and of each slice's granule ascending (14 R244). -/
def State.Inv (s : State) : Prop :=
  s.Canonical
  ∧ (∀ e ∈ s.cores, (e.2.wcb.map (·.gran)).Nodup ∧ ∀ w ∈ e.2.wcb, Ascending w.cells)
  ∧ ∀ o ∈ s.outbound, Ascending o.cells

/-- The head at the pc ends no body of an innermost loop: sequential flow is its next step (07 R118, R123). -/
abbrev Straight (s : State) : Prop := s.me.loopd = 0 ∨ (s.me.loop (s.me.loopd - 1)).fin ≠ s.me.pc
/-- Sequential flow: the running strand stands at seqnext of its head (02 R30, 07 R118). -/
def onward (s : State) : State := s.updMe (fun st => { st with pc := st.seqNext, run := .active, tested := none })
/-- The scalar registers named are full and carry neither poison nor a failed reconciliation (02 R40, 06 R113, 20 R347). -/
abbrev Readable (s : State) (ns : List Reg) : Prop := ∀ n ∈ ns, (s.me.sreg n.toNat).full = true ∧ (s.me.sreg n.toNat).mark = .clean
/-- The running strand after f, and nothing else changed, goes on. -/
abbrev onwardWith (s : State) (f : Strand → Strand) : State := onward (s.updMe f)

/-- A result of width 32 sign-extended to 64 bits, or of width 64 (06 R100). -/
def atWidth (w : Bool) (x : Word) : Word := if w then (x.setWidth 32).signExtend 64 else x
/-- s(a) < s(b) at width 32 or 64. -/
def sltAt (w : Bool) (a b : Word) : Bool := if w then (a.setWidth 32).slt (b.setWidth 32) else a.slt b
/-- u(a) < u(b) at width 32 or 64. -/
def ultAt (w : Bool) (a b : Word) : Bool := if w then (a.setWidth 32).ult (b.setWidth 32) else a.ult b
/-- u(b) mod n, the shift count (06 R101). -/
def shiftOf (w : Bool) (b : Word) : Nat := b.toNat % widthOf w
/-- 1 or 0. -/
def flagWord (c : Bool) : Word := if c then 1 else 0

/-- No parity group is in force anywhere (22 R357). -/
abbrev NoGroups (s : State) : Prop := ∀ m, groupsAt s m = []
/-- Homes are where addresses say: no group in force, no module answers for another, no version pair, no re-encoded bank. -/
abbrev PlainHome (s : State) : Prop := NoGroups s ∧ s.redirect = [] ∧ s.vers = [] ∧ ∀ m, (s.modl m).rinse.reenc = []
/-- The byte that a core's outbound path holds for an address: its write-combining buffer's, else its cluster's outbound slice's
(14 R244). -/
def pendingByte (s : State) (core x : Nat) : Option Byte :=
  let inCells := fun (cs : List Host.Cell) => (cs.find? (fun c => c.1 = x)).map (·.2)
  match ((s.core core).wcb.find? (fun w => w.gran = granOf x)).bind (fun w => inCells w.cells) with
  | some b => some b
  | none => (s.outbound.find? (fun o => o.cluster = gclusterOfCore core ∧ o.gran = granOf x)).bind (fun o => inCells o.cells)
/-- No inbound copy has to stay for bytes on their way to the home: a full structure gives up a copy without a write-back (14 R245). -/
abbrev NoneHeld (s : State) : Prop := ∀ c ∈ s.inbound, c.held = false
/-- No store through the direct aperture is on its way to its home (14 R256): no other access has to go behind one. -/
abbrev NoDirect (s : State) : Prop := ∀ m ∈ s.merges, m.dir = false
/-- Nothing of a granule stands on an outbound path (14 R244). -/
abbrev PathClear (s : State) (g : Nat) : Prop :=
  (∀ e ∈ s.cores, ∀ w ∈ e.2.wcb, w.gran ≠ g) ∧ (∀ m ∈ s.merges, ∀ c ∈ m.cells, granOf c.1 ≠ g) ∧ ∀ o ∈ s.outbound, o.gran ≠ g
/-- A message travels in a packet of the class (19 R309). -/
abbrev Travels (s : State) (msg : Nat) (cls : PClass) : Prop := ∃ x ∈ s.net, x.msg = msg ∧ x.cls = cls
/-- Every outstanding load of the running strand has read its data (06 R112). -/
abbrev NoneLate (s : State) : Prop := ∀ d ∈ s.me.prods, d.late = none
/-- A core's cluster has room in its outbound slice for two more granules (14 R244). -/
abbrev SliceRoom (s : State) (core : Nat) : Prop :=
  (s.outbound.filter (fun o => o.cluster = gclusterOfCore core)).length + 1 < Config.outGranules
/-- The write-combining buffers of a core stand for distinct granules and list each address once (14 R244). -/
abbrev PathOk (s : State) (core : Nat) : Prop :=
  ((s.core core).wcb.map (·.gran)).Nodup ∧ ∀ w ∈ (s.core core).wcb, (w.cells.map (·.1)).Nodup
/-- The line of a transfer's target, when the target passes the checks of 02 R32, and the state after them. -/
abbrev Enters (s : State) (t : Word) (prv : Bool) (l : CodeLine) (u : State) : Prop := checkTarget s s.cur t prv = (.ok l, u)
/-- i is a form of displacement d of an instruction with a form without one: of0 at displacement 0, or ofD. -/
abbrev FormAt (i : Instr) (d : Word) (of0 : Instr) (ofD : Imm → Instr) : Prop := (i = of0 ∧ d = 0) ∨ ∃ v, i = ofD v ∧ d = v.word

/-! ## Vector instructions (09 R159 to R162, 23 R375) -/

/-- The instructions of the vector, mask and matrix units, the streams with a vector port and the collectives: they need VS ≠ 0 (05 R87). -/
def usesVector (i : Instr) : Bool :=
  match i with
  | .vsetvl _ | .vtag _ _ _ | .vcfg _ | .vadd _ | .vsub _ | .vmul _ | .vdiv _ | .vmin _ | .vmax _ | .vsqrt _ | .vabs _ | .vneg _ | .vsgnj _
  | .vfma _ | .vfms _ | .vfnma _ | .vfnms _ | .vaddI _ | .vsubI _ | .vmulI _ | .vmulh _ | .vand _ | .vor _ | .vxor _ | .vsll _ | .vsrl _
  | .vsra _ | .vminI _ | .vmaxI _ | .vadds _ | .vsubs _ | .vclz _ | .vctz _ | .vpopc _ | .vffs _ | .vbrev _ | .vcmpEq _ | .vcmpNe _
  | .vcmpLt _ | .vcmpLe _ | .vcmpGt _ | .vcmpGe _ | .vcmpUn _ | .kand _ | .kor _ | .kxor _ | .kandn _ | .knot _ | .kmov _ | .kset _
  | .kclr _ | .kpopc _ | .kfirst _ | .vcvt _ | .vscale _ | .vqnt _ | .vlut _ | .vunpk _ | .vsel _ | .vmov _ | .vbcast _ | .vextr _
  | .vredSum _ | .vredMin _ | .vredMax _ | .vredAnd _ | .vredOr _ | .vredXor _ | .vscanSum _ | .vscanMin _ | .vscanMax _ | .vscanAnd _
  | .vscanOr _ | .vscanXor _ | .vperm _ | .vslideup _ | .vslidedn _ | .vrev _ | .vcompress _ | .vexpand _ | .vld _ | .vldStream _ | .vst _
  | .vstStream _ | .vgath _ | .vscat _ | .vlds _ | .vsts _ | .vldsx _ | .vstsx _ | .strmVector _ | .strmFabric _ | .tshape _ _ | .tld _
  | .tldDisp _ | .tldMem _ | .tst _ | .tstDisp _ | .tstMem _ | .tzero _ | .tzeroAcc _ | .tmov _ _ | .twld _ _ | .twldCb _ _
  | .twldSp _ _ _ | .tcbk _ | .tcbkDisp _ _ | .tcbkS _ | .tcbkSDisp _ _ | .tmma _ | .tmmaSp _ | .tdrain _ | .tdrainN _ _ | .taccSet _
  | .taccAdd _ | .tstat _ _ | .tstatIdle _ | .bind _ | .unbind _ _ => true
  | _ => false

/-- The core of the running strand with every vector instruction of its window retired: what a vector instruction reads. -/
abbrev settled (s : State) : State := settle s (coreOf s.cur)
/-- The active elements from VSTART to VL - 1, or to where the instruction stops between elements, ascending (09 R159, R160). -/
def activeElems (v : State) (km : BitVec 3) : List Nat := (elemRange v.me).filter (activeAt v km)
/-- No active element reads poison of the mask, of the source groups or of its scale bytes (09 R168, 23 R375). -/
abbrev NoPoison (v : State) (km : BitVec 3) (srcs : List (Nat × Nat)) (sc : List ScaleUse) : Prop :=
  ∀ e ∈ activeElems v km, elemPoisoned v km srcs sc e = none
/-- A finite value in units of 2^k, where k is at most its exponent (08 R136). -/
def FV.units (x : FV) (k : Int) : Int :=
  match x with
  | .fin neg man ex _ => (if neg then -1 else 1) * ((man * 2 ^ (ex - k).toNat : Nat) : Int)
  | _ => 0
/-- A finite value that is an exact multiple of 2^k. -/
abbrev FV.ExactFrom (x : FV) (k : Int) : Prop := ∃ neg man ex, x = .fin neg man ex false ∧ k ≤ ex
/-- LFSR after n draws (08 R150). -/
def lfsrAfter : Nat → Nat → Nat
  | 0, x => x
  | n + 1, x => lfsrAfter n (lfsrNext x)
/-- What each active element gives; the element's draw is taken by its place after VSTART. -/
def elemOuts (v : State) (km : BitVec 3) (draws : Bool) (f : Nat → Option Nat → EOut) : List (Nat × EOut) :=
  (activeElems v km).map (fun e => (e, f e (if draws then some (lfsrAfter (e - v.me.nvs) v.me.vec.lfsr.toNat % 65536) else none)))
/-- LFSR after an instruction that draws for every element from VSTART to VL - 1, or to where it stops between elements. -/
def lfsrDone (v : State) (draws : Bool) : Nat :=
  if draws then lfsrAfter (v.me.cutAt.getD v.me.nvl - v.me.nvs) v.me.vec.lfsr.toNat else v.me.vec.lfsr.toNat
/-- The running strand has stopped between the elements of its instruction, with VSTART at element e, and is to execute it again (09 R160). -/
def stopped (s : State) (e : Nat) : State :=
  s.updMe (fun st => { st with vec := { st.vec with vstart := BitVec.ofNat 64 e }, run := .active, cut := none, tested := none })
/-- The state after an instruction over elements: past it, or, when an interruptible point comes before VL, stopped at it (05 R89, 09 R160). -/
def orStops (v : State) (half : Nat → State) (whole : State) : State :=
  match v.me.cutAt with
  | some e => stopped (half e) e
  | none => onward whole
/-- The state after a vector instruction that leaves outs for destination registers dest and mask registers mask, reads the registers
reads, and goes on or stops between elements. -/
def vecAfter (v : State) (dest : List (Nat × BitVec 16384 × BitVec 32)) (mask : List (Nat × BitVec 2048 × BitVec 4)) (outs : List (Nat × EOut))
    (records : Bool) (lfsr : Nat) (reads : List Nat) : State :=
  orStops v (fun e => vecLeave v dest mask outs records (some e) lfsr) (consume (vecLeave v dest mask outs records none lfsr) (consumed v reads))
/-- The destination registers of elements of width w written into the group at d. -/
def destOf (v : State) (d w : Nat) (outs : List (Nat × EOut)) : List (Nat × BitVec 16384 × BitVec 32) :=
  if elemRange v.me = [] then [] else writeGroup v d w v.me.nvl (outs.map (fun o => (o.1, o.2.bits)))
/-- The state after an element-wise instruction with a vector destination. -/
def vecDone (v : State) (d w : Nat) (km : BitVec 3) (srcs : List (Nat × Nat)) (sc : List ScaleUse) (draws records : Bool)
    (f : Nat → Option Nat → EOut) : State :=
  vecAfter v (destOf v d w (elemOuts v km draws f)) [] (elemOuts v km draws f) records (lfsrDone v draws) (readsOf v srcs sc)
/-- i runs as an element-wise instruction: with VS ≠ 0, its checks passed on the settled core, its destination group free to be written and
no active element poisoned, it leaves its elements and goes on. -/
def RunsElements (i : Instr) (s : State) (gate : Res Unit) (d w : Nat) (km : BitVec 3) (srcs : List (Nat × Nat)) (sc : List ScaleUse)
    (draws records : Bool) (f : Nat → Option Nat → EOut) : Prop :=
  Straight s → s.me.vstate ≠ 0 → gate = .ok () → writable (settled s) (group d w (settled s).me.nvl) = true → NoPoison (settled s) km srcs sc →
    exec i s = .next (vecDone (settled s) d w km srcs sc draws records f)

/-! ## Vector accesses to memory and scratchpad (10 R192 to R199) -/

/-- Bytes of an element of the group at d. -/
abbrev elemBytes (v : State) (d : Nat) : Nat := tagWidth (v.me.tag d) / 8
/-- The registers of the index group of a place. -/
def indexRegs (v : State) (pl : VPlace) : List Nat := (pl.idx.map (fun g => group g.1 g.2 v.me.nvl)).flatten
/-- The elements of a vector load from memory, read in ascending order up to the first that fails (10 R192). -/
def loadRun (v : State) (d : Nat) (km : BitVec 3) (pl : VPlace) : VMem :=
  let n := elemBytes v d
  loadElems v (memElems v km (pl.past v)) (pl.addr v n) n (pl.unit v n) (memPoison v km pl.idx)
/-- The elements of a vector store to memory, written in ascending order up to the first that fails. -/
def storeRun (v : State) (e : Nat) (km : BitVec 3) (pl : VPlace) : VMem :=
  let n := elemBytes v e
  storeElems v (memElems v km (pl.past v)) (pl.addr v n) n (pl.unit v n) (memPoison v km (pl.idx ++ [(e, tagWidth (v.me.tag e))]))
    (elem v e (tagWidth (v.me.tag e)))
/-- No index register is a data register, and the data group is free to be written. -/
abbrev LoadFree (v : State) (d : Nat) (pl : VPlace) : Prop :=
  let js := group d (tagWidth (v.me.tag d)) v.me.nvl
  (pl.idx.find? (fun g => groupsMeet js (group g.1 g.2 v.me.nvl))) = none ∧ writable v js = true
/-- No granule of the access waits for an atomic, a transfer or a queued store of the strand's own. -/
abbrev Unhurried (v : State) (d : Nat) (km : BitVec 3) (pl : VPlace) (writes : Bool) : Prop :=
  ∀ e ∈ memElems v km (pl.past v), busyGran v v.cur (pl.addr v (elemBytes v d) e) writes = false
/-- The state after a vector load from memory that has issued. -/
def vecLoaded (v : State) (d : Nat) (km : BitVec 3) (pl : VPlace) : State :=
  let m := loadRun v d km pl
  let w := tagWidth (v.me.tag d)
  orStops v (fun _ => settleVec m.s d w v.me.nvl m.outs false)
    (memAhead (memDone (consume (issueVec m.s d w v.me.nvl m.outs (pl.addr v (elemBytes v d) 0) m.homes) (consumed v (indexRegs v pl))) pl.adv) pl.adv)
/-- The state after a vector store to memory. -/
def vecStored (v : State) (e : Nat) (km : BitVec 3) (pl : VPlace) : State :=
  let m := storeRun v e km pl
  orStops v (fun _ => settleWrites m.s m.writes) (memAhead (memDone (consume (leaveStore m.s m.writes)
    (consumed v (group e (tagWidth (v.me.tag e)) v.me.nvl ++ indexRegs v pl).eraseDups)) pl.adv) pl.adv)
/-- The elements of a scratchpad access, each with its core and offset. -/
abbrev spRun (v : State) (d : Nat) (km : BitVec 3) (pl : VPlace) (data : List (Nat × Nat)) : SpElems := spReach v km pl (elemBytes v d) data
/-- No access of the core that travels to its own scratchpad comes before these elements, and none of them is a handoff from the sibling
(03 R51, R58). -/
abbrev SpClear (v : State) (d : Nat) (es : List (Nat × Nat × Nat)) : Prop :=
  spOwnBusy v es = false ∧ handed v v.cur (spWords v es (elemBytes v d)) = false
/-- The state after a vector scratchpad load: of its own core's bytes alone, or with other cores' on their way. -/
def spLoaded (v : State) (d : Nat) (km : BitVec 3) (pl : VPlace) : State :=
  let w := tagWidth (v.me.tag d)
  let n := elemBytes v d
  let es := (spRun v d km pl []).es
  let outs := es.map (spRead v n)
  orStops v (fun _ => settleVec v d w v.me.nvl outs false) (memDone (consume
    (if spCores v es = [] then issueVec v d w v.me.nvl outs (pl.addr v n 0) else farLoad v d w n es (pl.addr v n 0))
    (consumed v (indexRegs v pl))) none)
/-- The state after a vector scratchpad store. -/
def spStored (v : State) (e : Nat) (km : BitVec 3) (pl : VPlace) : State :=
  let w := tagWidth (v.me.tag e)
  let es := (spRun v e km pl [(e, w)]).es
  let ws := spWrites v e w (elemBytes v e) es
  orStops v (fun _ => settleWrites v ws) (memDone (consume (leaveStore v ws) (consumed v (group e w v.me.nvl ++ indexRegs v pl).eraseDups)) none)

end Sys2Proof.Machine
end

