-- ==== Sys2Proof/Certificates/Slice0/Obligations.lean ====
section
/-! DEFINITION. The statements for the provers. Each follows a rule of the spec; where one rests on the model's own choice, its docstring
names the log entry. -/

open Sys2Proof Sys2Proof.Machine

/-! ## Encoding, lines and the step (02) -/

/-- 02 R36, R38, R39: the decoder gives back every instruction from the words the encoder writes, whatever its operands. -/
def Obligations.EncodeRoundTrip : Prop :=
  ∀ (i : Instr) (h : Half) (t : List Half), i.wf = true → encode i = some (h :: t) → decode h t = .ok i

/-- Every instruction that is no event has words, a head and as many tail halfwords as its TL says (02 R35); no event has any. -/
def Sys2Proof.Claim.EncodeTotal : Prop :=
  ∀ i : Instr, (i.isEvent = false → ∃ h t, encode i = some (h :: t) ∧ headTl h = t.length) ∧ (i.isEvent = true → encode i = none)

/-- 02 R36: words that decode are well formed and are exactly the encoding of what they decode to: no bit of them is ignored. -/
def Sys2Proof.Claim.DecodeExact : Prop :=
  ∀ (h : Half) (t : List Half) (i : Instr), decode h t = .ok i → i.wf = true ∧ encode i = some (h :: t)

/-- Every instruction has words of the length its TL says, and words that decode are exactly the encoding of what they decode to. -/
def Obligations.EncodeExact : Prop := Claim.EncodeTotal ∧ Claim.DecodeExact

/-- Words written out from the encoding tables of 06 R101, R106, R109, 07 R120, 09 R170, 12 R238, 14 R249, 17 R302. -/
def Obligations.DecodeWords : Prop :=
  decode 0b0000001_001_0_00101#16 [0b00110_0_00111_1_0000#16] = .ok (.add ⟨false, 5, 6, false, 7, true⟩)
  ∧ decode 0b0000010_010_1_00001#16 [0b00010_1_00000_0_0001#16, 0xFFFE#16] = .ok (.rsbImm ⟨true, 1, 2, true, .short 0xFFFE⟩)
  ∧ decode 0b0000101_100_0_01001#16 [0x1111, 0x2222, 0x3333, 0x4444] = .ok (.li64 9 0x4444333322221111)
  ∧ decode 0b0010000_001_0_00011#16 [0b00100_0_00000_0_0111#16] = .error .badField
  ∧ decode 0b0100000_001_0_00000#16 [0xFFF0] = .ok (.br 0xFFF0)
  ∧ decode 0b0100001_001_0_00000#16 [0] = .error .badLength
  ∧ decode 0b1000001_010_1_00100#16 [0b01000_1_01100_0_0010#16, 0b011_00000_0_0000000#16] = .ok (.vmul ⟨true, 4, 8, true, 12, false, 3⟩)
  ∧ decode 0b0110000_001_1_00010#16 [0b00011_0_100_000_0000#16] = .ok (.turnPub ⟨2, 3, false, 4⟩)
  ∧ decode 0b1100101_001_0_00001#16 [0b00011_010_1_0_00_0001#16] = .ok (.tmmaSp ⟨1, 3, 2, true⟩)
  ∧ decode 0xFE00 [] = .error .majorUnassigned

/-- 02 R27: the conditions of a well-formed line and the code of the lowest that fails; the check reads the TL field of each head and no
major. 02 R37: the head 0 is NOP, which moves the pc alone, as R30 says (and the model's mark of a test made); major 0 with another TL or D raises ILLEGAL_OPCODE; a line of
zeros fails condition 2. -/
def Obligations.CodeLines : Prop :=
  (∀ d : BitVec 512,
    let n := lineN d
    let t := lineS d n
    let c1 := d.extractLsb' 5 11 = 0
    let c2 := 1 ≤ n
    let c3 := n + t ≤ 31
    let c4 := ∀ k, 2 * n + 2 ≤ k → k ≤ 63 - 2 * t → d.extractLsb' (8 * k) 8 = 0
    n = (d.extractLsb' 0 5).toNat ∧ lineS d 0 = 0 ∧ (∀ i, lineS d (i + 1) = lineS d i + (d.extractLsb' (8 * (2 + 2 * i) + 6) 3).toNat)
    ∧ (lineFault d = 0 ↔ c1 ∧ c2 ∧ c3 ∧ c4) ∧ (lineFault d = 1 ↔ ¬ c1) ∧ (lineFault d = 2 ↔ c1 ∧ ¬ c2)
    ∧ (lineFault d = 3 ↔ c1 ∧ c2 ∧ ¬ c3) ∧ (lineFault d = 4 ↔ c1 ∧ c2 ∧ c3 ∧ ¬ c4))
  ∧ decode 0x0000 [] = .ok .nop ∧ lineFault 0 = 2
  ∧ (∀ (h : Half) (t : List Half), h.extractLsb' 9 7 = 0 → h ≠ 0 → ∃ e, decode h t = .error e)
  ∧ (∀ (s : State) (l : CodeLine) (h : Half) (t : List Half), lineInstr l.data (offOf s.me.pc) = (h, t) → h.extractLsb' 9 7 = 0 → h ≠ 0 →
      (fetched s l).1 = .illegalOpcode h (t.headD 0)
      ∧ exec (.illegalOpcode h (t.headD 0)) s = .next (takeTrap s { code := 0x01, tval := h.setWidth 64 ||| ((t.headD 0).setWidth 64 <<< 16) }))
  ∧ (∀ (s : State) (l : CodeLine), Straight s → s.me.run = .active → s.me.line = some l → l.addr = lineOf s.me.pc →
      let off := s.me.pc.toNat % 64
      let after := if off < 2 * lineN l.data then s.me.pc + 2 else s.me.pc - BitVec.ofNat 64 off + 66
      exec .nop s = .next (s.updMe (fun st => { st with pc := after, tested := none })))

/-- A step runs the decoded instruction: when the turn is strand p's, which fetches, is not held, has nothing due first and no acquiring
atomic outstanding, and the words at its pc in the line it stands in decode to i, the step is exec of i, time having passed and the line
having been entered. Whose turn it is, that time passes, and that the vector windows have retired first are the model's
(notes/assumptions/5, 6 and 23). -/
def Obligations.StepRunsDecoded : Prop :=
  ∀ (s : State) (p : Nat) (r : List Turn) (l : CodeLine) (u : State) (i : Instr),
    s.sched = .strand p :: r →
    let s1 := windowFirst { s.tick with sched := r, cur := p }
    s1.me.fetching = true → issueHeld s1 = false → dueFirst s1 = none → acquiring s1 s1.cur = false → enterLine s1 = (.ok l, u) →
    decode (lineInstr l.data (offOf u.me.pc)).1 (lineInstr l.data (offOf u.me.pc)).2 = .ok i →
    step s = exec i (u.updMe (fun st => { st with line := some l, early := if keepsEarly i then st.early else [] }))

/-- With no schedule given, strands and the agenda of events take turns. A schedule may name an event; a strand whose vector instruction stops at an
interruptible point (09 R160); a later load checked ahead of older ones, or one that reads its data late (06 R112); and elements that a transfer
moves (10 R201); an uncorrectable error that a place comes to hold (23 R374). An event comes behind the retirement of the vector windows, unless it is
one of a window itself. The order is the model's choice, and so is that retirement (notes/assumptions/6 and 23). -/
def Obligations.StepDefaultOrder : Prop :=
  ∀ (s : State), s.sched = [] →
    let behind := fun (i : Instr) (t : State) => exec i (if windowEvent i then t else windowFirst t)
    (∀ (i : Instr) (r : List Instr), s.evTurn = true → s.agenda = i :: r → step s = behind i { s.tick with agenda := r, evTurn := false })
    ∧ ((s.evTurn = false ∨ s.agenda = []) → step s = stepStrand { s.tick with cur := nextStrand s.tick, evTurn := true })
    ∧ (∀ (i : Instr) (r : List Turn), step { s with sched := .event i :: r } = behind i { s.tick with sched := r })
    ∧ (∀ (p n : Nat) (r : List Turn),
      step { s with sched := .cut p n :: r } = stepStrand { ({ s.tick with sched := r }).updStrand p (fun st => { st with cut := some n }) with cur := p })
    ∧ (∀ (p : Nat) (va : Word) (n : Nat) (r : List Turn), step { s with sched := .ahead p va n :: r } = .next (checkAhead { s.tick with sched := r } p va n))
    ∧ (∀ (p : Nat) (r : List Turn),
      step { s with sched := .late p :: r } = .next (({ s.tick with sched := r }).updStrand p (fun st => { st with late := true })))
    ∧ (∀ (p k n : Nat) (r : List Turn), step { s with sched := .move p k n :: r } = .next (moveXfer { s.tick with sched := r } p k n))
    ∧ (∀ (f : Flaw) (r : List Turn), step { s with sched := .flaw f :: r } = .next (flawAt { s.tick with sched := r } f))

/-! ## Operands, traps and the integer unit (02, 05, 06) -/

/-- 05 R88: what trap entry saves and changes, the strand's vector instructions having retired and NEST being 0: EPC, CAUSE, TVAL, PPRV and
PRV, PIE and IE, NEST, and the pc at TVEC when its line passes the check; of the other strands and cores nothing changes. -/
def Sys2Proof.Claim.TrapEntry : Prop :=
  ∀ (s : State) (t : TrapInfo), s.mycore.window = [] → s.me.status.nest = false →
    let st := { s.me.trapEntry t with status := { (s.me.trapEntry t).status with nest := true } }
    let u := takeTrap s t
    let c := checkTarget (s.setStrand s.cur st) s.cur s.me.tvec true
    u.me.trap = ⟨t.int, t.svf, BitVec.ofNat 8 t.qual, BitVec.ofNat 8 t.code, t.epc.getD s.me.pc, t.tval⟩
    ∧ u.me.status = { s.me.status with pprv := s.me.status.prv, prv := true, pie := s.me.status.ie, ie := false, nest := true }
    ∧ u.me.sregs = s.me.sregs ∧ u.me.loops = s.me.loops ∧ u.me.vec = s.me.vec ∧ u.me.qregs = s.me.qregs
    ∧ (∀ l, c.1 = .ok l → u.me.pc = s.me.tvec ∧ u.me.line = some l ∧ u.me.run = .active)
    ∧ (∀ e, c.1 = .error e → u.me.run = .mcheck)
    ∧ u.mem = c.2.mem ∧ (NoDirect s → u.cores = s.cores ∧ (NoneHeld s → (∀ p, p ≠ s.cur → u.strand p = s.strand p) ∧ u.tags = s.tags))

/-- 05 R88: a trap with NEST = 1 stops the strand with a MACHINE_CHECK to firmware whose TVAL is the cause code. -/
def Sys2Proof.Claim.NestedTrap : Prop :=
  ∀ (s : State) (t : TrapInfo), s.mycore.window = [] → s.me.status.nest = true →
    let u := takeTrap s t
    u.me.run = .mcheck ∧ u.mem = s.mem ∧ u.cores = s.cores
    ∧ (u.modl (moduleOf s.cur)).firmware = (s.modl (moduleOf s.cur)).firmware ++ [(s.cur % 384, BitVec.ofNat 64 t.code)]

/-- Trap entry: what it saves and changes and where the pc goes; with NEST = 1 the strand stops with a MACHINE_CHECK. -/
def Obligations.TrapEntry : Prop := Claim.TrapEntry ∧ Claim.NestedTrap

/-- 02 R40: the operand test of a list of sources in the order of report, none of them awaiting a transfer. An empty source with F = 1 raises
EMPTY_OPERAND, the first such source naming TVAL by file and number, whether or not others are empty; else an empty source waits with
nothing changed; else a poisoned scalar source raises UE_DATA with the address its register carries (06 R113); else the instruction
issues. The test is made once: a head that waits has passed it and goes on waiting for its sources with F = 0 alone. A source that the sibling
wrote waits for what the sibling did before (03 R58). Behaviour while a transfer owns a source register is notes/assumptions/17. -/
def Obligations.OperandTest : Prop :=
  ∀ (s : State) (os : List Opnd), (∀ o ∈ os, o.file = 1 → fabBusy s (coreOf s.cur) o.n = false) →
    let again := s.me.tested = some s.me.pc
    let may := fun (o : Opnd) => o.f = false ∨ opFull s o = true ∨ again
    (¬ again → ∀ (pre post : List Opnd) (o : Opnd), os = pre ++ o :: post → (∀ x ∈ pre, x.f = false ∨ opFull s x = true) → o.f = true →
      opFull s o = false → operands s os = raise s 0x05 0 (BitVec.ofNat 64 (o.file * 32 + o.n)))
    ∧ ((∀ o ∈ os, may o) → handed s s.cur (os.filterMap Opnd.key) = true → operands s os = wait (handOver s s.cur))
    ∧ (handed s s.cur (os.filterMap Opnd.key) = false →
      ((∀ o ∈ os, may o) → (∃ o ∈ os, o.f = false ∧ opFull s o = false) → operands s os = wait s)
      ∧ (∀ (pre post : List Opnd) (o : Opnd) (ea : Word), os = pre ++ o :: post → (∀ x ∈ os, opFull s x = true ∨ (again ∧ x.f = true)) →
          (∀ x ∈ pre, scalarMark s x = none) → o.file = 0 → (s.me.sreg o.n).mark = .poison ea →
          operands s os = .error (.trap { code := 0x10, qual := 1, tval := ea } s))
      ∧ ((∀ o ∈ os, (opFull s o = true ∨ (again ∧ o.f = true)) ∧ scalarMark s o = none) → operands s os = .ok ()))
    ∧ (finish (wait s) = .next s.waits ∧ s.waits.me = { s.me with run := .waiting, tested := some s.me.pc })

/-- 05 R81: s0 reads as zero and is always full, whatever the state; a write to it is discarded and a producer that names it marks nothing
empty. s28 to s31 exist twice, and UIACT chooses the bank in use: a write reads back in its register and leaves every other as it was. -/
def Obligations.ScalarRegisterFile : Prop :=
  ∀ (s : State),
    s.me.sval 0 = 0 ∧ (s.me.sreg 0).full = true ∧ (∀ v tok, s.me.setS 0 v = s.me ∧ s.me.markEmpty 0 tok = s.me)
    ∧ (∀ (n : Reg) (v : Word), n ≠ 0 →
      let u := s.setS n v
      (u.me.sreg n.toNat).val = v ∧ (u.me.sreg n.toNat).full = true
      ∧ (∀ k, k ≠ physReg s.me.status.uiact n.toNat → u.me.cell k = s.me.cell k)
      ∧ physReg s.me.status.uiact n.toNat = if s.me.status.uiact = true ∧ 28 ≤ n.toNat then n.toNat + 4 else n.toNat)

/-- 06 R101, register forms: with W = 1 at width 32, sign-extended; a shift count is taken modulo the width. Nothing but sD and the pc
changes. -/
def Sys2Proof.Claim.IntegerRegisterForms : Prop :=
  ∀ (s : State) (o : AluR), Straight s → Readable s [o.b, o.c] →
    let a := sv s o.b
    let b := sv s o.c
    let w := o.w
    let k := shiftOf w b
    let done := fun (v : Word) => (.next (onward (s.setS o.d v)) : Host.Outcome State Fault Refusal)
    exec (.add o) s = done (atWidth w (a + b)) ∧ exec (.sub o) s = done (atWidth w (a - b))
    ∧ exec (.and o) s = done (atWidth w (a &&& b)) ∧ exec (.or o) s = done (atWidth w (a ||| b))
    ∧ exec (.xor o) s = done (atWidth w (a ^^^ b)) ∧ exec (.andn o) s = done (atWidth w (a &&& ~~~b))
    ∧ exec (.sll o) s = done (atWidth w (a <<< k))
    ∧ exec (.srl o) s = done (if w then ((a.setWidth 32) >>> k).signExtend 64 else a >>> k)
    ∧ exec (.sra o) s = done (if w then ((a.setWidth 32).sshiftRight k).signExtend 64 else a.sshiftRight k)
    ∧ exec (.ror o) s = done (if w then ((a.setWidth 32).rotateRight k).signExtend 64 else a.rotateRight k)
    ∧ exec (.slt o) s = done (flagWord (sltAt w a b)) ∧ exec (.sltu o) s = done (flagWord (ultAt w a b))
    ∧ exec (.min o) s = done (atWidth w (if sltAt w a b then a else b)) ∧ exec (.max o) s = done (atWidth w (if sltAt w a b then b else a))
    ∧ exec (.minu o) s = done (atWidth w (if ultAt w a b then a else b)) ∧ exec (.maxu o) s = done (atWidth w (if ultAt w a b then b else a))

/-- 06 R101, immediate forms: the sign-extended immediate stands in place of sC, and rsb subtracts sB from it. -/
def Sys2Proof.Claim.IntegerImmediateForms : Prop :=
  ∀ (s : State) (o : AluI), Straight s → Readable s [o.b] →
    let a := sv s o.b
    let b := o.imm.word
    let w := o.w
    let k := shiftOf w b
    let done := fun (v : Word) => (.next (onward (s.setS o.d v)) : Host.Outcome State Fault Refusal)
    exec (.addImm o) s = done (atWidth w (a + b)) ∧ exec (.rsbImm o) s = done (atWidth w (b - a))
    ∧ exec (.andImm o) s = done (atWidth w (a &&& b)) ∧ exec (.orImm o) s = done (atWidth w (a ||| b))
    ∧ exec (.xorImm o) s = done (atWidth w (a ^^^ b)) ∧ exec (.andnImm o) s = done (atWidth w (a &&& ~~~b))
    ∧ exec (.sllImm o) s = done (atWidth w (a <<< k))
    ∧ exec (.srlImm o) s = done (if w then ((a.setWidth 32) >>> k).signExtend 64 else a >>> k)
    ∧ exec (.sraImm o) s = done (if w then ((a.setWidth 32).sshiftRight k).signExtend 64 else a.sshiftRight k)
    ∧ exec (.rorImm o) s = done (if w then ((a.setWidth 32).rotateRight k).signExtend 64 else a.rotateRight k)
    ∧ exec (.sltImm o) s = done (flagWord (sltAt w a b)) ∧ exec (.sltuImm o) s = done (flagWord (ultAt w a b))
    ∧ exec (.minImm o) s = done (atWidth w (if sltAt w a b then a else b))
    ∧ exec (.maxImm o) s = done (atWidth w (if sltAt w a b then b else a))
    ∧ exec (.minuImm o) s = done (atWidth w (if ultAt w a b then a else b))
    ∧ exec (.maxuImm o) s = done (atWidth w (if ultAt w a b then b else a))

/-- Integer arithmetic, logic, shifts and comparisons, register and immediate forms, at both widths. -/
def Obligations.IntegerForms : Prop := Claim.IntegerRegisterForms ∧ Claim.IntegerImmediateForms

/-- 06 R102, R103: products, high halves, quotients and remainders; the quotient of the most negative value by -1 wraps, and a divisor whose
low n bits are zero raises ARITH with QUAL 1 and writes nothing. -/
def Obligations.MultiplyDivide : Prop :=
  ∀ (s : State) (o : AluR), Straight s → Readable s [o.b, o.c] →
    let a := sv s o.b
    let b := sv s o.c
    let a32 : BitVec 32 := a.setWidth 32
    let b32 : BitVec 32 := b.setWidth 32
    let done := fun (v : Word) => (.next (onward (s.setS o.d v)) : Host.Outcome State Fault Refusal)
    let zero := if o.w then b32 = 0 else b = 0
    exec (.mul o) s = done (atWidth o.w (a * b))
    ∧ exec (.mulh o) s = done (if o.w then ((a32.signExtend 64 * b32.signExtend 64).extractLsb' 32 32).signExtend 64
        else (a.signExtend 128 * b.signExtend 128).extractLsb' 64 64)
    ∧ exec (.mulhu o) s = done (if o.w then ((a32.setWidth 64 * b32.setWidth 64).extractLsb' 32 32).signExtend 64
        else (a.setWidth 128 * b.setWidth 128).extractLsb' 64 64)
    ∧ exec (.mulhsu o) s = done (if o.w then ((a32.signExtend 64 * b32.setWidth 64).extractLsb' 32 32).signExtend 64
        else (a.signExtend 128 * b.setWidth 128).extractLsb' 64 64)
    ∧ (¬ zero → exec (.div o) s = done (if o.w then (a32.sdiv b32).signExtend 64 else a.sdiv b)
        ∧ exec (.divu o) s = done (if o.w then (a32.udiv b32).signExtend 64 else a.udiv b)
        ∧ exec (.rem o) s = done (if o.w then (a32.srem b32).signExtend 64 else a.srem b)
        ∧ exec (.remu o) s = done (if o.w then (a32.umod b32).signExtend 64 else a.umod b))
    ∧ (zero → ∀ i ∈ [Instr.div o, .divu o, .rem o, .remu o], exec i s = .next (takeTrap s { code := 0x0F, qual := 1 }))
    ∧ (o.w = false → a = BitVec.intMin 64 → b = -1 → exec (.div o) s = done (BitVec.intMin 64) ∧ exec (.rem o) s = done 0)
    ∧ (o.w = true → a32 = BitVec.intMin 32 → b32 = -1 → exec (.div o) s = done ((BitVec.intMin 32).signExtend 64) ∧ exec (.rem o) s = done 0)
    ∧ (b ≠ 0 → o.w = false → ∃ r : Word, exec (.rem o) s = done r ∧ (r = 0 ∨ r.msb = a.msb))
    ∧ (b32 ≠ 0 → o.w = true → ∃ r : BitVec 32, exec (.rem o) s = done (r.signExtend 64) ∧ (r = 0 ∨ r.msb = a32.msb))

/-- NOP changes nothing but the pc; li and addpc write their value (02 R37, 06 R106, R107). Sequential flow at the end of a loop body is
LoopBackEdge's. -/
def Sys2Proof.Claim.LoadImmediate : Prop :=
  ∀ (s : State) (d : Reg), Straight s →
    exec .nop s = .next (onward s)
    ∧ (∀ i : BitVec 16, exec (.li16 false d i) s = .next (onward (s.setS d (i.signExtend 64)))
        ∧ exec (.li16 true d i) s = .next (onward (s.setS d (i.setWidth 64))))
    ∧ (∀ i : BitVec 32, exec (.li32 false d i) s = .next (onward (s.setS d (i.signExtend 64)))
        ∧ exec (.li32 true d i) s = .next (onward (s.setS d (i.setWidth 64))))
    ∧ (∀ i : BitVec 64, exec (.li64 d i) s = .next (onward (s.setS d i)))
    ∧ (∀ i : Imm, exec (.addpc d i) s = .next (onward (s.setS d (s.me.pc + i.word))))

/-- 06 R104, R105: the counts, reversals and byte swap of x, the low n bits of sB, zero-extended; n is 8 << WC. -/
def Sys2Proof.Claim.BitCounts : Prop :=
  ∀ (s : State) (o : BitU), Straight s → Readable s [o.b] →
    let n := 8 * 2 ^ o.wc.toNat
    let x := (sv s o.b).toNat % 2 ^ n
    let done := fun (v : Nat) => (.next (onward (s.setS o.d (BitVec.ofNat 64 v))) : Host.Outcome State Fault Refusal)
    (∃ r, exec (.clz o) s = done r ∧ r ≤ n ∧ x < 2 ^ (n - r) ∧ (r < n → 2 ^ (n - r - 1) ≤ x))
    ∧ (∃ r, exec (.ctz o) s = done r ∧ r ≤ n ∧ (∀ i, i < r → x.testBit i = false) ∧ (r < n → x.testBit r = true))
    ∧ exec (.popc o) s = done ((List.range n).filter (fun i => x.testBit i)).length
    ∧ (∃ r, exec (.brev o) s = done r ∧ r < 2 ^ n ∧ ∀ i, i < n → r.testBit (n - 1 - i) = x.testBit i)
    ∧ (∃ r, exec (.bswap o) s = done r ∧ r < 2 ^ n ∧ ∀ j, j < n / 8 → r / 256 ^ (n / 8 - 1 - j) % 256 = x / 256 ^ j % 256)

/-- 06 R104, R107: sel, the bit fields and lea, bit by bit. -/
def Sys2Proof.Claim.BitFieldsAndLea : Prop :=
  ∀ (s : State), Straight s →
    (∀ o : SelOps, Readable s [o.b, o.c, o.a] → ∃ v, exec (.sel o) s = .next (onward (s.setS o.d v))
      ∧ ∀ i, v.getLsbD i = if (sv s o.a).getLsbD i then (sv s o.b).getLsbD i else (sv s o.c).getLsbD i)
    ∧ (∀ o : ExtOps, Readable s [o.b] → o.pos.toNat + o.lenm1.toNat + 1 ≤ 64 →
      (∃ v, exec (.ext o) s = .next (onward (s.setS o.d v))
        ∧ ∀ i, v.getLsbD i = (decide (i ≤ o.lenm1.toNat) && (sv s o.b).getLsbD (o.pos.toNat + i)))
      ∧ (∃ v, exec (.extn o) s = .next (onward (s.setS o.d v))
        ∧ ∀ i, i < 64 → v.getLsbD i = (sv s o.b).getLsbD (o.pos.toNat + Nat.min i o.lenm1.toNat)))
    ∧ (∀ o : ExtOps, Readable s [o.b, o.d] → o.pos.toNat + o.lenm1.toNat + 1 ≤ 64 → ∃ v, exec (.ins o) s = .next (onward (s.setS o.d v))
      ∧ ∀ i, v.getLsbD i = if o.pos.toNat ≤ i ∧ i ≤ o.pos.toNat + o.lenm1.toNat then (sv s o.b).getLsbD (i - o.pos.toNat)
          else (sv s o.d).getLsbD i)
    ∧ (∀ o : LeaOps, Readable s [o.b, o.c] → exec (.lea o) s = .next (onward (s.setS o.d (sv s o.b + (sv s o.c <<< o.sc.toNat))))
      ∧ ∀ i : Imm, exec (.leaDisp o i) s = .next (onward (s.setS o.d (sv s o.b + (sv s o.c <<< o.sc.toNat) + i.word))))

/-- NOP, li and addpc; bit counts, reversals and byte swap; sel, the bit fields and lea. -/
def Obligations.ConstantsAndBits : Prop := Claim.LoadImmediate ∧ Claim.BitCounts ∧ Claim.BitFieldsAndLea

/-! ## Scalar memory and scratchpads (03, 06, 14) -/

/-- 06 R108, R110, R112: a load, aligned, passing its checks, marks sD empty for a producer; no other register changes, and no core and no byte of
memory, unless the load goes through the direct aperture behind bytes of the granule that the outbound path still holds. The producer carries the
bytes the load has read, extended: at its check, or ahead of it; or the place that they are still to be read from; and the home that its request
travels to. -/
def Sys2Proof.Claim.ScalarLoad : Prop :=
  ∀ (s u : State) (o : LdOps) (i : Instr) (disp : Word) (a : Acc), FormAt i disp (.ld o) (.ldDisp o) → Straight s → Readable s [o.b] →
    let n := 2 ^ o.sz.toNat
    let ea := sv s o.b + disp
    let k := physReg s.me.status.uiact o.d.toNat
    let ahead := s.me.early.find? (fun x => x.va == ea && x.len == n)
    let goes := fun (tok msg : Nat) (v : Word) (m : Mark) (late : Option (Nat × Nat × Bool × Bool)) (home : Option Nat) =>
      ∃ t, exec i s = .next t ∧ t.me.pc = s.me.seqNext ∧ (o.d ≠ 0 → (t.me.sreg o.d.toNat).full = false)
        ∧ t.me.prods = s.me.prods ++ [{ tok := tok, sdest := if o.d = 0 then none else some k, sval := v, smark := m, vdest := [], ea := ea
                                        msg := msg, late := late, home := home }]
        ∧ (∀ j, o.d = 0 ∨ j ≠ k → t.me.cell j = s.me.cell j)
        ∧ t.me.status = s.me.status ∧ t.me.trap = s.me.trap ∧ t.me.vec = s.me.vec ∧ t.me.loops = s.me.loops ∧ t.me.qregs = s.me.qregs
        ∧ (NoDirect s → (a.dir = true → PathClear s (granOf a.pa)) → t.cores = s.cores ∧ (NoneHeld s → NoGroups s → t.mem = s.mem))
    ea.toNat % n = 0 → busyGran s s.cur ea false = false → NoneLate s →
    (checkAccess s s.cur ea { kind := .read } = (.ok a, u) → ahead = none →
      (s.me.late = false ∨ o.acq = true ∨ a.dir = false →
        let m := fetchMsg (if o.acq then u.updMe (fun st => { st with early := [] }) else u) s.cur a
        let r := readAcc m.2 a ea n
        goes (r.2.tokens + 1) m.1 (extendLoad o.z n r.1.1) (if r.1.2 then .poison ea else .clean) none (msgHome m.1 a))
      ∧ (s.me.late = true → o.acq = false → a.dir = true →
        let m := toHome (sampleLate u s.cur (granOf a.pa)) s.cur a.pa
        goes (m.2.tokens + 1) m.1 0 .clean (some (a.pa, n, true, o.z)) (some a.pa)))
    ∧ (∀ x, checkAccess s s.cur ea { kind := .read, tag := false, scope2 := false } = (.ok a, u) → ahead = some x →
      goes (u.tokens + 1) 0 (extendLoad o.z n x.val) (if x.bad then .poison ea else .clean) none none)

/-- 06 R116: PREF goes on, whether or not it copies the granule inward: no register changes, no core and no tag, and nothing of A, D and ONCE; dropped, it
has changed nothing. -/
def Sys2Proof.Claim.Prefetch : Prop :=
  ∀ (s : State) (o : PrefOps) (i : Instr) (disp : Word), FormAt i disp (.pref o) (.prefDisp o) → Straight s →
    (s.me.sreg o.b.toNat).full = true ∨ o.fb = true →
    (∃ t, exec i s = .next t ∧ t.me.pc = s.me.seqNext ∧ t.me.sregs = s.me.sregs ∧ t.me.status = s.me.status ∧ t.adq = s.adq
      ∧ (NoDirect s → t.cores = s.cores ∧ (NoneHeld s → t.tags = s.tags ∧ (NoGroups s → t.mem = s.mem))))
    ∧ (∀ c u, (s.me.sreg o.b.toNat).full = true → checkAccess s s.cur (sv s o.b + disp) { kind := .read, touch := false } = (.error c, u) →
        exec i s = .next (onward s))

/-- Scalar loads and their frame; PREF changes nothing but the pc. When a load reads is the schedule's: notes/assumptions/18. -/
def Obligations.Loads : Prop := Claim.ScalarLoad ∧ Claim.Prefetch

/-- 06 R108, R111: a store, aligned, passing its checks, writes the low bytes of sC (writeBytes); to a page without DIR it places the low
bytes of sC in the core's outbound path, the lowest first, whose slice has room; no other byte of the path changes, no register of the strand, of any
kind, no other core and no other strand; and, no version pair standing, no byte of memory, the granule's tag has T = NONE (04 R63), and no other
granule's tag changes. A store through the direct aperture sets off for the home with those bytes (14 R256). Where the slice is full its oldest
granule goes first (notes/assumptions/29). -/
def Obligations.ScalarStore : Prop :=
  ∀ (s u : State) (o : StOps) (i : Instr) (disp : Word) (a : Acc), FormAt i disp (.st o) (.stDisp o) → Straight s → Readable s [o.b, o.c] →
    let n := 2 ^ o.sz.toNat
    let ea := sv s o.b + disp
    ea.toNat % n = 0 → busyGran s s.cur ea true = false → checkAccess s s.cur ea { kind := .write } = (.ok a, u) →
    let c := coreOf s.cur
    ∃ t, exec i s = .next t ∧ t = onward (writeBytes u s.cur a ea n (uAt (8 * n) (sv s o.c))) ∧ t.me.pc = s.me.seqNext
      ∧ t.me.sregs = s.me.sregs ∧ t.me.status = s.me.status ∧ t.me.vec = s.me.vec ∧ t.me.loops = s.me.loops ∧ t.me.trap = s.me.trap
      ∧ t.me.qregs = s.me.qregs
      ∧ (a.dir = true → a.pa % n = 0 → unreachable u (moduleOf s.cur) a.pa = false →
        ∃ m ∈ t.merges, m.dir = true ∧ m.cells = cellsOf a.pa n (uAt (8 * n) (sv s o.c)) ∧ Travels t m.msg .request)
      ∧ (a.dir = false → a.pa % n = 0 → PathOk s c → SliceRoom s c → NoneHeld s → NoneLate s → NoDirect s → unreachable u (moduleOf s.cur) a.pa = false →
        (∀ j, j < n → pendingByte t c (a.pa + j) = some ((sv s o.c).extractLsb' (8 * j) 8))
        ∧ (∀ x, x < a.pa ∨ a.pa + n ≤ x → pendingByte t c x = pendingByte s c x)
        ∧ granOf a.pa ∈ t.me.unturned ∧ (∀ p, p ≠ s.cur → t.strand p = s.strand p) ∧ (∀ d, d ≠ c → t.core d = s.core d)
        ∧ (s.vers = [] → ((s.tag (granOf a.pa)).corrupt = false → (t.tag (granOf a.pa)).t = 7)
            ∧ (∀ g, g ≠ granOf a.pa → t.tag g = s.tag g) ∧ (NoGroups s → t.mem = s.mem)))

/-- 06 R108: an access that is not a multiple of its size takes MISALIGNED with TVAL the address, before any other check. -/
def Sys2Proof.Claim.Misaligned : Prop :=
  ∀ (s : State) (disp : Word),
    (∀ (o : LdOps) (i : Instr), FormAt i disp (.ld o) (.ldDisp o) → Readable s [o.b] → (sv s o.b + disp).toNat % 2 ^ o.sz.toNat ≠ 0 →
      exec i s = .next (takeTrap s { code := 0x06, tval := sv s o.b + disp }))
    ∧ (∀ (o : StOps) (i : Instr), FormAt i disp (.st o) (.stDisp o) ∨ FormAt i disp (.sts o) (.stsDisp o) → Readable s [o.b, o.c] →
      (sv s o.b + disp).toNat % 2 ^ o.sz.toNat ≠ 0 → exec i s = .next (takeTrap s { code := 0x06, tval := sv s o.b + disp }))
    ∧ (∀ (o : LdsOps) (i : Instr), FormAt i disp (.lds o) (.ldsDisp o) → Readable s [o.b] → (sv s o.b + disp).toNat % 2 ^ o.sz.toNat ≠ 0 →
      exec i s = .next (takeTrap s { code := 0x06, tval := sv s o.b + disp }))

/-- 02 R32: the checks of a target that i transfers to under privilege prv, in their order: an odd address, or byte 0 of a line, is ILLEGAL_TARGET with
TVAL the target; a line that fails its fetch or its check raises what it raises; and byte 2 of a head beyond the line's last is ILLEGAL_TARGET. -/
def Sys2Proof.Claim.ChecksTarget (s : State) (i : Instr) (t : Word) (prv : Bool) : Prop :=
  let bad : TrapInfo := { code := 0x03, tval := t }
  ((t.toNat % 2 = 1 ∨ t.toNat % 64 = 0) → exec i s = .next (takeTrap s bad))
  ∧ (t.toNat % 2 = 0 → t.toNat % 64 ≠ 0 → s.me.replay = none →
    (∀ e u, fetchLine s s.cur t prv = (.error e, u) → exec i s = .next (takeTrap u e))
    ∧ (∀ l u, fetchLine s s.cur t prv = (.ok l, u) → 2 * lineN l.data < offOf t → exec i s = .next (takeTrap u bad)))

/-- 02 R32, 07 R118: every transfer checks its target: branches, when taken, calls, JMPR and RET; LOOP its body's end; LBRK what it goes on at, or an end
outside the line (notes/assumptions/54); STRIP and a loop's back-edge the body's first head; ERET, under PPRV, and UIRET. -/
def Sys2Proof.Claim.BadTarget : Prop :=
  ∀ (s : State),
    let st := s.me
    let prv := st.status.prv
    (∀ o : BitVec 16, Claim.ChecksTarget s (.br o) (st.pc + 2 * o.signExtend 64) prv
      ∧ ∀ d, Claim.ChecksTarget s (.call d o) (st.pc + 2 * o.signExtend 64) prv)
    ∧ (∀ o : BitVec 32, Claim.ChecksTarget s (.brLong o) (st.pc + 2 * o.signExtend 64) prv
      ∧ ∀ d, Claim.ChecksTarget s (.callLong d o) (st.pc + 2 * o.signExtend 64) prv)
    ∧ (∀ o : UnOps, Readable s [o.b] → Claim.ChecksTarget s (.jmpr o) (sv s o.b) prv)
    ∧ (∀ o : SrcOps, Readable s [o.b] → Claim.ChecksTarget s (.ret o) (sv s o.b) prv)
    ∧ (∀ o : BccOps, Readable s [o.b, o.c] →
      let a := sv s o.b
      let b := sv s o.c
      let eq := if o.w then (a.setWidth 32 : BitVec 32) == b.setWidth 32 else a == b
      ∀ x ∈ [(Instr.beq o, eq), (.bne o, !eq), (.blt o, sltAt o.w a b), (.bge o, !sltAt o.w a b), (.bltu o, ultAt o.w a b), (.bgeu o, !ultAt o.w a b)],
        x.2 = true → Claim.ChecksTarget s x.1 (st.pc + 2 * o.off.word) prv)
    ∧ (st.loopd < 6 → (∀ o : LoopOps, Readable s [o.b] → Claim.ChecksTarget s (.loop o) (st.pc + 2 * o.off.setWidth 64) prv)
      ∧ ∀ o : LoopImmOps, Claim.ChecksTarget s (.loopImm o) (st.pc + 2 * o.off.setWidth 64) prv)
    ∧ (∀ lv : BitVec 3, lv.toNat < st.loopd →
      let e := (st.loop lv.toNat).fin
      (∀ l, st.line = some l → l.addr = lineOf e → Claim.ChecksTarget s (.lbrk lv) (seqNextIn (lineN l.data) e) prv)
      ∧ ((∀ l, st.line = some l → l.addr ≠ lineOf e) → Claim.ChecksTarget s (.lbrk lv) e prv))
    ∧ (∀ (o : StripOps) (i : Instr), (i = .strip o ∨ ∃ c, i = .stripCk o c) → Readable s [o.n] → st.vec.vl.toNat < (sv s o.n).toNat →
      Claim.ChecksTarget s i (st.pc + 2 * o.off.signExtend 64) prv)
    ∧ (0 < st.loopd → (st.loop (st.loopd - 1)).fin = st.pc → (st.loop (st.loopd - 1)).cnt ≠ 1 →
      Claim.ChecksTarget s .nop (st.loop (st.loopd - 1)).beg prv)
    ∧ (prv = true → Claim.ChecksTarget s .eret st.trap.epc st.status.pprv)
    ∧ (st.status.uiact = true → Claim.ChecksTarget s .uiret st.ui.epc prv)

/-- MISALIGNED before every other check of an access, and what every control transfer raises at its target: ILLEGAL_TARGET, or what its line's fetch
and check raise. -/
def Obligations.AlignmentTraps : Prop := Claim.Misaligned ∧ Claim.BadTarget

/-- 06 R114, R115: in the own core (SEL 0), nothing of the strand's travelling there, a scratchpad store writes the low bytes of sC at the offset,
lowest first, and no other byte of the scratchpad; a load delivers the bytes there; memory is untouched. A load of bytes that the sibling wrote
waits for what the sibling did before (03 R58). -/
def Obligations.ScratchpadAccess : Prop :=
  ∀ (s : State) (b : Word) (n : Nat), Straight s → selfBusy s = false →
    b.toNat + n ≤ Config.scratchBytes → b.toNat % n = 0 → s.mycore.scratch.wf = true →
    (∀ (o : StOps) (i : Instr) (disp : Word), FormAt i disp (.sts o) (.stsDisp o) → Readable s [o.b, o.c] → sv s o.b + disp = b → n = 2 ^ o.sz.toNat →
      ∃ t, exec i s = .next t ∧ t.me = { s.me with pc := s.me.seqNext, run := .active, tested := none } ∧ t.mem = s.mem
        ∧ (∀ j, j < n → t.mycore.scratch.byte (b.toNat + j) = (sv s o.c).extractLsb' (8 * j) 8)
        ∧ (∀ x, x < b.toNat ∨ b.toNat + n ≤ x → t.mycore.scratch.byte x = s.mycore.scratch.byte x)
        ∧ t.mycore.v = s.mycore.v ∧ t.mycore.k = s.mycore.k ∧ (∀ c, c ≠ coreOf s.cur → t.core c = s.core c))
    ∧ (∀ (o : LdsOps) (i : Instr) (disp : Word), FormAt i disp (.lds o) (.ldsDisp o) → Readable s [o.b] → sv s o.b + disp = b → n = 2 ^ o.sz.toNat →
      (handed s s.cur (handWords b.toNat n) = false →
        ∃ t, exec i s = .next t ∧ t.me.pc = s.me.seqNext ∧ (o.d ≠ 0 → (t.me.sreg o.d.toNat).full = false) ∧ t.mem = s.mem ∧ t.cores = s.cores
          ∧ t.me.prods.getLast?.map (·.sval) = some (extendLoad o.z n (s.mycore.scratch.readN b.toNat n)))
      ∧ (handed s s.cur (handWords b.toNat n) = true → exec i s = .next (handOver s s.cur).waits))

/-- 03 R47, 06 R110, 19 R309: a load's request that has arrived is served at the home: what is still to be read is read now (06 R112), and the answer sets off
in a packet of its own; an uncorrectable error there poisons the ECC granule and what the load delivers (06 R113, 23 R374). Data that have come back
fill a destination that still carries the producer's token, and leave one that a later instruction wrote. What no port could bring is poison, which
is reported (19 R319). A remote scratchpad access that is due is performed at its target (06 R115), but for one that no port could bring; a read
sends its answer back; one that takes words which the sibling wrote waits for what the sibling did before (03 R58, notes/assumptions/17). -/
def Obligations.Arrivals : Prop :=
  ∀ (s : State),
    (∀ (p k : Nat) (d : Prod), (s.strand p).prods[k]? = some d → s.arrived d.msg = true →
      let full := fun (t : State) (m : Mark) =>
        (∀ n, d.sdest = some n → n ≠ 0 → d.tok ≠ 0 → ((s.strand p).cell n).tok = d.tok → (t.strand p).cell n = ⟨d.sval, true, m, 0⟩)
        ∧ (∀ n, (d.sdest ≠ some n ∨ ((s.strand p).cell n).tok ≠ d.tok) → (t.strand p).cell n = (s.strand p).cell n)
        ∧ (∀ j, (∃ x y, (j, x, y) ∈ d.vdest) → (mget VReg.zero (s.core (coreOf p)).v j).tok = d.tok →
            (mget VReg.zero (t.core (coreOf p)).v j).full = true)
        ∧ t.mem = s.mem
      (s.lost.contains d.msg = false → d.home = none → ∀ bad, ∃ t, exec (.loadDataArrival p k bad) s = .next t
        ∧ (t.strand p).prods = (s.strand p).prods.erase d ∧ full t d.smark
        ∧ (∀ j ∈ d.regs, (∀ r ∈ s.remote, r.tok ≠ d.tok) → (∀ x ∈ (s.strand p).prods.erase d, x.tok ≠ d.tok) →
            (mget VReg.zero (s.core (coreOf p)).v j).tok = d.tok → (mget VReg.zero (t.core (coreOf p)).v j).full = true)
        ∧ (∀ j, (∀ x y, (j, x, y) ∉ d.vdest) → j ∉ d.regs → mget VReg.zero (t.core (coreOf p)).v j = mget VReg.zero (s.core (coreOf p)).v j))
      ∧ (∀ pa, s.lost.contains d.msg = false → d.home = some pa →
        let r := (lateRead (s.delivered d.msg) p d).1
        (∃ t m, exec (.loadDataArrival p k false) s = .next t ∧ Travels t m .response ∧ (t.strand p).sregs = (s.strand p).sregs
          ∧ (t.strand p).prods = (s.strand p).prods.map (fun y => if y = d then { d with sval := r.1, smark := r.2, late := none, home := none, msg := m } else y)
          ∧ (d.late = none → t.mem = s.mem ∧ t.cores = s.cores))
        ∧ (∀ n, d.sdest = some n → d.late = none → PlainHome s → pa < 2 ^ 52 →
          ∃ t m, exec (.loadDataArrival p k true) s = .next t ∧ t.mem = s.mem ∧ t.poison.contains (pa / 64) = true
            ∧ (t.strand p).prods = (s.strand p).prods.map (fun y => if y = d then { d with smark := .poison d.ea, home := none, msg := m } else y)))
      ∧ (s.lost.contains d.msg = true → ∀ bad, ∃ t, exec (.loadDataArrival p k bad) s = .next t ∧ full t (.poison d.ea)
        ∧ (t.strand p).prods.length + 1 = (s.strand p).prods.length
        ∧ ((s.strand p).reports.length < 4 → (t.strand p).reports = (s.strand p).reports ++ [⟨6, d.ea⟩])))
    ∧ (∀ (k : Nat) (r : Remote), (s.remote.filter (fun r => r.mc = 0))[k]? = some r → remoteDue s r = true → r.write ≠ [] → remoteLost s r = true →
      (s.strand r.strand).reports.length < 4 →
      ∃ t, exec (.remoteScratchpadArrival k) s = .next t ∧ t.cores = s.cores ∧ (t.strand r.strand).reports = (s.strand r.strand).reports ++ [⟨6, r.ea⟩])
    ∧ (∀ (k : Nat) (r : Remote), (s.remote.filter (fun r => r.mc = 0))[k]? = some r → remoteDue s r = true → r.write = [] →
      handed s r.strand r.keys = true → exec (.remoteScratchpadArrival k) s = .next ((handOver s r.strand).post (.remoteScratchpadArrival k)))
    ∧ (∀ (k : Nat) (r : Remote), (s.remote.filter (fun r => r.mc = 0))[k]? = some r → remoteDue s r = true → remoteLost s r = false →
      (r.write = [] → handed s r.strand r.keys = false) →
      ∃ t, exec (.remoteScratchpadArrival k) s = .next t ∧ t.remote = s.remote.erase r ∧ t.mem = s.mem ∧ (t.strand r.strand).sregs = (s.strand r.strand).sregs
        ∧ (∀ off bs, r.write = [(off, bs)] → (s.core r.core).scratch.wf = true →
            (∀ j, j < bs.length → (t.core r.core).scratch.byte (off + j) = bs.getD j 0)
            ∧ ∀ x, x < off ∨ off + bs.length ≤ x → (t.core r.core).scratch.byte x = (s.core r.core).scratch.byte x)
        ∧ (r.write = [] → r.vd = none → ∃ d, (t.strand r.strand).prods = (s.strand r.strand).prods ++ [d] ∧ d.tok = r.tok ∧ d.sdest = r.dest
            ∧ d.sval = extendLoad r.zext r.len ((s.core r.core).scratch.readN r.off r.len) ∧ Travels t d.msg .response)
        ∧ (∀ v, r.write = [] → r.vd = some v → ∃ d, (t.strand r.strand).prods = (s.strand r.strand).prods ++ [d] ∧ d.tok = r.tok
            ∧ d.regs = group v r.w r.len ∧ Travels t d.msg .response
            ∧ ∀ c j, (mget VReg.zero (t.core c).v j).full = (mget VReg.zero (s.core c).v j).full))

/-- 14 R244: a write-combining buffer drains to its cluster's slice, which has room, on a drain or at its age; what the core's outbound path holds is the same
before and after. An update of an entry's A, D and ONCE that has arrived at its home changes its eight bytes and no other, ONCE only when it is the one
that sets A (10 R190); one that no port could bring is reported (19 R319); while the home holds it, it stays (notes/assumptions/56). A buffer that has not
reached its age is left as it is (notes/assumptions/11). -/
def Sys2Proof.Claim.OutboundDrain : Prop :=
  ∀ (s : State),
    (∀ (core k : Nat) (w : Wcb), (s.core core).wcb[k]? = some w → PathOk s core → SliceRoom s core →
      ∃ t, exec (.wcbDrain core k) s = .next t ∧ (∀ x ∈ (t.core core).wcb, x.gran ≠ w.gran) ∧ t.mem = s.mem ∧ t.strands = s.strands
        ∧ (∀ x, pendingByte t core x = pendingByte s core x)
        ∧ (w.opened + 4096 ≤ s.clk → exec (.wcbAgeTimeout core k) s = .next t)
        ∧ (s.clk < w.opened + 4096 → exec (.wcbAgeTimeout core k) s = .next s))
    ∧ (∀ (k : Nat) (x : AdUpdate), s.adq[k]? = some x → s.arrived x.msg = true → eventHeld s x.leafPa = false →
      (s.lost.contains x.msg = true → (s.strand x.strand).reports.length < 4 → ∃ t, exec (.adBitUpdate k) s = .next t ∧ t.adq = s.adq.erase x
        ∧ t.mem = s.mem ∧ (t.strand x.strand).reports = (s.strand x.strand).reports ++ [⟨6, BitVec.ofNat 64 x.leafPa⟩])
      ∧ (s.lost.contains x.msg = false → unreachable s (moduleOf x.strand) x.leafPa = false → PlainHome s → s.mem.wf = true →
        x.leafPa % 8 = 0 → x.leafPa < 2 ^ 52 → s.poison.contains (x.leafPa / 64) = false →
        let e := BitVec.ofNat 64 (s.mem.readN x.leafPa 8)
        let set := if e.getLsbD 12 then x.set &&& ~~~0x800#64 else x.set
        ∃ t, exec (.adBitUpdate k) s = .next t ∧ t.adq = s.adq.erase x ∧ t.strands = s.strands ∧ t.cores = s.cores ∧ t.tags = s.tags
          ∧ t.mem.readN x.leafPa 8 = ((e ||| set) &&& ~~~x.clr).toNat
          ∧ ∀ a, a < x.leafPa ∨ x.leafPa + 8 ≤ a → t.mem.byte a = s.mem.byte a))
    ∧ (∀ k : Nat, s.adq ≠ [] → (∀ x ∈ s.adq, eventHeld s x.leafPa = true) → exec (.adBitUpdate k) s = .next (s.post (.adBitUpdate k)))

/-- 14 R244, R260, 19 R309: a granule leaves an outbound slice: every ECC granule of it travels to its home in a request and waits there to be merged; a merge
that is due writes its bytes and no other, and with an uncorrectable read part it writes nothing, poisons the ECC granule and reports UE_DATA; one
that no port could bring is reported (19 R319). Merges that an atomic's turn or a seal holds stay (notes/assumptions/56). -/
def Sys2Proof.Claim.HomeMerge : Prop :=
  ∀ (s : State),
    (∀ (cluster k : Nat) (o : Outbound), (s.outbound.filter (fun o => o.cluster = cluster))[k]? = some o →
      ∃ t, exec (.outboundSliceWriteback cluster k) s = .next t ∧ (∀ x ∈ t.outbound, ¬ (x.cluster = cluster ∧ x.gran = o.gran))
        ∧ t.mem = s.mem ∧ t.strands = s.strands ∧ t.cores = s.cores
        ∧ ∀ c ∈ o.cells, ∃ m ∈ t.merges, c ∈ m.cells ∧ m.dir = false ∧ m.cluster = cluster ∧ Travels t m.msg .request)
    ∧ (∀ (k : Nat) (bad : Bool), s.merges ≠ [] → (∀ m ∈ s.merges, m.cells ≠ [] ∧ ∀ c ∈ m.cells, eventHeld s c.1 = true) →
      exec (.homeWriteMerge k bad) s = .next (s.post (.homeWriteMerge k bad)))
    ∧ (∀ (k : Nat) (bad : Bool) (m : Merge) (w : Writer), s.merges[k]? = some m → mergeDue s m = true → m.msg ≠ 0 → s.lost.contains m.msg = true →
      m.writers = [w] → (s.strand w.strand).reports.length < 4 → ∃ t, exec (.homeWriteMerge k bad) s = .next t ∧ t.mem = s.mem
        ∧ (t.strand w.strand).reports = (s.strand w.strand).reports ++ [⟨6, w.va⟩])
    ∧ (∀ (k e : Nat) (m : Merge), s.merges[k]? = some m → mergeDue s m = true → (m.msg = 0 ∨ s.lost.contains m.msg = false) → m.cells ≠ [] → (∀ c ∈ m.cells, c.1 / 64 = e) → (m.cells.map (·.1)).Nodup →
      e < 2 ^ 46 → PlainHome s → dieDown s (e * 64) = false → s.mem.wf = true →
      (s.poison.contains e = false → ∃ t, exec (.homeWriteMerge k false) s = .next t ∧ t.merges = s.merges.erase m
        ∧ (∀ c ∈ m.cells, t.mem.byte c.1 = c.2) ∧ ∀ a, (∀ c ∈ m.cells, c.1 ≠ a) → t.mem.byte a = s.mem.byte a)
      ∧ (m.cells.length < 64 → ∀ w, m.writers = [w] → (s.strand w.strand).reports.length < 4 →
        ∃ t, exec (.homeWriteMerge k true) s = .next t ∧ t.mem = s.mem ∧ t.poison.contains e = true
          ∧ (t.strand w.strand).reports = (s.strand w.strand).reports ++ [⟨5, w.va⟩]))

/-- The outbound path: drains, write-backs, merges at the home, and updates of A, D and ONCE. Which buffer drains when is the schedule's, and what an
event that is not due does the model's: notes/assumptions/6, 7, 11, 29 and 56. -/
def Obligations.OutboundPath : Prop := Claim.OutboundDrain ∧ Claim.HomeMerge

/-! ## Control and system registers (05, 07) -/

/-- 07 R118 to R121: a taken branch enters its target, its own head plus twice the offset; a branch not taken checks no target; a call writes
seqnext of its own head to sD once the transfer has been made; jmpr reads its target before it writes the link. -/
def Obligations.BranchesAndCalls : Prop :=
  ∀ (s u : State) (l : CodeLine),
    let goes := fun (t : Word) => Enters s t s.me.status.prv l u
    let at_ := fun (t : Word) => u.updMe (fun st => { st.enter t l with tested := none })
    (∀ off : BitVec 16, goes (s.me.pc + 2 * off.signExtend 64) → exec (.br off) s = .next (at_ (s.me.pc + 2 * off.signExtend 64))
      ∧ ∀ d, exec (.call d off) s = .next ((at_ (s.me.pc + 2 * off.signExtend 64)).setS d s.me.seqNext))
    ∧ (∀ off : BitVec 32, goes (s.me.pc + 2 * off.signExtend 64) → exec (.brLong off) s = .next (at_ (s.me.pc + 2 * off.signExtend 64))
      ∧ ∀ d, exec (.callLong d off) s = .next ((at_ (s.me.pc + 2 * off.signExtend 64)).setS d s.me.seqNext))
    ∧ (∀ o : UnOps, Readable s [o.b] → goes (sv s o.b) → exec (.jmpr o) s = .next ((at_ (sv s o.b)).setS o.d s.me.seqNext))
    ∧ (∀ o : SrcOps, Readable s [o.b] → goes (sv s o.b) → exec (.ret o) s = .next (at_ (sv s o.b)))
    ∧ (∀ o : BccOps, Readable s [o.b, o.c] →
      let a := sv s o.b
      let b := sv s o.c
      let eq := if o.w then (a.setWidth 32 : BitVec 32) == b.setWidth 32 else a == b
      ∀ x ∈ [(Instr.beq o, eq), (.bne o, !eq), (.blt o, sltAt o.w a b), (.bge o, !sltAt o.w a b), (.bltu o, ultAt o.w a b), (.bgeu o, !ultAt o.w a b)],
        (x.2 = true → goes (s.me.pc + 2 * o.off.word) → exec x.1 s = .next (at_ (s.me.pc + 2 * o.off.word)))
        ∧ (x.2 = false → Straight s → exec x.1 s = .next (onward s)))

/-- 07 R123: the back-edge. At the last head of the innermost body, after NOP: a count that stays above 0 goes down by one, the index up by
one, and the body's first head is next; a count of 1 ends the loop, and the enclosing loop or seqnext follows. That a count of 0, which MTS can write,
goes on as above 0 is the model's choice (notes/assumptions/54). -/
def Sys2Proof.Claim.LoopBackEdge : Prop :=
  ∀ (s u : State) (l : CodeLine), 0 < s.me.loopd →
    let n := s.me.loopd - 1
    let e := s.me.loop n
    e.fin = s.me.pc →
    (e.cnt ≠ 1 → Enters s e.beg s.me.status.prv l u →
      ∃ t, exec .nop s = .next t ∧ t.me.pc = e.beg ∧ t.me.loopd = s.me.loopd ∧ t.me.line = some l
        ∧ t.me.loop n = { e with cnt := e.cnt - 1, idx := e.idx + 1 } ∧ (∀ j, j ≠ n → t.me.loop j = s.me.loop j)
        ∧ t.me.sregs = s.me.sregs ∧ (e.ck = false → t.me.landed = s.me.landed)
        ∧ (e.ck = true → s.me.status.preq = true → s.me.status.prv = false → s.me.cont.isSome = true → s.me.bindings = [] → t.me.landed = some e.cki))
    ∧ (e.cnt = 1 → (n = 0 ∨ (s.me.loop (n - 1)).fin ≠ s.me.pc) →
      ∃ t, exec .nop s = .next t ∧ t.me.pc = s.me.seqNext ∧ t.me.loopd = n ∧ t.me.loop n = { e with cnt := 0 } ∧ t.me.sregs = s.me.sregs)

/-- 07 R122, R125: LOOP pushes its entry and goes on, or with a count of 0 goes past the body's end; at depth 6 it is ILLEGAL_OPCODE. LIDX
reads an index; LBRK goes past the end of the entry's body and discards it and those inside it; that an end outside the line is checked as a target
first is the model's choice (notes/assumptions/54). -/
def Sys2Proof.Claim.LoopInstructions : Prop :=
  ∀ (s u : State) (l : CodeLine) (off : BitVec 16) (ckv : Bool) (cki : BitVec 9),
    let fin := s.me.pc + 2 * off.setWidth 64
    (s.me.loopd < 6 → Enters s fin s.me.status.prv l u →
      let pushed := fun (c : Word) => u.updMe (fun st => { st with
        loops := mset st.loopd ⟨0, c, st.seqNext, fin, ckv, cki⟩ st.loops, loopd := st.loopd + 1, pc := st.seqNext, run := .active, tested := none })
      (∀ (b : Reg) (f : Bool), Readable s [b] → sv s b ≠ 0 → exec (.loop ⟨b, f, ckv, cki, off⟩) s = .next (pushed (sv s b)))
      ∧ (∀ (c : BitVec 16), c ≠ 0 → exec (.loopImm ⟨ckv, cki, off, c⟩) s = .next (pushed (c.setWidth 64)))
      ∧ (∀ (v : State) (m : CodeLine), Enters u (seqNextIn (lineN l.data) fin) u.me.status.prv m v →
        exec (.loopImm ⟨ckv, cki, off, 0⟩) s = .next (v.updMe (fun st => { st.enter (seqNextIn (lineN l.data) fin) m with tested := none }))))
    ∧ (6 ≤ s.me.loopd → ∀ (o : LoopOps) (p : LoopImmOps), exec (.loop o) s = .next (takeTrap s { code := 0x01, tval := s.me.words })
      ∧ exec (.loopImm p) s = .next (takeTrap s { code := 0x01, tval := s.me.words }))
    ∧ (∀ (d : Reg) (lv : BitVec 3), lv.toNat < s.me.loopd → Straight s → exec (.lidx d lv) s = .next (onward (s.setS d (s.me.loop lv.toNat).idx)))
    ∧ (∀ (lv : BitVec 3) (c : CodeLine), lv.toNat < s.me.loopd →
      let e := (s.me.loop lv.toNat).fin
      s.me.line = some c → c.addr = lineOf e → Enters s (seqNextIn (lineN c.data) e) s.me.status.prv l u →
      exec (.lbrk lv) s = .next ((u.updMe (fun st => { st.enter (seqNextIn (lineN c.data) e) l with tested := none })).updMe (fun st => { st with loopd := lv.toNat })))
    ∧ (∀ (lv : BitVec 3) (v : State) (m : CodeLine), lv.toNat < s.me.loopd →
      let e := (s.me.loop lv.toNat).fin
      (∀ c, s.me.line = some c → c.addr ≠ lineOf e) → Enters s e s.me.status.prv l u → Enters u (seqNextIn (lineN l.data) e) u.me.status.prv m v →
      exec (.lbrk lv) s = .next ((v.updMe (fun st => { st.enter (seqNextIn (lineN l.data) e) m with tested := none })).updMe (fun st => { st with loopd := lv.toNat })))

/-- 07 R126: STRIP. With n the elements left and g = VL granted, n - g or 0 is written back and POS of each register that QM names advances by
g; while elements are left the body is next with VL the smaller of what is left and vlmax and VSTART 0, else flow goes on. -/
def Sys2Proof.Claim.Strip : Prop :=
  ∀ (s u : State) (l : CodeLine) (o : StripOps) (i : Instr), (i = .strip o ∨ ∃ c, i = .stripCk o c) → Readable s [o.n] →
    let g := s.me.vec.vl
    let n := sv s o.n
    let t0 := s.me.pc + 2 * o.off.signExtend 64
    (n.toNat ≤ g.toNat → Straight s →
      ∃ t, exec i s = .next t ∧ t.me.pc = s.me.seqNext ∧ (o.n ≠ 0 → (t.me.sreg o.n.toNat).val = 0) ∧ t.me.replay = none ∧ t.me.vec = s.me.vec
        ∧ ∀ q, q < 8 → t.me.qpos q = if o.qm.getLsbD q then s.me.qpos q + g else s.me.qpos q)
    ∧ (g.toNat < n.toNat → s.capture = false → Enters s t0 s.me.status.prv l u →
      ∃ t, exec i s = .next t ∧ t.me.pc = t0 ∧ (o.n ≠ 0 → (t.me.sreg o.n.toNat).val = n - g)
        ∧ t.me.vec = { s.me.vec with vl := BitVec.ofNat 64 (Nat.min (n - g).toNat s.me.vlmax), vstart := 0 }
        ∧ ∀ q, q < 8 → t.me.qpos q = if o.qm.getLsbD q then s.me.qpos q + g else s.me.qpos q)

/-- Hardware loops: the back-edge, LOOP, LIDX, LBRK and STRIP. A count of 0 and an end outside the line are the model's choices
(notes/assumptions/54). -/
def Obligations.Loops : Prop := Claim.LoopBackEdge ∧ Claim.LoopInstructions ∧ Claim.Strip

/-- 07 R128: a conditional trap whose condition holds, at width 64, takes ARITH with QUAL 2 and TVAL its code; one that does not hold goes on;
ecall, brk and words that are no instruction take ECALL, BREAK and ILLEGAL_OPCODE (02 R36). -/
def Sys2Proof.Claim.TrapInstructions : Prop :=
  ∀ (s : State),
    (∀ o : TrapOps, Readable s [o.b, o.c] →
      let a := sv s o.b
      let b := sv s o.c
      ∀ x ∈ [(Instr.trapEq o, a == b), (.trapNe o, a != b), (.trapLt o, a.slt b), (.trapGe o, !a.slt b), (.trapLtu o, a.ult b), (.trapGeu o, !a.ult b)],
        (x.2 = true → exec x.1 s = .next (takeTrap s { code := 0x0F, qual := 2, tval := o.code.setWidth 64 }))
        ∧ (x.2 = false → Straight s → exec x.1 s = .next (onward s)))
    ∧ (∀ c : BitVec 16, exec (.ecall c) s = .next (takeTrap s { code := 0x15, tval := c.setWidth 64 })
      ∧ exec (.brk c) s = .next (takeTrap s { code := 0x14, tval := c.setWidth 64 }))
    ∧ (∀ h t : Half, exec (.illegalOpcode h t) s = .next (takeTrap s { code := 0x01, tval := (h.setWidth 64) ||| (t.setWidth 64 <<< 16) }))

/-- 07 R129: ERET restores PRV and IE, clears NEST and enters EPC, ERET.N the head after it, once EPC has passed the checks of 02 R32 but the first, with
TVAL EPC when it fails one; all under PPRV; at U both are PRIVILEGE.
UIRET clears UIACT and enters UIEPC, and is ILLEGAL_OPCODE when UIACT = 0 (05 R92). -/
def Sys2Proof.Claim.Returns : Prop :=
  ∀ (s u : State) (l : CodeLine),
    let st := s.me.status
    let back : Status := { st with prv := st.pprv, ie := st.pie, nest := false }
    (st.prv = true → Enters s s.me.trap.epc st.pprv l u →
      ∃ t, exec .eret s = .next t ∧ t.me.status = back ∧ t.me.pc = s.me.trap.epc ∧ t.me.line = some l ∧ t.me.sregs = s.me.sregs ∧ t.me.trap = s.me.trap)
    ∧ (∀ (v : State) (m : CodeLine), st.prv = true → checkHeads s s.cur s.me.trap.epc st.pprv = (.ok l, u) →
      Enters u (seqNextIn (lineN l.data) s.me.trap.epc) st.pprv m v →
      ∃ t, exec .eretN s = .next t ∧ t.me.status = back ∧ t.me.pc = seqNextIn (lineN l.data) s.me.trap.epc ∧ t.me.line = some m ∧ t.me.sregs = s.me.sregs)
    ∧ (∀ e, st.prv = true → checkHeads s s.cur s.me.trap.epc st.pprv = (.error e, u) →
      exec .eretN s = .next (takeTrap u { e with tval := s.me.trap.epc }))
    ∧ (st.prv = false → exec .eret s = .next (takeTrap s { code := 0x04 }) ∧ exec .eretN s = .next (takeTrap s { code := 0x04 }))
    ∧ (st.uiact = true → Enters s s.me.ui.epc st.prv l u →
      ∃ t, exec .uiret s = .next t ∧ t.me.status = { st with uiact := false } ∧ t.me.pc = s.me.ui.epc ∧ t.me.sregs = s.me.sregs)
    ∧ (st.uiact = false → exec .uiret s = .next (takeTrap s { code := 0x01, tval := s.me.words }))

/-- Conditional traps, ECALL, BRK and illegal words; ERET, ERET.N and UIRET. -/
def Obligations.TrapsAndReturns : Prop := Claim.TrapInstructions ∧ Claim.Returns

/-- 05 R84: at U the numbers 0x100 and up, and at S the numbers 0x200 and up, take PRIVILEGE; LOOPD is written at S only. -/
def Sys2Proof.Claim.RegisterPrivilege : Prop :=
  ∀ (s : State) (n : BitVec 12) (d : Reg) (o : SrcOps),
    (s.me.status.prv = false → 0x100 ≤ n.toNat → exec (.mfs d n) s = .next (takeTrap s { code := 0x04 })
      ∧ exec (.mts n o) s = .next (takeTrap s { code := 0x04 }))
    ∧ (0x200 ≤ n.toNat → exec (.mfs d n) s = .next (takeTrap s { code := 0x04 }) ∧ exec (.mts n o) s = .next (takeTrap s { code := 0x04 }))
    ∧ (s.me.status.prv = false → exec (.mts 0x024 o) s = .next (takeTrap s { code := 0x04 }))

/-- 05 R85, R86, 07 R130, R131: MFS reads and MTS writes every register that the privilege admits; a register of the other bank is waited for and its
poison is raised as an operand's; the registers with a behaviour of their own
follow it: LSEED loads the generator, VPART empties channels, DBELL rings a doorbell. -/
def Sys2Proof.Claim.SystemRegisters : Prop :=
  ∀ (s : State), Straight s → s.mycore.window = [] →
    let may := fun (n : BitVec 12) => n.toNat < (if s.me.status.prv then 0x200 else 0x100)
    (∀ (d : Reg) (n : BitVec 12), may n → ((n = 0x018 ∨ n = 0x019 ∨ n = 0x01A) → s.mycore.mx.queue = []) → (n = 0x009 → vecOut s s.cur = false) →
      let other := s.me.cell (s.me.uibk (n.toNat - 0x02C))
      (((0x02C ≤ n.toNat ∧ n.toNat ≤ 0x02F) → other.full = true ∧ other.mark = .clean) →
        exec (.mfs d n) s = .next (onward (s.setS d (sysRead s s.me s.mycore n.toNat))))
      ∧ (∀ ea, 0x02C ≤ n.toNat → n.toNat ≤ 0x02F → other.full = true → other.mark = .poison ea →
        exec (.mfs d n) s = .next (takeTrap s { code := 0x10, qual := 1, tval := ea }))
      ∧ (∀ tv, 0x02C ≤ n.toNat → n.toNat ≤ 0x02F → other.full = true → other.mark = .peel tv →
        exec (.mfs d n) s = .next (takeTrap s { code := 0x11, tval := tv }))
      ∧ (0x02C ≤ n.toNat → n.toNat ≤ 0x02F → other.full = false → exec (.mfs d n) s = .next s.waits))
    ∧ (∀ (n : BitVec 12) (o : SrcOps), may n → (n = 0x024 → s.me.status.prv = true) → Readable s [o.b] →
      Straight (s.updMe (fun st => sysWrite st n.toNat (sv s o.b))) →
      exec (.mts n o) s = .next (onwardWith s (fun st => sysWrite st n.toNat (sv s o.b))))
    ∧ (∀ o : SrcOps, Readable s [o.b] →
      exec (.lseedWrite o) s = .next (onwardWith s (fun st => { st with vec := { st.vec with
          lseed := sv s o.b &&& 0xFFFFFFFF, lfsr := if sv s o.b &&& 0xFFFFFFFF = 0 then 1 else sv s o.b &&& 0xFFFFFFFF } }))
      ∧ (s.vbusy (coreOf s.cur) = false → ∃ t, exec (.vpartWrite o) s = .next t ∧ t.me.pc = s.me.seqNext ∧ t.mycore.vpart = vpartStore (sv s o.b)
          ∧ ∀ j, j < 32 → (isChannel (vpartStore (sv s o.b)) j = true → (mget VReg.zero t.mycore.v j).full = false)
              ∧ (isChannel (vpartStore (sv s o.b)) j = false → mget VReg.zero t.mycore.v j = mget VReg.zero s.mycore.v j))
      ∧ (s.me.status.prv = true → exec (.dbellWrite o) s = .next (onward (if (sv s o.b).toNat < 384
          then s.post (.doorbellArrival (moduleOf s.cur * 384 + (sv s o.b).toNat)) else s))))

/-- 05 R86: a write of TVEC, HSAVE, CKTAB, EPC, TVAL, UIVEC or UIEPC reads back as it was written; STATUS keeps PRV, PREQ and its pending
bits; a write to PTROOT keeps the frame field alone. -/
def Sys2Proof.Claim.RegisterReadBack : Prop :=
  ∀ (s : State) (v : Word) (n : Nat), n < 0x200 → sysAssigned (BitVec.ofNat 12 n) = true →
    let st := sysWrite s.me n v
    (n ∈ [0x104, 0x105, 0x030, 0x102, 0x103, 0x020, 0x022, 0x109] → sysRead s st s.mycore n = v)
    ∧ (n = 0x108 ∨ n = 0x121 → sysRead s st s.mycore n = v &&& 0xFFFFFFFFF0000)
    ∧ (n = 0x100 → st.status.prv = s.me.status.prv ∧ st.status.preq = s.me.status.preq ∧ st.status.intdb = s.me.status.intdb
        ∧ st.status.ie = v.getLsbD 2 ∧ st.status.nest = v.getLsbD 4)
    ∧ (n = 0x024 → st.loopd ≤ 6)
    ∧ (n ≠ 0x100 → st.status = s.me.status) ∧ ((n < 0x02C ∨ 0x02F < n) → st.sregs = s.me.sregs)

/-- 07 R132 to R134: TLBI discards the translations it names, of every strand of the issuer's group at its level and of no other; IDLE goes on
when an interrupt, PREQ or an enabled user interrupt is pending, and its wait ends so; HALT stops the strand and tells the controller. At U all of them are
PRIVILEGE. -/
def Sys2Proof.Claim.TlbiIdleHalt : Prop :=
  (∀ s : State, s.me.status.prv = false → (∀ lvl : BitVec 3, exec (.tlbiAll lvl) s = .next (takeTrap s { code := 0x04 }))
    ∧ (∀ (o : SrcOps) (lvl : BitVec 3), exec (.tlbiVa o lvl) s = .next (takeTrap s { code := 0x04 }))
    ∧ exec .idle s = .next (takeTrap s { code := 0x04 }) ∧ exec .halt s = .next (takeTrap s { code := 0x04 }))
  ∧ ∀ (s : State), Straight s → s.me.status.prv = true →
    (∀ lvl : BitVec 3, ∃ t, exec (.tlbiAll lvl) s = .next t ∧ t.me.pc = s.me.seqNext ∧ t.mem = s.mem
      ∧ ∀ p ∈ s.strands.map (·.1), (unitOf lvl.toNat p = unitOf lvl.toNat s.cur → (t.strand p).tlb = [])
        ∧ (unitOf lvl.toNat p ≠ unitOf lvl.toNat s.cur → t.strand p = s.strand p))
    ∧ (∀ (o : SrcOps) (lvl : BitVec 3), Readable s [o.b] → ∃ t, exec (.tlbiVa o lvl) s = .next t ∧ t.me.pc = s.me.seqNext ∧ t.mem = s.mem
      ∧ ∀ p ∈ s.strands.map (·.1), (unitOf lvl.toNat p = unitOf lvl.toNat s.cur →
          (t.strand p).tlb = (s.strand p).tlb.filter (fun x => !x.covers (sv s o.b)))
        ∧ (unitOf lvl.toNat p ≠ unitOf lvl.toNat s.cur → t.strand p = s.strand p))
    ∧ ((s.me.status.intdb = true ∨ s.me.reports ≠ [] ∨ s.me.status.preq = true ∨ (s.me.ui.uie = true ∧ s.me.ui.pend ≠ 0)) →
      exec .idle s = .next (onward s) ∧ (s.me.atIdle = true → exec (.idleWake s.cur) s = .next (onward s)))
    ∧ (s.me.wakes = false → exec .idle s = .next s.waits)
    ∧ (s.me.prods = [] → s.me.atomics = 0 → s.remote = [] → s.xfers = [] → (s.hamper (moduleOf s.cur)).nextw = [] → drainQueued s s.cur = false →
      ∃ t, exec .halt s = .next t ∧ t.me = { s.me with run := .halted } ∧ (∀ p, p ≠ s.cur → t.strand p = s.strand p) ∧ t.cores = s.cores ∧ t.mem = s.mem
        ∧ (t.modl (moduleOf s.cur)).mgmt.halts = (s.modl (moduleOf s.cur)).mgmt.halts ++ [s.cur % 384])

/-- System registers and their privilege; MFS, MTS and the registers with an effect; TLBI, IDLE and HALT. -/
def Obligations.SystemRegisters : Prop := Claim.RegisterPrivilege ∧ Claim.SystemRegisters ∧ Claim.RegisterReadBack ∧ Claim.TlbiIdleHalt

/-! ## Atomics and set tables (15, 20) -/

/-- 15 R262, R267: an atomic that passes its checks, fewer than eight being outstanding, sends its request to the home and marks sD empty; it
writes no byte. The packet that carries the request has a name of its own (19 R309). -/
def Sys2Proof.Claim.AtomicIssue : Prop :=
  ∀ (s u : State) (o : AmoOps) (a : Acc), Straight s → NoneLate s → Readable s [o.b, o.c] → s.me.atomics < 8 →
    let n := if o.szd then 8 else 4
    let ea := sv s o.b + dispWord o.disp
    let k := physReg s.me.status.uiact o.d.toNat
    let page := if a.tlb.big then 2 ^ 29 else 65536
    busyAtomic s s.cur ea = false → checkAccess s s.cur ea { kind := .atomic, tag := false } = (.ok a, u) →
    ∀ x ∈ [(Instr.amoSwap o, 0), (.amoAdd o, 1), (.amoAnd o, 2), (.amoOr o, 3), (.amoXor o, 4), (.amoMin o, 5), (.amoMax o, 6), (.amoMinu o, 7),
        (.amoMaxu o, 8), (.cas o, 9), (.append o, 10)],
      ea.toNat % (if x.2 = 10 then 8 else n) = 0 → (x.2 = 9 → Readable s [o.d]) →
      ∃ t, exec x.1 s = .next t ∧ t.me.pc = s.me.seqNext ∧ t.me.atomics = s.me.atomics + 1 ∧ (o.d ≠ 0 → (t.me.sreg o.d.toNat).full = false)
        ∧ t.homeq = s.homeq ++ [⟨s.cur, u.tokens + 1, if o.d = 0 then none else some k, none, x.2, n, ea, a.pa, a.pa / page * page + page - 1,
            a.share, a.dir, o.acq, sv s o.c, sv s o.d, u.tokens + 2⟩]
        ∧ (∀ j, o.d = 0 ∨ j ≠ k → t.me.cell j = s.me.cell j) ∧ t.me.status = s.me.status ∧ Travels t (u.tokens + 2) .request
        ∧ (NoDirect s → t.cores = s.cores ∧ (NoneHeld s → t.tags = s.tags ∧ (NoGroups s → t.mem = s.mem)))

/-- 20 R342: skins, skdel and sklook pass the header's checks, send their request to the table's home, and mark their destinations empty. -/
def Sys2Proof.Claim.SetTableIssue : Prop :=
  ∀ (s u : State) (a : Acc) (ea key val : Word) (op : Nat) (d d2 : Reg) (i : Instr),
    ((∃ o : SkinsOps, i = .skins o ∧ op = 11 ∧ d = o.d ∧ d2 = 0 ∧ ea = sv s o.b ∧ key = sv s o.c ∧ val = sv s o.v ∧ Readable s [o.b, o.c, o.v])
      ∨ (∃ o : BinOps, i = .skdel o ∧ op = 12 ∧ d = o.d ∧ d2 = 0 ∧ ea = sv s o.b ∧ key = sv s o.c ∧ val = 0 ∧ Readable s [o.b, o.c])
      ∨ ∃ o : SklookOps, i = .sklook o ∧ op = 13 ∧ d = o.d ∧ d2 = o.e ∧ ea = sv s o.b ∧ key = sv s o.c ∧ val = 0 ∧ Readable s [o.b, o.c]) →
    Straight s → skHeader s ea (op != 13) = .ok (a, u) → u.me.atomics < 8 →
    let cell := fun (r : Reg) => if r = 0 then none else some (physReg s.me.status.uiact r.toNat)
    ∃ t, exec i s = .next t ∧ t.me.pc = s.me.seqNext ∧ t.me.atomics = u.me.atomics + 1
      ∧ t.homeq = u.homeq ++ [⟨s.cur, u.tokens + 1, cell d, cell d2, op, 8, ea, a.pa, a.pa, a.share, false, false, key, val, u.tokens + 2⟩]
      ∧ (∀ r ∈ [d, d2], r ≠ 0 → (t.me.sreg r.toNat).full = false) ∧ t.mem = u.mem ∧ t.tags = u.tags ∧ t.cores = u.cores
      ∧ ∀ j, some j ≠ cell d → some j ≠ cell d2 → t.me.cell j = s.me.cell j

/-- Atomics and set-table operations at issue: the request sent, sD empty, nothing written. -/
def Obligations.HomeRequests : Prop := Claim.AtomicIssue ∧ Claim.SetTableIssue

/-- 15 R268 to R270, R267, 04 R67: an atomic's event at its home, where earlier writes to its granule have arrived first: the operand's bytes are
replaced, no other byte is, and the old value, sign-extended, sets off for the destination in a packet of its own (19 R309); CAS writes only on a
match; APPEND gives the old count, which goes up by one, or all ones when the page is full; with an uncorrectable read nothing is written, the ECC
granule is poisoned and poison sets off. On a page of SHARE SELF, CORE or CLUSTER the home is the core's L1 or the cluster's slice: the new bytes
stand on the outbound path (04 R67, notes/assumptions/12); a launch queue page has its home at the controllers (notes/assumptions/24). That an access
by an atomic activates the row is 23 R381's. -/
def Obligations.AtomicAtHome : Prop :=
  ∀ (s : State) (k : Nat) (r : HomeReq) (bad : Bool), s.homeq[k]? = some r → atomicDue s r = true → heldAt s r.pa = false →
    s.lost.contains r.msg = false → unreachable s (moduleOf r.strand) r.pa = false →
    PlainHome s → s.mem.wf = true → (r.sz = 4 ∨ r.sz = 8) → r.pa % r.sz = 0 → r.pa < 2 ^ 52 →
    let g := granOf r.pa
    let s1 := activate (leaveQueue s r) (paModule r.pa) r.pa
    let s0 := if bad then poisonAt s1 r.pa else s1
    let d := drainGroup (if r.dir then dropCopies s0 g (ownCopy (coreOf r.strand)) else s0) g 5 r.strand
    let far := r.dir = true ∨ 3 ≤ r.share ∨ onQueuePage s r.pa = true
    let near := fun (t : State) (v : Nat) => ∃ o ∈ t.outbound, o.cluster = clusterOf r.strand ∧ o.gran = g ∧ o.cells = cellsOf r.pa (if r.op = 10 then 8 else r.sz) v
    let n := 8 * r.sz
    let old := d.mem.readN r.pa r.sz
    let fills := fun (t : State) (v : Word) (m : Mark) => ∀ j, r.dest = some j → ∃ q, (t.strand r.strand).prods = (s.strand r.strand).prods ++ [q]
      ∧ q.tok = r.tok ∧ q.sdest = some j ∧ q.sval = v ∧ q.smark = m ∧ q.home = none ∧ Travels t q.msg .response
    let stays := fun (t : State) (lo len : Nat) => ∀ x, x < lo ∨ lo + len ≤ x → t.mem.byte x = d.mem.byte x
    ∃ t, exec (.atomicHomeEvent k bad) s = .next t ∧ t.homeq = s.homeq.erase r ∧ (t.strand r.strand).atomics = (s.strand r.strand).atomics - 1
      ∧ (r.op ≤ 10 → r.dest = none → (t.strand r.strand).prods = (s.strand r.strand).prods)
      ∧ (bad = true → r.op ≤ 10 → t.mem = d.mem ∧ fills t 0 (.poison r.ea))
      ∧ (bad = false → d.poison.contains (r.pa / 64) = false →
        (r.op ≤ 9 → fills t (wrapAt n (old : Int)) .clean)
        ∧ (r.op ≤ 8 →
          let v := amoFun r.op n old (r.arg.toNat % 2 ^ n)
          (far → t.mem.readN r.pa r.sz = v % 2 ^ n ∧ stays t r.pa r.sz) ∧ (¬ far → near t v ∧ (NoneHeld s → t.mem = d.mem)))
        ∧ (r.op = 9 →
          let hit := old = r.exp.toNat % 2 ^ n
          (far → t.mem.readN r.pa r.sz = (if hit then r.arg.toNat % 2 ^ n else old) ∧ stays t r.pa r.sz)
          ∧ (¬ far → (hit → near t (r.arg.toNat % 2 ^ n)) ∧ (NoneHeld s ∨ ¬ hit → t.mem = d.mem)))
        ∧ (r.op ≤ 9 → r.dir = false → (d.tag g).corrupt = false → (t.tag g).t = r.share)
        ∧ (r.op = 10 → r.pa % 8 = 0 →
          let c := d.mem.readN r.pa 8
          (c / 2 ^ 32 ≤ c % 2 ^ 32 → t.mem = d.mem ∧ fills t (BitVec.allOnes 64) .clean)
          ∧ (c % 2 ^ 32 < c / 2 ^ 32 → r.pa + 8 + c % 2 ^ 32 * r.sz ≤ r.lastPa → fills t (BitVec.ofNat 64 (c % 2 ^ 32)) .clean
            ∧ (far → t.mem.readN r.pa 8 = c + 1) ∧ (¬ far → near t (c + 1)))))

/-- 20 R342, 15 R267: at the home a table request, whose event sets the header granule's T, is performed in table order and its result sets off for the
destination; sklook gives the value and the result; with an uncorrectable read, the header's among them, both are poisoned. A table that is no live
class gives NOCLASS or BUSY, a reserved key BADKEY. -/
def Sys2Proof.Claim.SetTableAtHome : Prop :=
  ∀ (s : State) (k : Nat) (r : HomeReq) (bad : Bool), s.homeq[k]? = some r → 11 ≤ r.op → atomicDue s r = true → heldAt s r.pa = false →
    s.lost.contains r.msg = false → unreachable s (moduleOf r.strand) r.pa = false →
    let s0 := serveDegraded (leaveQueue s r) r.pa
    let s1 := activate s0 (paModule (physOf s0 r.pa)) (physOf s0 r.pa)
    let s2 := if bad && (degradedAt s1 r.pa).isNone then poisonAt s1 (physOf s1 r.pa) else s1
    let drained := atomicEvent s2 (granOf r.pa) r.share 0 r.strand false r.ea
    let x := tableRequest drained (moduleOf r.strand) r.pa ⟨r.strand, 0, r.ea⟩ r.op r.arg r.exp
    ((bad = true ∨ x.bad = true) →
      exec (.atomicHomeEvent k bad) s = .next (fillReq (fillReq drained r r.dest 0 (.poison r.ea)) r r.dest2 0 (.poison r.ea)))
    ∧ (bad = false → x.bad = false → exec (.atomicHomeEvent k bad) s = .next
      (if r.op = 13 then fillReq (fillReq x.s r r.dest (x.value.getD 0) .clean) r r.dest2 x.res .clean else fillReq x.s r r.dest x.res .clean))
    ∧ (∀ e, (tableRead drained r.pa).2 = false → classAt drained (moduleOf r.strand) r.pa = .error e → x.s = drained ∧ x.res = BitVec.ofNat 64 (2 ^ 63 + e) ∧ x.bad = false)
    ∧ (∀ c, (tableRead drained r.pa).2 = false → classAt drained (moduleOf r.strand) r.pa = .ok c → (r.arg = emptyKey ∨ r.arg = tombKey) →
      x.s = drained ∧ x.res = 0x8000000000000006 ∧ x.bad = false)
    ∧ (r.op = 13 → x.s = drained)

/-- 20 R338, R342: taking an entry out of a sketch undoes putting it in; skins of an entry that the table holds, and every sklook, change
nothing; a table with no free slot in the probe or seven eighths full gives TFULL. -/
def Sys2Proof.Claim.SketchAndTable : Prop :=
  (∀ (e : List Word) (f : Nat) (k v : Word) (m : Map Cell) (c : Nat),
    cellAt (sketchAdd e f false k v (sketchAdd e f true k v m)) c = cellAt m c)
  ∧ ∀ (s : State) (m : Nat) (c : SkClass) (who : Actor) (k v : Word),
    let f := findKey s c k
    let held := fun (i : Nat) => tableRead s (c.pa (64 + 16 * i + 8))
    let hd := tableRead s (c.pa 8)
    f.bad = false → hd.2 = false →
    (∀ i, f.slot = some i → (held i).2 = false →
      (tableOp s m c who 13 k v).s = s ∧ (tableOp s m c who 13 k v).value = some (BitVec.ofNat 64 (held i).1)
      ∧ (BitVec.ofNat 64 (held i).1 = v → (tableOp s m c who 11 k v).s = s))
    ∧ (f.slot = none → (tableOp s m c who 13 k v).s = s ∧ (tableOp s m c who 12 k v).s = s
      ∧ ((f.free = none ∨ 7 * 2 ^ c.log2n / 8 ≤ hd.1 % 2 ^ 32) →
        (tableOp s m c who 11 k v).s = s ∧ (tableOp s m c who 11 k v).res = 0x8000000000000007))

/-- Set-table operations at the table's home, and what they leave of the table and the sketch. -/
def Obligations.SetTableAtHome : Prop := Claim.SetTableAtHome ∧ Claim.SketchAndTable

/-! ## Turnaround, versions and fences (04, 14, 15) -/

/-- 04 R65, 14 R245: a TURN event. The group's writes having reached the level's merge point, the group's copies of the granule go, but for the one
that the merge point of SELF, CORE or CLUSTER holds until the home has its bytes; T rises to the level when G lies within the group; no other
granule's tag and no byte changes. The strand's own write is noted as turned at the instruction, and counts so once that completes (03 R50). At SELF
and CORE the merge point is the core's L1, whose structure is not overfull: nothing has to reach the home. -/
def Sys2Proof.Claim.TurnEvent : Prop :=
  ∀ (s : State) (g l y : Nat) (va : Word),
    let d := turnDrain (catchUpFor s g) g l y
    let u := turnEvent s g l y va
    (d.tag g).corrupt = false →
      u.tag g = (if (d.tag g).within g l y then { d.tag g with t := maxT (d.tag g).t l } else d.tag g)
      ∧ (∀ h, h ≠ g → u.tag h = d.tag h)
      ∧ ((s.vers.map (·.1)).Pairwise (· < ·) → ∀ c ∈ u.inbound, c.gran = copyKey s g → turnedCopy l y c = true → c.held = true ∧ l ≤ 2)
      ∧ (l ≤ 1 → s.vers = [] → NoGroups s → NoneHeld s → SliceRoom s (coreOf y) →
        (s.inbound.filter (fun x => x.cluster = false ∧ x.unit = coreOf y)).length ≤ Config.l1Granules → u.mem = s.mem
        ∧ ((∃ x, granOf x = g ∧ pendingByte s (coreOf y) x ≠ none) →
          ∃ c ∈ u.inbound, c.cluster = false ∧ c.unit = coreOf y ∧ c.gran = g ∧ c.held = true))
      ∧ (u.strand y).unturned = (d.strand y).unturned ∧ (g ∈ (d.strand y).unturned → ((d.strand y).pc, g) ∈ (u.strand y).turned)
      ∧ g ∉ (u.strand y).endTurn.unturned ∧ u.mem = d.mem ∧ u.cores = d.cores

/-- 14 R250, R251, R258: one granule of TURN, TURN.PUB away from a versioned page's end, CACHE.WB, CACHE.INV, CACHE.WBINV and, at S,
CACHE.TINIT: its event, then sA and sL stand at the rest of the region, or, when none is left, at its end and 0 with flow going on, and what the
instruction has turned counts as turned. An empty region does nothing; writes that engines still have to make for the level's group are waited for
(04 R65). The request of a TURN travels to the granule's home first, and the instruction waits for it (19 R309); one that no port could bring is
reported (R319). An atomic's turn or a seal at the home holds the event (notes/assumptions/56). -/
def Sys2Proof.Claim.RegionGranule : Prop :=
  ∀ (s u : State) (o : TurnOps) (acc : Acc), Straight s → Readable s [o.a, o.l] → o.a ≠ 0 → o.l ≠ 0 → o.a ≠ o.l →
    let va := sv s o.a
    let stop := va.toNat + (sv s o.l).toNat
    let a1 := va.toNat / 256 * 256 + 256
    let g := granOf acc.pa
    let leaves := fun (x : State) => (let e := gapEvent x g; .next (if stop ≤ a1 then onward (((e.setS o.a (BitVec.ofNat 64 stop)).setS o.l 0).updMe Strand.endTurn)
      else ((e.setS o.a (BitVec.ofNat 64 a1)).setS o.l (BitVec.ofNat 64 (stop - a1))).updMe (fun st => { st with run := .active }))
        : Host.Outcome State Fault Refusal)
    (sv s o.l ≠ 0 → checkAccess s s.cur va turnAsk = (.ok acc, u) → eventHeld u acc.pa = false →
      (groupOut u o.lvl.toNat s.cur g = false →
        (∀ i, (i = .turn o ∨ (i = .turnPub o ∧ checkAccess u s.cur va turnAsk = (.ok acc, u) ∧ (acc.vers = false ∨ va.toNat % 65536 / 256 ≠ 255))) →
          (∀ x, turnAsked (noteVers u acc) acc = .ok (false, x) → unreachable x (moduleOf s.cur) acc.pa = false →
            exec i s = leaves (turnEvent x g o.lvl.toNat s.cur va))
          ∧ (∀ lost x, turnAsked (noteVers u acc) acc = .ok (lost, x) → (lost || unreachable x (moduleOf s.cur) acc.pa) = true →
            exec i s = leaves (x.report s.cur 6 va))
          ∧ (∀ x, turnAsked (noteVers u acc) acc = .error (.wait x) → exec i s = .next x.waits))
        ∧ exec (.cacheWb o) s = leaves (drainGroup u g o.lvl.toNat s.cur)
        ∧ exec (.cacheWbinv o) s = leaves (cacheInv (drainGroup u g o.lvl.toNat s.cur) g o.lvl.toNat s.cur))
      ∧ (groupOut u 0 s.cur g = false →
        exec (.cacheInv o) s = leaves (cacheInv u g o.lvl.toNat s.cur)
        ∧ (s.me.status.prv = true → exec (.cacheTinit ⟨o.a, o.l, o.fl⟩) s = leaves (tinitAt u acc))))
    ∧ (sv s o.l ≠ 0 → checkAccess s s.cur va turnAsk = (.ok acc, u) → (groupOut u o.lvl.toNat s.cur g || eventHeld u acc.pa) = true →
      exec (.turn o) s = .next u.waits ∧ exec (.cacheWb o) s = .next u.waits)
    ∧ (sv s o.l = 0 → ∀ i ∈ [Instr.turn o, .turnPub o, .cacheWb o, .cacheInv o, .cacheWbinv o, .snapOpen ⟨o.a, o.l, o.fl⟩, .snapClose ⟨o.a, o.l, o.fl⟩],
        exec i s = .next (onward s))

/-- 19 R309, R319: the request of a TURN: the strand sends it once, waits while it travels, and learns whether it reached the home. -/
def Sys2Proof.Claim.TurnRequest : Prop :=
  ∀ (s : State) (acc : Acc),
    (∀ m, s.me.asked = some m →
      (s.arrived m = true → turnAsked s acc = .ok (s.lost.contains m, (s.delivered m).updMe (fun st => { st with asked := none })))
      ∧ (s.arrived m = false → turnAsked s acc = .error (.wait s)))
    ∧ (s.me.asked = none →
      let r := toHome s s.cur acc.pa
      let u := r.2.updMe (fun st => { st with asked := some r.1 })
      Travels u r.1 .request
      ∧ (u.arrived r.1 = false → turnAsked s acc = .error (.wait u))
      ∧ (u.arrived r.1 = true → turnAsked s acc = .ok (u.lost.contains r.1, (u.delivered r.1).updMe (fun st => { st with asked := none }))))

/-- TURN, TURN.PUB and CACHE, granule by granule. TURN at SELF and CORE, and what holds an event at a home: notes/assumptions/12 and 56. -/
def Obligations.TurnAndCache : Prop := Claim.TurnEvent ∧ Claim.RegionGranule ∧ Claim.TurnRequest

/-- 14 R254, 15 R273: TURN.PUB at the last granule of a versioned page without open snapshots or catch-up left swaps its frames: the front is
the other frame, what was written is to be caught up, no copy of either frame stays. With snapshots open or a catch-up left it leaves the publish
pending, and a strand that cannot yield waits; behind what came before it, an open or a publish, it waits in its place (15 R274). Writes that reach the
home after the swap are to the new back (15 R272). -/
def Sys2Proof.Claim.Publish : Prop :=
  ∀ (s u : State) (o : TurnOps) (acc : Acc), Straight s → Readable s [o.a, o.l] → o.a ≠ 0 → o.l ≠ 0 → o.a ≠ o.l → sv s o.l ≠ 0 →
    let va := sv s o.a
    let f := pteFrame acc.leaf
    checkAccess s s.cur va turnAsk = (.ok acc, u) → groupOut u o.lvl.toNat s.cur (granOf acc.pa) = false → eventHeld u acc.pa = false → acc.vers = true →
    va.toNat % 65536 / 256 = 255 → ∀ x0, turnAt u acc o.lvl.toNat va = .ok x0 →
    let x := gapEvent x0 (granOf acc.pa)
    let v := x.versOf f
    let q := pteFrame acc.tlb.partner
    let stays := fun (t : State) => (t.versOf f).front = v.front ∧ t.me.run = .waiting ∧ t.me.pc = s.me.pc
    let first := v.before (waiterKey s s.cur) true = []
    (v.snaps = 0 → v.cu = 0 → first →
      ∃ t, exec (.turnPub o) s = .next t ∧ (t.versOf f).front = !v.front ∧ (t.versOf f).pend = false ∧ (t.versOf f).cu = v.wr
        ∧ ((reresolve x (if v.front then f else q) (if v.front then q else f)).2 = [] → (t.versOf f).wr = 0)
        ∧ ∀ c ∈ t.inbound, c.gran / 256 ≠ f ∧ c.gran / 256 ≠ q)
    ∧ (v.snaps = 0 → v.cu ≠ 0 → first → ∃ t, exec (.turnPub o) s = .next t ∧ (t.versOf f).pend = true ∧ stays t)
    ∧ (v.snaps ≠ 0 → first → canYield x.me = false → ∃ t, exec (.turnPub o) s = .next t ∧ (t.versOf f).pend = true ∧ stays t)
    ∧ (¬ first → canYield x.me = false → ∃ t, exec (.turnPub o) s = .next t ∧ (waiterKey s s.cur, true) ∈ (t.versOf f).waiting ∧ stays t)

/-- 14 R255, 15 R274: SNAP.OPEN counts a snapshot of a versioned page on which no publish is pending or waits before it, SNAP.CLOSE takes one away, and either
goes on behind the page; on another page they only go on. -/
def Sys2Proof.Claim.Snapshots : Prop :=
  ∀ (s u : State) (o : RegionOps) (acc : Acc), Straight s → Readable s [o.a, o.l] → o.a ≠ 0 → o.l ≠ 0 → o.a ≠ o.l → sv s o.l ≠ 0 →
    let va := sv s o.a
    let f := pteFrame acc.leaf
    let size := if acc.tlb.big then 2 ^ 29 else 65536
    let stop := va.toNat + (sv s o.l).toNat
    let a1 := va.toNat / size * size + size
    s.me.yielded = none → checkAccess s s.cur va turnAsk = (.ok acc, u) →
    let moves := fun (t : State) => if stop ≤ a1 then sv t o.l = 0 ∧ sv t o.a = BitVec.ofNat 64 stop ∧ t.me.pc = s.me.seqNext
      else sv t o.l = BitVec.ofNat 64 (stop - a1) ∧ sv t o.a = BitVec.ofNat 64 a1 ∧ t.me.pc = s.me.pc
    (acc.vers = true → (u.versOf f).pend = false → (u.versOf f).snaps < 65535 → ((u.versOf f).before (waiterKey s s.cur) false).any (·.2) = false →
      ∃ t, exec (.snapOpen o) s = .next t ∧ (t.versOf f).snaps = (u.versOf f).snaps + 1 ∧ (t.versOf f).front = (u.versOf f).front ∧ moves t)
    ∧ (acc.vers = true → ∃ t, exec (.snapClose o) s = .next t ∧ (t.versOf f).snaps = (u.versOf f).snaps - 1 ∧ moves t)
    ∧ (acc.vers = false → ∀ i ∈ [Instr.snapOpen o, .snapClose o], ∃ t, exec i s = .next t ∧ t.vers = u.vers ∧ moves t)

/-- 15 R273: the home copies the lowest granule still to be caught up from the front to the back and nothing else, with its tag unless a write since the swap
has taken that already; a granule that an atomic's turn or a seal holds is copied later (notes/assumptions/56). A pending publish whose page is open is
performed for the strand that waits at its TURN.PUB, which goes on. -/
def Sys2Proof.Claim.CatchUpAndSwap : Prop :=
  ∀ (s : State) (f : Nat),
    (∀ i, i < 256 → (s.versOf f).cu.getLsbD i = true → (∀ j, j < i → (s.versOf f).cu.getLsbD j = false) → s.mem.wf = true → f ≠ (s.versOf f).back →
      NoGroups s → s.redirect = [] → (∀ m, (s.modl m).rinse.reenc = []) →
      let fr := if (s.versOf f).front then (s.versOf f).back else f
      let bk := if (s.versOf f).front then f else (s.versOf f).back
      (eventHeld s ((bk * 256 + i) * 256) = true → exec (.catchupCopy f) s = .next (s.post (.catchupCopy f)))
      ∧ (eventHeld s ((bk * 256 + i) * 256) = false → dieDown s (fr * 65536) = false → ∃ t, exec (.catchupCopy f) s = .next t ∧ (t.versOf f).cu = (s.versOf f).cu &&& ~~~(1#256 <<< i) ∧ (t.versOf f).front = (s.versOf f).front
        ∧ t.tag (bk * 256 + i) = (if (s.versOf f).wr.getLsbD i then s.tag (bk * 256 + i) else s.tag (fr * 256 + i))
        ∧ (∀ g, g ≠ bk * 256 + i → t.tag g = s.tag g)
        ∧ (∀ j, j < 256 → t.mem.byte (bk * 65536 + i * 256 + j) = s.mem.byte (fr * 65536 + i * 256 + j))
        ∧ ∀ x, x < bk * 65536 + i * 256 ∨ bk * 65536 + i * 256 + 256 ≤ x → t.mem.byte x = s.mem.byte x))
    ∧ (∀ (p : Nat) (a l : Reg), (s.versOf f).pend = true → (s.versOf f).snaps = 0 → (s.versOf f).cu = 0 →
      s.strands.findSome? (fun e => (atPublish s e.1 f).map (fun r => (e.1, r))) = some (p, a, l) → Straight ({ s with cur := p } : State) →
      ∃ t, exec (.publishSwap f) s = .next t ∧ t.cur = s.cur ∧ (t.versOf f).front = !(s.versOf f).front ∧ (t.versOf f).pend = false
        ∧ (t.versOf f).cu = (s.versOf f).wr)

/-- Versioned pages: publish, snapshots, catch-up and the swap for a waiting strand. -/
def Obligations.VersionedPages : Prop := Claim.Publish ∧ Claim.Snapshots ∧ Claim.CatchUpAndSwap

/-- 04 R69, R74, R75, 14 R261: FENCE.O performs the strand's atomics, with what stands before them at their homes, and drains its stores; what still
travels, or is held at its home, is waited for, and an atomic to a granule without one of the strand's own stays where it is. FENCE.IO drains once
nothing of the strand is outstanding; FENCE.SURV goes on when every store to a protected page is folded, waits while one is not, and raises SURV_LOST
with the address of one that cannot be. -/
def Sys2Proof.Claim.Fences : Prop :=
  ∀ (s : State), Straight s →
    let own := fun (t : State) => t.homeq.any (fun r => r.strand == s.cur)
    let f := drainOwn (flushAtomics s s.cur) s.cur
    let ordered := fun (d : State) => onwardWith d (fun st => { st with ordered := (queuedStores d s.cur).length })
    let busy := fun (t : State) => own t || !(ownGranules t s.cur).isEmpty
    (busy f = false → exec .fenceO s = .next (ordered f)) ∧ (busy f = true → exec .fenceO s = .next f.waits)
    ∧ (own s = false → f = drainOwn s s.cur ∧ (ownGranules s s.cur = [] → exec .fenceO s = .next (ordered s)))
    ∧ (∀ r ∈ s.homeq, (∀ q ∈ s.homeq, q.strand = s.cur → granOf q.pa ≠ granOf r.pa) → r ∈ f.homeq)
    ∧ (outstanding s s.cur = false →
      let d := drainOwn s s.cur
      exec .fenceIo s = .next (if ownGranules d s.cur = [] then onward d else d.waits))
    ∧ (outstanding s s.cur = true → exec .fenceIo s = .next s.waits)
    ∧ (queuedStores s s.cur = [] → mine s s.cur = [] →
      let d := drainProt f s.cur
      let still := (busy d || d.me.prot.any (fun x => stored d (granOf x.pa))) = true
      (still → exec .fenceSurv s = .next d.waits)
      ∧ (¬ still → d.me.prot.find? (storeLost d) = none →
        (d.me.prot.any (deltaOut d) = false → exec .fenceSurv s = .next (onwardWith d (fun st => { st with prot := [] })))
        ∧ (d.me.prot.any (deltaOut d) = true → exec .fenceSurv s = .next d.waits))
      ∧ (∀ x, ¬ still → d.me.prot.find? (storeLost d) = some x → exec .fenceSurv s = .next (takeTrap d { code := 0x12, tval := x.va })))

/-- 17 R297: WAITS delivers the scratchpad word once it differs from the low bytes of sV, and waits while it does not. -/
def Sys2Proof.Claim.Waits : Prop :=
  ∀ (s : State) (o : WaitsOps) (core : Nat), Straight s → Readable s [o.p, o.v] →
    let n := if o.szd then 8 else 4
    let va := sv s o.p
    let w := (s.core core).scratch.readN (spOff va) n
    spCheck s s.cur va n = .ok core → remoteBusy s core = false → (core = coreOf s.cur → handed s s.cur (handWords (spOff va) n) = false) →
    (scratchRead s core (spOff va) n).2 = false →
    (w ≠ (sv s o.v).toNat % 2 ^ (8 * n) → exec (.waits o) s = .next (onward (s.setS o.d (BitVec.ofNat 64 w))))
    ∧ (w = (sv s o.v).toNat % 2 ^ (8 * n) → exec (.waits o) s = .next s.waits)

/-- 17 R295: BAR.ARRIVE adds the strand to its barrier and goes on, or waits while its arrival in the unfinished phase stands; BAR.WAIT goes on once the
phase of its arrival has completed and waits until then, and with no arrival outstanding goes on at once; BAR does both, its arrival made once
while it waits (notes/assumptions/37); a level of 0 does nothing; a phase completes when every member has arrived or executed DONE. -/
def Sys2Proof.Claim.Barriers : Prop :=
  ∀ (s : State) (lvl : BitVec 3) (c : Cont), s.me.cont = some c → lvl.toNat ≤ c.glvl → Straight s →
    let l := lvl.toNat
    let m := moduleOf s.cur
    let b := barOf s c l
    (lvl = 0 → ∀ i ∈ [Instr.bar lvl, .barArrive lvl, .barWait lvl], exec i s = .next (onward s))
    ∧ (∀ d, lvl ≠ 0 → fenceAll s = .ok d → c.vsi ∉ b.arrived →
      (∃ t, exec (.barArrive lvl) s = .next t ∧ t.me.pc = s.me.seqNext ∧ { b with arrived := b.arrived ++ [c.vsi] } ∈ (t.hamper m).bars
        ∧ t.me.cont = some { c with arrived := mset l (b.phase + 1) c.arrived })
      ∧ (c.barIn = none → s.me.saveDue = none → ∃ t, exec (.bar lvl) s = .next t ∧ t.me.pc = s.me.pc ∧ t.me.run = .waiting
        ∧ { b with arrived := b.arrived ++ [c.vsi] } ∈ (t.hamper m).bars))
    ∧ (lvl ≠ 0 → 0 < mget 0 c.arrived l → mget 0 c.arrived l ≤ b.phase →
      exec (.barWait lvl) s = .next (onwardWith s (fun st => { st with cont := st.cont.map (fun x => { x with arrived := mdel l x.arrived, barIn := none }) }))
      ∧ (c.barIn = some s.me.pc →
        exec (.bar lvl) s = .next (onwardWith s (fun st => { st with cont := st.cont.map (fun x => { x with arrived := mdel l x.arrived, barIn := none }) }))))
    ∧ (lvl ≠ 0 → b.phase < mget 0 c.arrived l → ∃ t, exec (.barWait lvl) s = .next t ∧ t.me.pc = s.me.pc ∧ t.me.run = .waiting)
    ∧ (lvl ≠ 0 → mget 0 c.arrived l = 0 → exec (.barWait lvl) s = .next (onward s))
    ∧ (lvl ≠ 0 → c.vsi ∈ b.arrived → c.barIn ≠ some s.me.pc → ∀ i ∈ [Instr.bar lvl, .barArrive lvl], ∃ t, exec i s = .next t ∧ t.me.pc = s.me.pc
      ∧ t.me.run = .waiting ∧ t.mods = s.mods ∧ t.me.cont = some c)
    ∧ (∀ (g : Grid) (mm id lv unit : Nat), gridOf s mm id = some g → ∃ t, exec (.barPhaseComplete mm id lv unit) s = .next t
      ∧ (∀ x ∈ (s.hamper mm).bars, x.grid = id → x.lvl = lv → x.unit = unit → x.arrived ≠ [] → (∀ v ∈ x.members, v ∈ x.arrived ∨ v ∈ g.finished) →
          { x with arrived := [], phase := x.phase + 1 } ∈ (t.hamper mm).bars)
      ∧ (∀ x ∈ (s.hamper mm).bars, x.grid ≠ id ∨ x.lvl ≠ lv ∨ x.unit ≠ unit → x ∈ (t.hamper mm).bars) ∧ t.strands = s.strands)

/-- FENCE.O, FENCE.IO and FENCE.SURV; WAITS; barriers and their phases. FENCE.O performs the own atomics at once, and a BAR keeps its arrival:
notes/assumptions/13 and 37. -/
def Obligations.FencesAndWaits : Prop := Claim.Fences ∧ Claim.Waits ∧ Claim.Barriers

/-! ## Scheduler (05, 17) -/

/-- 17 R298: SPAWN queues a continuation record of the next VSI in the strand's cluster and delivers its VSI, or, with the quota used up,
SPAWN_QUOTA. 17 R301: LAUNCH delivers the new grid's number or the refusal word; LAUNCH.w yields until there is room. -/
def Sys2Proof.Claim.SpawnAndLaunch : Prop :=
  ∀ (s d : State), Straight s → fenceAll s = .ok d →
    let m := moduleOf s.cur
    (∀ (o : SpawnOps) (c : Cont) (g : Grid), s.me.cont = some c → Readable s [o.code, o.frame, o.join] → gridOf s m c.grid = some g →
      (g.spq ≤ g.spawned → exec (.spawn o) s = .next (onward (d.setS o.d 0x8000000000000005)))
      ∧ (g.spawned < g.spq → ∃ t, exec (.spawn o) s = .next t ∧ t.me.pc = s.me.seqNext ∧ t.me.sval 0 = 0
        ∧ (o.d ≠ 0 → sv t o.d = BitVec.ofNat 64 (g.nstr + g.spawned))
        ∧ ∃ r ∈ (t.hamper m).recs, r.grid = g.id ∧ r.vsi = g.nstr + g.spawned ∧ r.code = sv s o.code ∧ r.frame = sv s o.frame ∧ r.join = sv s o.join
            ∧ r.res = false ∧ r.pri = o.pri.toNat ∧ r.place = .cluster (clusterOf s.cur)))
    ∧ (∀ (o : LaunchOps) (a : Acc) (u x : State) (v : Nat), (o.w = true → s.me.cont.isSome = true) → Readable s [o.b] → (sv s o.b).toNat % 64 = 0 →
      busyGran d s.cur (sv s o.b) false = false → checkAccess d s.cur (sv s o.b) { kind := .read } = (.ok a, u) →
      readAcc u a (sv s o.b) 64 = ((v, false), x) →
      (∀ id y, launchRec x m v x.me.ptroot = .ok (id, y) → exec (.launch o) s = .next (onward (y.setS o.d (BitVec.ofNat 64 id))))
      ∧ (∀ e, launchRec x m v x.me.ptroot = .error e → o.w = false ∨ 3 ≤ e → exec (.launch o) s = .next (onward (x.setS o.d (refusalWord e))))
      ∧ (∀ e, launchRec x m v x.me.ptroot = .error e → o.w = true → e < 3 → canYield x.me = true →
        ∃ t, exec (.launch o) s = .next t ∧ t.me.pc = s.me.pc ∧ t.me.yielded = some ⟨ckOf o.ckv o.cki, .store, false⟩))

/-- 17 R283, R284: a write of LQREG registers a launch queue page in a free slot or withdraws a slot, or leaves the refusal code; the Hamper
consumes the next record of a queue: the new grid is live and HEAD goes up by one; a table that does not let it read the page and write HEAD refuses it,
which firmware hears of (24 R386, R387, notes/assumptions/24). -/
def Sys2Proof.Claim.LaunchQueues : Prop :=
  ∀ (s : State),
    (∀ (o : SrcOps), s.me.status.prv = true → Straight s → Readable s [o.b] →
      let v := sv s o.b
      let m := moduleOf s.cur
      let slot := v.toNat / 4 % 64
      ∀ i ∈ [Instr.lqregRegister o, .lqregWithdraw o], ∃ t, exec i s = .next t ∧ t.me.pc = s.me.seqNext
        ∧ t.me.lqcode = BitVec.ofNat 8 (lqRefusal s v)
        ∧ (lqRefusal s v ≠ 0 → (t.hamper m).regs = (s.hamper m).regs)
        ∧ (lqRefusal s v = 0 → v.getLsbD 0 = true → (mget ⟨0, 1⟩ (t.hamper m).regs slot).root = s.me.lqroot
            ∧ some (mget ⟨0, 1⟩ (t.hamper m).regs slot).frame = queuePage s v)
        ∧ (lqRefusal s v = 0 → v.getLsbD 0 = false → ∀ r ∈ (t.hamper m).regs, r.1 ≠ slot))
    ∧ (∀ (m slot id : Nat) (reg : Registration) (u : State), (s.hamper m).regs.find? (fun r => r.1 = slot) = some (slot, reg) →
      let base := reg.frame * 65536
      let may := tableAllows s m base .read && tableAllows s m base .atomic
      let s1 := activate s m base
      let tail := (homeRead s1 base 8).1
      let head := (homeRead s1 (base + 8) 8).1
      let r := homeRead s1 (base + 64 * (1 + head % 1023)) 64
      (may = false → exec (.launchQueueRecord m slot) s = .next (s.toFirmware m 1024 (BitVec.ofNat 64 base)))
      ∧ (may = true → head < tail → r.2 = false → launchRec s1 m r.1 reg.root = .ok (id, u) → ∃ t, exec (.launchQueueRecord m slot) s = .next t ∧ (∃ g ∈ (t.hamper m).grids, g.id = id)
        ∧ (PlainHome s → s.mem.wf = true → s.poison = [] → reg.frame < 2 ^ 36 → t.mem.readN (base + 8) 8 = head + 1)))

/-- SPAWN, LAUNCH and the launch queues. -/
def Obligations.LaunchAndSpawn : Prop := Claim.SpawnAndLaunch ∧ Claim.LaunchQueues

/-- 17 R292, R299, R300: WAITJ goes on at a counter of 0, and at another parks the strand and counts it; DONE, after every earlier access of
the strand, performs the events of its counters, the named one first, and leaves the strand idle and without a continuation; its bindings end with it
(notes/assumptions/37). While JOIN's event has still to wait, neither takes place. -/
def Sys2Proof.Claim.JoinAndDone : Prop :=
  ∀ (s : State) (c : Cont), s.me.cont = some c →
    (∀ (o : WaitjOps) (a : Acc) (cnt parked : Nat) (u : State), Straight s → Readable s [o.b] → s.homeq.any (fun r => r.strand == s.cur) = false →
      counterRead s (sv s o.b) = .ok (a, cnt, parked, u) → writesOut u s.cur (granOf a.pa) = false →
      (cnt = 0 → exec (.waitj o) s = .next (onward (counterEvent u a (sv s o.b) none)))
      ∧ (cnt ≠ 0 → canYield u.me = true → parked < 65535 → ∃ t, exec (.waitj o) s = .next t ∧ t.me.pc = s.me.pc ∧ t.me.run = .waiting
        ∧ t.me.yielded = some ⟨ckOf o.ckv o.cki, .parked a.pa, false⟩))
    ∧ (∀ d, fenceAll s = .ok d →
      let idle := fun (t : State) => t.me.run = .idle ∧ t.me.cont = none ∧ t.me.bindings = [] ∧ t.me.status.preq = false
      (∀ u, (c.join = 0 ∧ u = d) ∨ (c.join ≠ 0 ∧ doneEvent d c.join = .ok u) →
        ∃ t, exec .done s = .next t ∧ t = endStrand u c ∧ idle t)
      ∧ (∀ (o : SrcOps) (w : State), Readable s [o.b] → c.join ≠ 0 → counterRead d c.join = .error (.wait w) →
        exec .done s = .next w.waits ∧ exec (.doneCtr o) s = .next w.waits)
      ∧ (∀ (o : SrcOps) (v u : State), Readable s [o.b] → (c.join ≠ 0 → counterWait d c.join = .ok ()) → doneEvent d (sv s o.b) = .ok v →
        (c.join = 0 ∧ u = v) ∨ (c.join ≠ 0 ∧ doneEvent v c.join = .ok u) → ∃ t, exec (.doneCtr o) s = .next t ∧ t = endStrand u c ∧ idle t))

/-- 17 R294, R302 to R304, 18 R306: NEXTW sends a request, whose time of travel is free; the distributor answers the first to arrive, in one clk that
of the lowest strand, with the grid's next tile index, which it advances, the end token
past the last, or another when the grid is not live; the reply stores the word in the scratchpad and fills the status register. GETID
delivers its selector's value; YIELD goes on when nothing of its priority could use the strand. -/
def Sys2Proof.Claim.NextwGetidYield : Prop :=
  ∀ (s : State),
    (∀ (o : BinOps) (core : Nat), Straight s → Readable s [o.b, o.c] → spCheck s s.cur (sv s o.c) 4 = .ok core →
      ∃ t, exec (.nextw o) s = .next t ∧ t.me.pc = s.me.seqNext ∧ (o.d ≠ 0 → (t.me.sreg o.d.toNat).full = false) ∧ t.mem = s.mem
        ∧ (t.hamper (moduleOf s.cur)).nextw = (s.hamper (moduleOf s.cur)).nextw ++ [⟨s.cur, none, sv s o.b, core, spOff (sv s o.c), o.d.toNat,
            if o.d = 0 then none else some (physReg s.me.status.uiact o.d.toNat), s.tokens + 1,
            (((allNextw s).filter (fun x => x.2.strand == s.cur && x.2.saved.isNone)).map (fun x => x.2.arrive)).foldl Nat.max (s.clk + Config.freeNat s.fresh), none⟩])
    ∧ (∀ (k m : Nat) (n : NextW), (arrivedNextw s)[k]? = some (m, n) → n ∈ (s.hamper m).nextw →
      (∀ x ∈ arrivedNextw s, x.1 = m → x.2.grid = n.grid → x.2.before n = false) →
      ∃ t, exec (.nextwRequest k) s = .next t ∧
        (∀ g, gridOf s m n.grid.toNat = some g → n.grid.toNat < 2 ^ 24 →
          ∃ x ∈ (t.hamper m).nextw, x.tok = n.tok ∧ x.reply = some (if g.nextTile < g.tx * g.ty then BitVec.ofNat 64 g.nextTile else 0xFFFFFFFF)
            ∧ (g.nextTile < g.tx * g.ty → (gridOf t m g.id).map (·.nextTile) = some (g.nextTile + 1)))
        ∧ (gridOf s m n.grid.toNat = none → ∃ x ∈ (t.hamper m).nextw, x.tok = n.tok ∧ x.reply = some 0xFFFFFFFD))
    ∧ (∀ (k m : Nat) (n : NextW), ((allNextw s).filter (fun x => x.2.reply.isSome))[k]? = some (m, n) →
      ∃ t, exec (.nextwReply k) s = .next t ∧ (∀ x ∈ (t.hamper m).nextw, x.tok ≠ n.tok)
        ∧ (n.saved = none → t = (match n.dest with
          | some d => (scratchWrite (s.updHamper m (fun h => { h with nextw := h.nextw.filter (fun x => x.tok ≠ n.tok) })) n.core n.off 4 (n.reply.getD 0).toNat).updStrand
              n.strand (fun st => st.fill d n.tok (n.reply.getD 0) .clean)
          | none => scratchWrite (s.updHamper m (fun h => { h with nextw := h.nextw.filter (fun x => x.tok ≠ n.tok) })) n.core n.off 4 (n.reply.getD 0).toNat)))
    ∧ (∀ (c : Cont), s.me.cont = some c → Straight s →
      (∀ (d : Reg) (sel : BitVec 4), exec (.getid d sel) s = .next (onward (s.setS d (BitVec.ofNat 64 (getidValue s c sel.toNat)))))
      ∧ (∀ (ckv : Bool) (cki : BitVec 9), (canYield s.me && eligible s c) = false → exec (.yield ckv cki) s = .next (onward s))
      ∧ (∀ (ckv : Bool) (cki : BitVec 9), (canYield s.me && eligible s c) = true →
        exec (.yield ckv cki) s = .next (yieldNow s (ckOf ckv cki) .device true)))

/-- WAITJ and DONE; NEXTW, GETID and YIELD. That DONE ends the bindings, and the clk at which a NEXTW arrives: notes/assumptions/37 and 56. -/
def Obligations.JoinDoneAndTiles : Prop := Claim.JoinAndDone ∧ Claim.NextwGetidYield

/-- 17 R287, R288: the group or strand that is next is placed on strands that are one of its layouts, each of which is to start it; a record
that has waited PWAIT in a cluster queue moves to the device queue; a pre-emption request reaches each strand it names that runs a
continuation. -/
def Sys2Proof.Claim.Placement : Prop :=
  ∀ (s : State) (m k : Nat) (r : Rec), (s.hamper m).recs[k]? = some r →
    (∀ (c : Cand) (lay strands : List Nat), inPlaceOk s m r = false → choose s m = some (c, lay) → c.k = k → (∀ x ∈ startsWith s m k r, x.2.bad = false) →
      layoutOk s m c (availFor s m (candidates s m) c) strands = true →
      ∃ t, exec (.groupPlacement m k strands) s = .next t
        ∧ (r.cont = none → ∀ p ∈ strands, ∃ x, (t.strand p).start = some x ∧ x.grid = r.grid ∧ x.code = r.code)
        ∧ (r.cont.isSome = true → ∀ x ∈ c.ranks, (t.strand (strands.getD x.1 0)).start.isSome = true))
    ∧ (inPlaceOk s m r = true → ∃ t, exec (.groupPlacement m k [r.last]) s = .next t
      ∧ (r.bad = false → (t.strand r.last).start = some r) ∧ (r.bad = true → (t.modl m).firmware = (s.modl m).firmware ++ [(1024, 0)]))
    ∧ (r.clus.isSome = true → r.clk + (s.hamper m).pwait ≤ s.clk →
      ∃ t, exec (.pwaitExpiry m k) s = .next t ∧ ((t.hamper m).recs[k]?).map (·.place) = some .device ∧ t.strands = s.strands)
    ∧ (∀ (c : Cand) (strands : List Nat), candOf s m k r = some c → c.clk + (s.hamper m).pwait ≤ s.clk →
      layoutFor s m c (availFor s m (candidates s m) c) = none → victims s m c = some strands →
      ∃ t, exec (.preemptionRequest m k strands) s = .next t
        ∧ (∀ p ∈ strands, (s.strand p).cont.isSome = true → (t.strand p).status.preq = true)
        ∧ (∀ p, p ∉ strands → t.strand p = s.strand p))

/-- 17 R286: a fresh dispatch. The strand starts at CODE at U with IE = 1, s3 the frame, s4 the VSI, every other register zero and full,
VSTATE 1, SAVEPTR its save area and PTROOT its grid's; TVEC and HSAVE stay. -/
def Sys2Proof.Claim.FreshDispatch : Prop :=
  ∀ (s : State) (p : Nat) (r : Rec) (g : Grid), (s.strand p).start = some r → gridOf s (moduleOf p) r.grid = some g → r.res = false →
    (s.strand p).run = .idle →
    ∃ t, exec (.freshDispatch p) s = .next t ∧ (∀ q, q ≠ p → t.strand q = s.strand q) ∧ t.cores = s.cores ∧ t.mem = s.mem
      ∧ let st := t.strand p
        st.run = .active ∧ st.pc = r.code ∧ st.sval 3 = r.frame ∧ st.sval 4 = BitVec.ofNat 64 r.vsi
        ∧ (∀ n, n ≠ 3 → n ≠ 4 → n < 32 → st.sval n = 0 ∧ (st.sreg n).full = true)
        ∧ st.status.prv = false ∧ st.status.ie = true ∧ st.status.nest = false ∧ st.loopd = 0 ∧ st.vstate = 1
        ∧ st.ptroot = g.root ∧ st.saveptr = g.savebase + BitVec.ofNat 64 (r.vsi * g.savesz * 1024)
        ∧ st.tvec = (s.strand p).tvec ∧ st.hsave = (s.strand p).hsave ∧ st.cont = r.cont

/-- Placement, PWAIT, pre-emption requests, and what a fresh dispatch gives a strand. Which layout and which victims are taken, where the rules leave
several: notes/assumptions/36. -/
def Obligations.Dispatching : Prop := Claim.Placement ∧ Claim.FreshDispatch

/-- 05 R94: a save whose record is written leaves the strand idle, without a continuation, request or report, and its record in the Hamper,
resumable, at the pc it names; the loads, copies and NEXTW of the strand go with the context. -/
def Sys2Proof.Claim.SaveLeavesStrand : Prop :=
  ∀ (s w : State) (p : Nat) (c : Cont) (live : Live) (cause : Byte) (pl : Place) (evict after : Bool),
    let b := saveBase s p
    let st := b.strand p
    writeRecord b p st.saveptr (recordOf (endBindings b p) p { st with status := { st.status with preq := false } } st.pc cause live) = (.ok (), w) →
    let t := saveStrand s p c live cause pl evict after
    (t.strand p).run = .idle ∧ (t.strand p).cont = none ∧ (t.strand p).status.preq = false ∧ (t.strand p).prods = [] ∧ (t.strand p).reports = []
    ∧ (∃ r ∈ (t.hamper (moduleOf p)).recs, r.grid = c.grid ∧ r.vsi = c.vsi ∧ r.res = true ∧ r.code = (w.strand p).pc ∧ r.pri = c.pri ∧ r.live = live
        ∧ r.cont = some c ∧ r.after = after)
    ∧ (∀ x ∈ t.xfers, x.strand = p → x.saved ≠ none) ∧ (∀ x ∈ (t.hamper (moduleOf p)).nextw, x.strand = p → x.saved ≠ none)

/-- 05 R406: a save that cannot be written is abandoned: the strand keeps its continuation, its bindings and its request, and traps with the failing
write's code, SVF = 1 and EPC where it would have resumed. -/
def Sys2Proof.Claim.SaveAbandoned : Prop :=
  ∀ (s w : State) (p : Nat) (c : Cont) (live : Live) (cause : Byte) (pl : Place) (evict after : Bool) (e : TrapInfo),
    let b := saveBase s p
    let st := b.strand p
    writeRecord b p st.saveptr (recordOf (endBindings b p) p { st with status := { st.status with preq := false } } st.pc cause live) = (.error e, w) →
    st.status.nest = false →
    let t := saveStrand s p c live cause pl evict after
    (t.strand p).cont = st.cont ∧ (t.strand p).bindings = st.bindings ∧ (t.strand p).status.preq = st.status.preq ∧ (t.strand p).trap.epc = st.pc
    ∧ (t.strand p).trap.code = BitVec.ofNat 8 e.code ∧ (t.strand p).trap.tval = e.tval ∧ (t.strand p).trap.svf = e.svf ∧ (t.strand p).status.prv = true ∧ (t.strand p).landed = none
    ∧ (t.strand p).yielded = none

/-- 05 R94, R96, 17 R288, R290: what each save comes to when its conditions hold: the listed save of a landed request, the forced save that
the watchdog makes due, and a yield's; the watchdog itself; and a status that completes for a saved context. -/
def Sys2Proof.Claim.Saves : Prop :=
  ∀ (s : State) (p : Nat),
    (∀ (i : BitVec 9) (c : Cont), (s.strand p).landed = some i → (s.strand p).cont = some c → canYield (s.strand p) = true →
      (s.strand p).status.preq = true → saveReady s p = true →
      exec (.listedSave p) s = .next (saveStrand (readLive s p i).2 p c ((readLive s p i).1.getD (liveFull (readLive s p i).2 p))
        0 .device true false))
    ∧ (∀ (cause : Byte) (c : Cont), (s.strand p).saveDue = some cause → (s.strand p).cont = some c → (s.strand p).status.prv = false →
      let t := pushAll s p
      (saveReady t p = true → exec (.forcedSave p) s = .next (saveStrand t p c (liveFull t p) cause .device true false))
      ∧ (saveReady t p = false → exec (.forcedSave p) s = .next (saveWait t p)))
    ∧ (∀ (y : Yield) (c : Cont), (s.strand p).yielded = some y → (s.strand p).cont = some c → saveReady s p = true →
      (y.ck = none → exec (.yieldSave p) s = .next (saveStrand s p c Live.none 0 y.place false y.after))
      ∧ (∀ i, y.ck = some i → exec (.yieldSave p) s = .next (saveStrand (readLive s p i).2 p c ((readLive s p i).1.getD (liveFull (readLive s p i).2 p))
        0 y.place false y.after)))
    ∧ ((s.strand p).status.preq = true → (s.strand p).landed = none → (s.strand p).saveDue = none → (s.strand p).preqClk + 1048576 ≤ s.clk →
      exec (.checkpointWatchdogExpiry p) s = .next (s.updStrand p (fun st => { st with saveDue := some 0x16 })))
    ∧ (∀ (k : Nat) (x : Xfer), (s.xfers.filter (fun x => x.saved.isSome))[k]? = some x →
      ∃ t, exec (.savedStatusDelivery k) s = .next t ∧ ∀ y ∈ t.xfers, y.tok ≠ x.tok)

/-- 17 R286, 05 R94: a restore whose record can be read brings the context back to the strand it was placed on: its continuation, SAVEPTR its
save area, what it had written and not turned, and the transfers that went with it; one that a YIELD saved goes on behind it (R304). -/
def Sys2Proof.Claim.ContextRestore : Prop :=
  ∀ (s u : State) (p : Nat) (r : Rec) (g : Grid) (cs : List Chunk), (s.strand p).start = some r → gridOf s (moduleOf p) r.grid = some g →
    r.res = true → (s.strand p).run = .idle → (∀ n ∈ (s.hamper (moduleOf p)).nextw, n.saved ≠ some (r.grid, r.vsi)) →
    readRecord (s.setStrand p { s.strand p with ptroot := g.root, tlb := [], status := { (s.strand p).status with prv := false } }) p
      (g.saveArea r.vsi) r.live.units = (.ok cs, u) →
    ∃ t, exec (.contextRestore p) s = .next (if r.after then passYield t p else t) ∧ (t.strand p).cont = r.cont ∧ (t.strand p).saveptr = g.saveArea r.vsi
      ∧ (t.strand p).unturned = r.unturned ∧ (t.strand p).pc = (restoreStrand (s.strand p) cs 0).pc
      ∧ (∀ x ∈ t.xfers, x.saved = some (r.grid, r.vsi) → False) ∧ (∀ c, c ≠ coreOf p → t.core c = u.core c)

/-- Saves, abandoned saves and restores of a context. What the Hamper's copy of a record holds, that a record's STATUS has PREQ 0, and that a context goes
on behind its YIELD: notes/assumptions/28, 53 and 35. -/
def Obligations.SavesAndRestores : Prop := Claim.SaveLeavesStrand ∧ Claim.SaveAbandoned ∧ Claim.Saves ∧ Claim.ContextRestore

/-- 05 R89, R90, R92: a doorbell sets INTDB of a strand that runs a continuation and of no other; reports are held in order, four at most; the
interrupts are taken with INT = 1, UE_DATA with the oldest report's QUAL and address, DOORBELL clearing INTDB; the lowest pending
completion interrupt enters UIVEC with UIEPC the pc, UIACT set and the replay buffer released (07 R127). A save that is due and, for a completion
interrupt, an interrupt to S go first. -/
def Obligations.Interrupts : Prop :=
  ∀ (s : State) (p : Nat),
    let st := s.strand p
    (exec (.doorbellArrival p) s = .next (s.updStrand p (fun st => if st.cont.isSome then { st with status := { st.status with intdb := true } } else st)))
    ∧ (∀ (q : Byte) (a : Word), ∃ t, exec (.ueDataReport p q a) s = .next t
      ∧ (st.reports.length < 4 → (t.strand p).reports = st.reports ++ [⟨q, a⟩]) ∧ (4 ≤ st.reports.length → (t.strand p).reports = st.reports
          ∧ ((s.modl (moduleOf p)).log.length < 4096 → ((t.modl (moduleOf p)).log.getLast?).map (·.type) = some 0x0D)))
    ∧ (st.takesInt s.clk = true → (s.core (coreOf p)).window = [] → st.status.nest = false →
      (st.status.intdb = true → st.reports = [] → ∃ t, exec (.doorbell p) s = .next t ∧ (t.strand p).trap = ⟨true, false, 0, 0x20, st.pc, 0⟩
        ∧ (t.strand p).status.intdb = false ∧ (t.strand p).status.ie = false ∧ (t.strand p).status.prv = true)
      ∧ (∀ r rest, st.reports = r :: rest → ∃ t, exec (.ueDataInterrupt p) s = .next t ∧ (t.strand p).trap = ⟨true, false, r.qual, 0x10, st.pc, r.addr⟩
        ∧ (t.strand p).reports = rest ∧ (t.strand p).status.intdb = st.status.intdb ∧ (t.strand p).status.ie = false))
    ∧ (∀ (n : Nat) (l : CodeLine) (u : State), st.takesUser s.clk = true → n < 32 → st.ui.pend.getLsbD n = true → (∀ j, j < n → st.ui.pend.getLsbD j = false) →
      checkTarget (s.updStrand p (fun st => { st with replay := none })) p st.ui.vec false = (.ok l, u) →
      ∃ t, exec (.userInterruptEntry p) s = .next t ∧ (t.strand p).pc = st.ui.vec ∧ (t.strand p).ui.epc = st.pc ∧ (t.strand p).replay = none
        ∧ (t.strand p).ui.cur = BitVec.ofNat 5 n ∧ (t.strand p).ui.pend = st.ui.pend &&& ~~~(1#32 <<< n) ∧ (t.strand p).status = { st.status with uiact := true }
        ∧ (t.strand p).sregs = st.sregs)

/-! ## Vector unit (08, 09, 10, 23) -/

/-- 05 R87: with VS = 0 a vector, mask, matrix, stream or collective instruction takes VSTATE_OFF. -/
def Obligations.VectorStateOff : Prop :=
  ∀ (i : Instr) (s : State), usesVector i = true → s.me.vstate = 0 → exec i s = .next (takeTrap s { code := 0x0C })

/-- 09 R169: vsetvl sets VL to the lesser of sB and vlmax, VSTART to 0 and sD to VL; vtag sets the tags of consecutive registers and no other,
none of which may be held bound under another VL (19 R324), and waits while a STRM on the channel of one is outstanding (19 R328); vcfg writes
VCFG. -/
def Sys2Proof.Claim.VectorConfiguration : Prop :=
  ∀ (s : State), Straight s → s.me.vstate ≠ 0 →
    (∀ (o : UnOps), Readable s [o.b] →
      let vl := BitVec.ofNat 64 (Nat.min (sv s o.b).toNat s.me.vlmax)
      exec (.vsetvl o) s = .next (onwardWith s (fun st =>
        { st with vec := { st.vec with vl := vl, vstart := 0 } }.setS o.d.toNat vl)))
    ∧ (∀ (d n : Reg) (t : BitVec 4), (∃ j, d.toNat ≤ j ∧ j ≤ d.toNat + n.toNat ∧ nameOk s j = false) →
      exec (.vtag d n t) s = .next (takeTrap s { code := 1, tval := s.me.words }))
    ∧ (∀ (d n : Reg) (t : BitVec 4), (∀ j, d.toNat ≤ j → j ≤ d.toNat + n.toNat → nameOk s j = true) →
      (∃ j, d.toNat ≤ j ∧ j ≤ d.toNat + n.toNat ∧ fabBusy s (coreOf s.cur) j = true) → exec (.vtag d n t) s = .next s.waits)
    ∧ (∀ (d n : Reg) (t : BitVec 4), d.toNat + n.toNat < 32 →
      (∀ j, d.toNat ≤ j → j ≤ d.toNat + n.toNat → nameOk s j = true ∧ fabBusy s (coreOf s.cur) j = false) → ∃ u,
      exec (.vtag d n t) s = .next (onwardWith s (fun st => { st with replay := none, vec := { st.vec with vtag := u } }))
      ∧ ∀ j : Nat, j < 32 → ({ s.me with vec := { s.me.vec with vtag := u } } : Strand).tag j =
        if d.toNat ≤ j ∧ j ≤ d.toNat + n.toNat then t.toNat else s.me.tag j)
    ∧ (∀ (o : SrcOps), Readable s [o.b] →
      exec (.vcfg o) s = .next (onwardWith s (fun st =>
        { st with replay := none, vec := { st.vec with vcfg := sv s o.b &&& vcfgMask } })))

/-- 10 R183, R191, R195: qcfg writes word W of qD, of word 5 the fields it has, and word 7 not at all; qrd reads it, word 7 as the address at POS or
0 past the end; qrst sets POS to 0. Words 0 to 5 and qrst discard the translations that the walk-ahead of the stream has made. -/
def Sys2Proof.Claim.StreamRegisters : Prop :=
  ∀ (s : State), Straight s →
    (∀ (o : QcfgOps), Readable s [o.b] → ∃ st : Strand,
      exec (.qcfg o) s = .next (onward (s.setStrand s.cur st))
      ∧ { st with qregs := s.me.qregs } = (if o.w.toNat < 6 then s.me.dropWalk o.q.toNat else s.me)
      ∧ ∀ k : Nat, mget 0 st.qregs k = if o.w ≠ 7 ∧ k = 8 * o.q.toNat + o.w.toNat
        then (if o.w = 5 then sv s o.b &&& 0xFFFFFFFFF else sv s o.b) else mget 0 s.me.qregs k)
    ∧ (∀ (d : Reg) (q w : BitVec 3), exec (.qrd d q w) s = .next (onward (s.setS d
      (if w = 7 then (if (s.me.qpos q.toNat).toNat < s.me.qtot q.toNat then s.me.qaddr q.toNat (s.me.qpos q.toNat).toNat else 0)
       else mget 0 s.me.qregs (8 * q.toNat + w.toNat)))))
    ∧ (∀ (q : BitVec 3), exec (.qrst q) s = .next (onwardWith s (fun st => { st.dropWalk q.toNat with qregs := mset (8 * q.toNat + 6) 0 st.qregs })))

/-- vsetvl, vtag and vcfg; the stream registers by qcfg, qrd and qrst. -/
def Obligations.VectorSettings : Prop := Claim.VectorConfiguration ∧ Claim.StreamRegisters

/-- 09 R159, 23 R375: an element-wise run writes every active element from VSTART to VL - 1 in ascending order and sets VSTART to 0; the
lowest active element with poison in its mask, a source group or its scale byte stops it with UE_DATA, VSTART at that element and the elements
below it complete. -/
def Obligations.ElementRun : Prop :=
  ∀ (v : State) (d w : Nat) (km : BitVec 3) (srcs : List (Nat × Nat)) (sc : List ScaleUse) (draws records : Bool) (f : Nat → Option Nat → EOut),
    Straight v → writable v (group d w v.me.nvl) = true →
    (NoPoison v km srcs sc → elementwise v d w km srcs draws records f sc = .ok (vecDone v d w km srcs sc draws records f))
    ∧ ∀ (e : Nat) (tv : Word), e ∈ activeElems v km →
      (∀ x ∈ activeElems v km, x < e → elemPoisoned v km srcs sc x = none) → elemPoisoned v km srcs sc e = some tv →
      let outs := (elemOuts v km draws f).filter (fun o => o.1 < e)
      elementwise v d w km srcs draws records f sc =
        raise (vecLeave v (destOf v d w outs) [] outs records (some e)
          (if draws then lfsrAfter (e - v.me.nvs) v.me.vec.lfsr.toNat else v.me.vec.lfsr.toNat)) 0x10 2 tv

/-- 09 R155, R159: the elements written into a group are the ones given, and every other element of its registers keeps its bits; the bits
written into a mask register likewise. -/
def Sys2Proof.Claim.ElementsWritten : Prop :=
  (∀ (v : State) (k : Nat) (bits : List (Nat × Bool)), (bits.map (·.1)).Nodup → ∀ e : Nat, e < 2048 →
    (writeMask v k bits).2.1.getLsbD e = match bits.find? (fun b => b.1 = e) with | some b => b.2 | none => (kreg v k).val.getLsbD e)
  ∧ ∀ (v : State) (d w n : Nat) (outs : List (Nat × Nat)), 0 < w → (outs.map (·.1)).Nodup →
    ∀ r ∈ writeGroup v d w n outs, ∀ k : Nat, k < 16384 / w →
      elemBits r.2.1 w k = match outs.find? (fun o => o.1 = (r.1 - d) * (16384 / w) + k) with
        | some o => o.2 % 2 ^ w
        | none => elemBits (vbase v r.1).val w k

/-- What a vector instruction leaves as it was until its result retires (09 R159, R162): memory, scratchpads, turn tags, the scalar registers,
the values of the vector and mask registers, every other strand's vector state, and of its own FFLAGS and FFIRST. -/
def Sys2Proof.Claim.VectorFrame : Prop :=
  ∀ (v : State) (dest : List (Nat × BitVec 16384 × BitVec 32)) (mask : List (Nat × BitVec 2048 × BitVec 4)) (outs : List (Nat × EOut))
    (records : Bool) (lfsr : Nat) (reads : List Nat),
    let t := vecAfter v dest mask outs records lfsr reads
    (∀ a, Memory.byte t.mem a = Memory.byte v.mem a) ∧ t.tags = v.tags ∧ t.poison = v.poison
    ∧ (∀ c, (t.core c).scratch = (v.core c).scratch ∧ (t.core c).k = (v.core c).k
      ∧ ∀ j, (mget VReg.zero (t.core c).v j).val = (mget VReg.zero (v.core c).v j).val)
    ∧ (∀ p, p ≠ v.cur → t.strand p = v.strand p)
    ∧ t.me.sregs = v.me.sregs ∧ t.me.status = v.me.status ∧ t.me.trap = v.me.trap ∧ t.me.loops = v.me.loops
    ∧ t.me.vec = { v.me.vec with vstart := BitVec.ofNat 64 (v.me.cutAt.getD 0), lfsr := BitVec.ofNat 64 lfsr }

/-- What a vector instruction writes and the frame of everything it leaves. Results stand in the window until they retire:
notes/assumptions/23. -/
def Obligations.VectorFrame : Prop := Claim.ElementsWritten ∧ Claim.VectorFrame

/-- 09 R170: vadd, vsub, vmul, vdiv, vmin, vmax and vsgnj, each element computed from its sources, and vsqrt, vabs and vneg. -/
def Sys2Proof.Claim.FloatVector : Prop :=
  ∀ (s : State),
    (∀ (o : V3) (x : Instr × Nat), x ∈ [(.vadd o, 0), (.vsub o, 1), (.vmul o, 2), (.vdiv o, 3), (.vmin o, 4), (.vmax o, 5), (.vsgnj o, 9)] →
      let v := settled s
      RunsElements x.1 s (floatGate v o.d o.b o.fb (some (rc3 o)) o.km) o.d.toNat (tagWidth (v.me.tag o.d.toNat)) o.km
        (floatSrcs v o.b (some (rc3 o))) (scaleUse (scaleReg v.me false false) o.b.toNat (tagWidth (v.me.tag o.b.toNat))
          ++ scaleUse (rightScale v (some (rc3 o))) o.c.toNat (tagWidth (rightTag v o.b (some (rc3 o))))) false true (fun e _ => floatElem v x.2 o.d o.b (some (rc3 o)) e))
    ∧ (∀ (o : V2) (x : Instr × Nat), x ∈ [(.vsqrt o, 6), (.vabs o, 7), (.vneg o, 8)] →
      let v := settled s
      RunsElements x.1 s (floatGate v o.d o.b o.fb none o.km) o.d.toNat (tagWidth (v.me.tag o.d.toNat)) o.km
        (floatSrcs v o.b none) (scaleUse (scaleReg v.me false false) o.b.toNat (tagWidth (v.me.tag o.b.toNat))) false true (fun e _ => floatElem v x.2 o.d o.b none e))

/-- 09 R171: the fused forms, product negated or not and addend negated or not, one rounding. -/
def Sys2Proof.Claim.FusedVector : Prop :=
  ∀ (s : State) (o : V4) (x : Instr × Bool × Bool),
    x ∈ [(.vfma o, false, false), (.vfms o, false, true), (.vfnma o, true, false), (.vfnms o, true, true)] →
    let v := settled s
    RunsElements x.1 s (fusedGate v o) o.d.toNat (tagWidth (v.me.tag o.d.toNat)) o.km (fusedSrcs v o)
      (scaleUse (scaleReg v.me false false) o.b.toNat (tagWidth (v.me.tag o.b.toNat))
        ++ scaleUse (scaleReg v.me true o.s) o.c.toNat (tagWidth ((rc4 o).tag v.me (v.me.tag o.b.toNat)))) false true
      (fun e _ => fusedElem v x.2.1 x.2.2 o e)

/-- 09 R170, R171 on values: sums, differences, products, minima, maxima and signs are exact; a quotient and a root lie between the result and
its next, the sticky bit telling an inexact one; and the invalid cases. -/
def Sys2Proof.Claim.FloatTable : Prop :=
  ∀ (mode : Nat),
    (∀ (a b : FV) (k : Int), a.ExactFrom k → b.ExactFrom k →
      let r := fun op => floatOp op mode a b
      let A := a.units k
      let B := b.units k
      (∀ op ∈ [0, 1, 2, 4, 5, 7, 8, 9], (r op).2 = 0)
      ∧ (r 0).1.units k = A + B ∧ (r 1).1.units k = A - B ∧ (r 2).1.units (2 * k) = A * B ∧ (r 2).1.neg = (a.neg != b.neg)
      ∧ (r 4).1.units k = Min.min A B ∧ (r 5).1.units k = Max.max A B
      ∧ (r 7).1.units k = A.natAbs ∧ (r 8).1.units k = -A ∧ (r 9).1.units k = (if b.neg then -(A.natAbs : Int) else A.natAbs)
      ∧ (B ≠ 0 → ∃ m e t, r 3 = (.fin (a.neg != b.neg) m e t, 0)
        ∧ m * 2 ^ e.toNat * B.natAbs ≤ A.natAbs * 2 ^ (-e).toNat ∧ A.natAbs * 2 ^ (-e).toNat < (m + 1) * 2 ^ e.toNat * B.natAbs
        ∧ (t = false ↔ m * 2 ^ e.toNat * B.natAbs = A.natAbs * 2 ^ (-e).toNat) ∧ (A ≠ 0 → 2 ^ 128 ≤ m))
      ∧ (B = 0 → r 3 = if A = 0 then (.nan false, fNV) else (.inf (a.neg != b.neg), fDZ)))
    ∧ (∀ (neg : Bool) (man : Nat) (ex : Int) (b : FV), man ≠ 0 → man < 2 ^ 64 →
      floatOp 6 mode (.fin true man ex false) b = (.nan false, fNV)
      ∧ ∃ m e t, floatOp 6 mode (.fin false man ex false) b = (.fin false m e t, 0)
        ∧ m * m * 2 ^ (2 * e - ex).toNat ≤ man * 2 ^ (ex - 2 * e).toNat ∧ man * 2 ^ (ex - 2 * e).toNat < (m + 1) * (m + 1) * 2 ^ (2 * e - ex).toNat
        ∧ (t = false ↔ m * m * 2 ^ (2 * e - ex).toNat = man * 2 ^ (ex - 2 * e).toNat)
      ∧ floatOp 6 mode (.fin neg 0 ex false) b = (.fin neg 0 ex false, 0))
    ∧ (∀ (x y : Bool) (ex : Int), floatOp 0 mode (.inf x) (.inf (!x)) = (.nan false, fNV) ∧ floatOp 1 mode (.inf x) (.inf x) = (.nan false, fNV)
      ∧ floatOp 2 mode (.inf x) (.fin y 0 ex false) = (.nan false, fNV) ∧ floatOp 2 mode (.fin y 0 ex false) (.inf x) = (.nan false, fNV)
      ∧ floatOp 3 mode (.inf x) (.inf y) = (.nan false, fNV) ∧ ∀ b, floatOp 6 mode (.inf true) b = (.nan false, fNV))

/-- 08 R136, R143, R144: a magnitude rounds to a multiple of 2^q next to it, toward the side that the mode gives, inexact when it is no such
multiple; an operation's result rounds so to its format's precision, and beyond its largest value overflows; what a format's bits stand for is
written as those bits. -/
def Sys2Proof.Claim.Rounding : Prop :=
  (∀ (mode man : Nat) (neg : Bool) (ex q k : Int), mode < 5 → k ≤ ex → k ≤ q →
    let r := roundAt mode none neg man ex false q
    let M : Int := ((man * 2 ^ (ex - k).toNat : Nat) : Int)
    let D : Int := ((2 ^ (q - k).toNat : Nat) : Int)
    let R : Int := (r.1 : Int) * D
    (R - M).natAbs < D.natAbs ∧ (r.2 = true ↔ R ≠ M)
    ∧ (mode = 1 → R ≤ M) ∧ (mode = 2 → if neg then M ≤ R else R ≤ M) ∧ (mode = 3 → if neg then R ≤ M else M ≤ R)
    ∧ (mode = 0 → 2 * (R - M).natAbs ≤ D.natAbs ∧ (2 * (R - M).natAbs = D.natAbs → r.1 % 2 = 0))
    ∧ (mode = 4 → 2 * (R - M).natAbs ≤ D.natAbs ∧ (2 * (R - M).natAbs = D.natAbs → M < R)))
  ∧ (∀ (f : Fmt) (mode man : Nat) (neg : Bool) (ex : Int), man ≠ 0 →
    let top := topOf man ex - f.prec + 1
    let q := Max.max top (f.emin - f.prec + 1)
    let u := roundAt mode none neg man ex false top
    let r := roundAt mode none neg man ex false q
    toFormat f mode (.fin neg man ex false) =
      if cmpMag u.1 top f.maxMan (f.emax - f.prec + 1) = .gt then
        (if mode = 1 ∨ mode = 2 ∨ mode = 3 then .fin neg f.maxMan (f.emax - f.prec + 1) false else .inf neg, fOF ||| fNX)
      else (.fin neg r.1 q false, if r.2 = false then 0 else if topOf u.1 top < f.emin then fNX ||| fUF else fNX))
  ∧ ∀ t ∈ [8, 9, 11, 12, 13, 14], ∀ b : Nat, b < 2 ^ tagWidth t → (decodeElem t b).isNan = false → packFmt (fmtOf t) (decodeElem t b) = b

/-- Floating vector operations and the fused forms, element by element; the values of the operations, and how they round. -/
def Obligations.FloatVector : Prop := Claim.FloatVector ∧ Claim.FusedVector ∧ Claim.FloatTable ∧ Claim.Rounding

/-- 09 R172, R173: the integer operations and the unary bit operations. -/
def Sys2Proof.Claim.IntegerVector : Prop :=
  ∀ (s : State),
    (∀ (o : V3) (x : Instr × Nat), x ∈ [(.vaddI o, 0), (.vsubI o, 1), (.vmulI o, 2), (.vmulh o, 3), (.vand o, 4), (.vor o, 5), (.vxor o, 6),
        (.vsll o, 7), (.vsrl o, 8), (.vsra o, 9), (.vminI o, 10), (.vmaxI o, 11), (.vadds o, 12), (.vsubs o, 13)] →
      let v := settled s
      RunsElements x.1 s (intGate v o) o.d.toNat (tagWidth (v.me.tag o.d.toNat)) o.km (srcs3 o v) [] false false (fun e _ => intElem v x.2 o e))
    ∧ (∀ (o : V2) (x : Instr × (Nat → Nat → Nat)),
      x ∈ [(.vclz o, vecClz), (.vctz o, vecCtz), (.vpopc o, vecPopc), (.vffs o, vecCtz), (.vbrev o, vecBrev)] →
      let v := settled s
      let w := tagWidth (v.me.tag o.b.toNat)
      let wd := tagWidth (v.me.tag o.d.toNat)
      RunsElements x.1 s (unaryGate v o) o.d.toNat wd o.km [(o.b.toNat, w)] [] false false
        (fun e _ => ⟨x.2 w (elem v o.b.toNat w e) % 2 ^ wd, 0, false⟩))

/-- 09 R176, R177, R181: vcvt with its own rounding mode and, rounding stochastically, a draw per element; vscale; vmov; vbcast. -/
def Sys2Proof.Claim.VectorConversions : Prop :=
  ∀ (s : State),
    let v := settled s
    let wd := fun (d : Reg) => tagWidth (v.me.tag d.toNat)
    (∀ o : CvtOps, RunsElements (.vcvt o) s (cvtGate v o) o.d.toNat (wd o.d) o.km [(o.b.toNat, wd o.b)]
      (scaleUse (scaleReg v.me false false) o.b.toNat (wd o.b)) (cvtDraws v o) true (cvtElem v o))
    ∧ (∀ o : V3, RunsElements (.vscale o) s (scaleGate v o) o.d.toNat (wd o.d) o.km (scaleSrcs v o) [] false true (fun e _ => scaleElem v o e))
    ∧ (∀ o : V2, RunsElements (.vmov o) s (movGate v o) o.d.toNat (wd o.d) o.km [(o.b.toNat, wd o.d)] [] false false
      (fun e _ => ⟨elem v o.b.toNat (wd o.d) e, 0, false⟩))
    ∧ (∀ o : V2, RunsElements (.vbcast o) s (bcastGate v o) o.d.toNat (wd o.d) o.km [] [] false false
      (fun _ _ => ⟨(sv v o.b).toNat % 2 ^ wd o.d, 0, false⟩))

/-- 09 R172, R173, R176 on values: each row of the integer operations wrapped into vD's width, vadds and vsubs saturated; an integer conversion
saturated; the bit counts and the reversal. -/
def Sys2Proof.Claim.IntegerTable : Prop :=
  (∀ (s : State) (o : V3) (e : Nat),
    let tb := s.me.tag o.b.toNat
    let td := s.me.tag o.d.toNat
    let tc := (rc3 o).tag s.me tb
    let wd := tagWidth td
    let n := Nat.max (tagWidth tb) (Nat.max (tagWidth tc) wd)
    let x := intVal tb (elem s o.b.toNat (tagWidth tb) e)
    let y := intVal tc ((rc3 o).at s tc e)
    let sh := (if o.s then (sv s o.c).toNat else (rc3 o).at s tc e) % n
    let wraps := fun (op : Nat) (z : Int) => intElem s op o e = ⟨ofIntAt wd z, 0, false⟩
    let limits := fun (op : Nat) (z : Int) =>
      let lo : Int := if tagSigned td then -2 ^ (wd - 1) else 0
      let hi : Int := if tagSigned td then 2 ^ (wd - 1) - 1 else 2 ^ wd - 1
      intElem s op o e = ⟨ofIntAt wd (Max.max lo (Min.min hi z)), 0, decide (z < lo ∨ hi < z)⟩
    wraps 0 (x + y) ∧ wraps 1 (x - y) ∧ wraps 2 (x * y) ∧ wraps 3 (x * y / 2 ^ n)
    ∧ wraps 4 ((ofIntAt n x &&& ofIntAt n y : Nat) : Int) ∧ wraps 5 ((ofIntAt n x ||| ofIntAt n y : Nat) : Int)
    ∧ wraps 6 ((ofIntAt n x ^^^ ofIntAt n y : Nat) : Int)
    ∧ wraps 7 (x * 2 ^ sh) ∧ wraps 8 ((ofIntAt n x / 2 ^ sh : Nat) : Int) ∧ wraps 9 (toSigned n (ofIntAt n x) / 2 ^ sh)
    ∧ wraps 10 (Min.min x y) ∧ wraps 11 (Max.max x y) ∧ limits 12 (x + y) ∧ limits 13 (x - y))
  ∧ (∀ (s : State) (o : CvtOps) (e : Nat) (draw : Option Nat),
    let tb := s.me.tag o.b.toNat
    let td := s.me.tag o.d.toNat
    let wd := tagWidth td
    let lo : Int := if tagSigned td then -2 ^ (wd - 1) else 0
    let hi : Int := if tagSigned td then 2 ^ (wd - 1) - 1 else 2 ^ wd - 1
    let x := intVal tb (elem s o.b.toNat (tagWidth tb) e)
    tagInt tb = true → tagInt td = true → scaleReg s.me false false = none →
    cvtElem s o e draw = ⟨ofIntAt wd (Max.max lo (Min.min hi x)), if x < lo ∨ hi < x then fNV ||| fSA else 0, decide (x < lo ∨ hi < x)⟩)
  ∧ ∀ (w x : Nat), x < 2 ^ w →
    (x ≠ 0 → vecClz w x < w ∧ 2 ^ (w - 1 - vecClz w x) ≤ x ∧ x < 2 ^ (w - vecClz w x)
      ∧ x.testBit (vecCtz w x) = true ∧ ∀ i, i < vecCtz w x → x.testBit i = false)
    ∧ vecClz w 0 = w ∧ vecCtz w 0 = w ∧ vecPopc w 0 = 0
    ∧ vecPopc (w + 1) x = vecPopc w x ∧ vecPopc (w + 1) (2 ^ w + x) = vecPopc w x + 1
    ∧ (∀ i, i < w → (vecBrev w x).testBit i = x.testBit (w - 1 - i)) ∧ vecBrev w x < 2 ^ w

/-- Integer vector operations, conversions, scaling, moves and broadcasts, element by element, with their values. -/
def Obligations.IntegerVector : Prop := Claim.IntegerVector ∧ Claim.VectorConversions ∧ Claim.IntegerTable

/-- 09 R174: a comparison leaves the bits of its active elements in the window for kD. -/
def Sys2Proof.Claim.VectorCompare : Prop :=
  ∀ (s : State) (o : VCmpOps) (x : Instr × Nat),
    x ∈ [(.vcmpEq o, 0), (.vcmpNe o, 1), (.vcmpLt o, 2), (.vcmpLe o, 3), (.vcmpGt o, 4), (.vcmpGe o, 5), (.vcmpUn o, 6)] →
    let v := settled s
    let outs := elemOuts v o.km false (fun e _ => cmpElem v x.2 o e)
    Straight s → s.me.vstate ≠ 0 → cmpGate v x.2 o = .ok () → NoPoison v o.km (cmpSrcs o v) (cmpScales o v) →
    exec x.1 s = .next (vecAfter v []
      (if elemRange v.me = [] then [] else [writeMask v o.d.toNat (outs.map (fun y => (y.1, y.2.bits == 1)))]) outs
      (cmpFloat o v || cmpScaled o v) v.me.vec.lfsr.toNat (readsOf v (cmpSrcs o v) (cmpScales o v)))

/-- 09 R175: a mask operation on kB and kC leaves, below VL, the bits it computes for kD, and above VL the bits of kD; kpopc counts the ones
below VL and kfirst finds the lowest, or VL. -/
def Sys2Proof.Claim.MaskOperations : Prop :=
  ∀ (s : State), Straight s → s.me.vstate ≠ 0 →
    let v := settled s
    let leaves := fun (i : Instr) (d : BitVec 3) (f : Nat → Bool) => ∃ m p,
      exec i s = .next (onward (vecLeave v [] [(d.toNat, m, p)] [] false none v.me.vec.lfsr.toNat))
      ∧ ∀ e : Nat, e < 2048 → m.getLsbD e = if e < v.me.nvl then f e else (kreg v d.toNat).val.getLsbD e
    (∀ (o : K3) (x : Instr × (Bool → Bool → Bool)),
      x ∈ [(.kand o, (· && ·)), (.kor o, (· || ·)), (.kxor o, (· != ·)), (.kandn o, (fun a b => a && !b))] →
      operands v [.k o.b.toNat o.fb, .k o.c.toNat o.fc] = .ok () → maskSrcPoison v [o.b, o.c] = none →
      leaves x.1 o.d (fun e => x.2 ((kreg v o.b.toNat).val.getLsbD e) ((kreg v o.c.toNat).val.getLsbD e)))
    ∧ (∀ (o : K2) (x : Instr × (Bool → Bool)), x ∈ [(.knot o, (! ·)), (.kmov o, id)] →
      operands v [.k o.b.toNat o.fb] = .ok () → maskSrcPoison v [o.b] = none →
      leaves x.1 o.d (fun e => x.2 ((kreg v o.b.toNat).val.getLsbD e)))
    ∧ (∀ d : BitVec 3, leaves (.kset d) d (fun _ => true) ∧ leaves (.kclr d) d (fun _ => false))
    ∧ (∀ (o : KS), operands v [.k o.b.toNat o.fb] = .ok () → maskSrcPoison v [o.b] = none →
      let ones := (List.range v.me.nvl).filter (fun e => (kreg v o.b.toNat).val.getLsbD e)
      let gives := fun (n : Nat) => Host.Outcome.next (onward ((scalarLeave v o.d (BitVec.ofNat 64 n)).setS o.d (BitVec.ofNat 64 n)))
      exec (.kpopc o) s = gives ones.length
      ∧ exec (.kfirst o) s = gives (match ones with | e :: _ => e | [] => v.me.nvl))

/-- Comparisons into masks, and the mask operations. -/
def Obligations.MasksAndCompares : Prop := Claim.VectorCompare ∧ Claim.MaskOperations

/-- 09 R178 to R181: vqnt from the start of a block, with a scale byte for each block it writes; vlut; vunpk; vsel; vextr. -/
def Sys2Proof.Claim.VectorLookups : Prop :=
  ∀ (s : State), Straight s → s.me.vstate ≠ 0 →
    let v := settled s
    let wd := fun (d : Reg) => tagWidth (v.me.tag d.toNat)
    (∀ o : V2, qntGate v o = .ok () →
      let q := qntStart v
      writable q (q.me.cfg 16 12 :: group o.d.toNat 8 q.me.nvl) = true → NoPoison q o.km [(o.b.toNat, wd o.b)] [] →
      let outs := elemOuts q o.km (qntDraws q o) (qntElem q o)
      exec (.vqnt o) s = .next (vecAfter q (qntDest q o (outs.map (fun x => (x.1, x.2.bits)))) [] outs true (lfsrDone q (qntDraws q o))
        (group o.b.toNat (wd o.b) q.me.nvl)))
    ∧ (∀ o : VV, lutGate v o = .ok () → writable v (group o.d.toNat (wd o.c) v.me.nvl) = true →
      (∀ e ∈ activeElems v o.km, lutPoison v o e = none) →
      let outs := elemOuts v o.km false (fun e _ => ⟨elem v o.c.toNat (wd o.c) (lutIndex v o e), 0, false⟩)
      exec (.vlut o) s = .next (vecAfter v (destOf v o.d.toNat (wd o.c) outs) [] outs false v.me.vec.lfsr.toNat
        ((o.c.toNat :: group o.b.toNat (wd o.b) v.me.nvl).eraseDups)))
    ∧ (∀ o : UnpkOps, unpkGate v o = .ok () → writable v (group o.d.toNat (wd o.d) v.me.nvl) = true →
      (∀ e ∈ activeElems v o.km, unpkPoison v o e = none) →
      let outs := elemOuts v o.km false (fun e _ => unpkElem v o e)
      exec (.vunpk o) s = .next (vecAfter v (destOf v o.d.toNat (wd o.d) outs) [] outs false v.me.vec.lfsr.toNat
        (group o.b.toNat (unpkBits o.k) v.me.nvl)))
    ∧ (∀ o : VV, selGate v o = .ok () → writable v (group o.d.toNat (wd o.d) v.me.nvl) = true →
      (∀ e ∈ elemRange v.me, maskPoison v o.km.toNat e = none ∧ srcPoison v [(selSource v o e, wd o.d)] e = none) →
      let outs := (elemRange v.me).map (fun e => (e, (⟨elem v (selSource v o e) (wd o.d) e, 0, false⟩ : EOut)))
      exec (.vsel o) s = .next (vecAfter v (destOf v o.d.toNat (wd o.d) outs) [] outs false v.me.vec.lfsr.toNat
        ((group o.b.toNat (wd o.d) v.me.nvl ++ group o.c.toNat (wd o.d) v.me.nvl).eraseDups)))
    ∧ (∀ o : BinOps, extrGate v o = .ok () →
      let i := (sv v o.c).toNat
      let leaves := fun (x : Word) => Host.Outcome.next (φ := Fault) (ρ := Refusal) (onward ((consume (scalarLeave v o.d x)
        (consumed v (group o.b.toNat (wd o.b) v.me.nvl))).setS o.d x))
      (v.me.nvl ≤ i → exec (.vextr o) s = leaves 0)
      ∧ (i < v.me.nvl → srcPoison v [(o.b.toNat, wd o.b)] i = none →
        exec (.vextr o) s = leaves (wrapAt 64 (intVal (v.me.tag o.b.toNat) (elem v o.b.toNat (wd o.b) i)))))

/-- 10 R212: the permutes move the elements their rules name. -/
def Sys2Proof.Claim.Permutes : Prop :=
  ∀ (s : State), Straight s → s.me.vstate ≠ 0 →
    let v := settled s
    let moves := fun (i : Instr) (d b : Reg) (fb : Bool) (cs : List (Nat × Bool)) (ss : List Opnd) (km kr : BitVec 3) (m : List (Nat × Option Nat)) =>
      permIssue v d b fb cs ss km = .ok () → writable v (group d.toNat (tagWidth (v.me.tag b.toNat)) v.me.nvl) = true →
      permPoison v b (cs.map (·.1)) kr m = none → exec i s = .next (onward (permState v d b (cs.map (·.1)) m))
    (∀ o : VV, moves (.vperm o) o.d o.b o.fb [(o.c.toNat, o.fc)] [] o.km o.km (permIndex v o.c o.km)
      ∧ moves (.vslideup o) o.d o.b o.fb [] [.s o.c o.fc] o.km o.km (permUp v (sv v o.c).toNat o.km)
      ∧ moves (.vslidedn o) o.d o.b o.fb [] [.s o.c o.fc] o.km o.km (permDown v (sv v o.c).toNat o.km))
    ∧ (∀ o : V2, moves (.vrev o) o.d o.b o.fb [] [] o.km o.km (permRev v o.km)
      ∧ (packPoison v o.km = none → moves (.vcompress o) o.d o.b o.fb [] [] o.km 0 (permPack v o.km))
      ∧ moves (.vexpand o) o.d o.b o.fb [] [] o.km o.km (permSpread v o.km))

/-- Quantising, lookups, unpacking, selection and extraction; the permutes. VQNT's NV position, VSEL with KM = 0 and poison in permutes:
notes/assumptions/21 and 22. -/
def Obligations.LookupsAndPermutes : Prop := Claim.VectorLookups ∧ Claim.Permutes

/-- 10 R209 to R211: reductions leave element 0 of vD, scans an element for every active one, over the tree of 08 R151. -/
def Sys2Proof.Claim.ReductionsAndScans : Prop :=
  ∀ (s : State), Straight s → s.me.vstate ≠ 0 →
    let v := settled s
    (∀ (o : RedOps) (x : Instr × Nat), x ∈ [(.vredSum o, 0), (.vredMin o, 1), (.vredMax o, 2), (.vredAnd o, 3), (.vredOr o, 4), (.vredXor o, 5)] →
      let q := RedOps.spec o x.2
      redIssue v q 1 = .ok () → writable v [o.d.toNat] = true → redPoison v q (redActive v o.km) = none →
      exec x.1 s = .next (onward (redState v q 1 (redResult v q) (redReads v q))))
    ∧ (∀ (o : ScanOps) (x : Instr × Nat),
      x ∈ [(.vscanSum o, 0), (.vscanMin o, 1), (.vscanMax o, 2), (.vscanAnd o, 3), (.vscanOr o, 4), (.vscanXor o, 5)] →
      let q := ScanOps.spec o x.2
      scanGate v q = .ok () → writable v (group o.d.toNat (tagWidth (v.me.tag o.d.toNat)) v.me.nvl) = true →
      redPoison v q (redActive v o.km) = none →
      exec x.1 s = .next (onward (redState v q v.me.nvl (scanResult v q o.excl) (redReads v q))))

/-- 10 R209, R210: over integers a sum, a minimum or a maximum of the active elements is exact, whatever the tree, and wraps into vD's tag
once; a scan's element is that of the active elements up to it, or below it. -/
def Sys2Proof.Claim.IntegerReductions : Prop :=
  ∀ (v : State) (o : RedSpec), o.flt v.me = false →
    let tb := v.me.tag o.b.toNat
    let td := v.me.tag o.d.toNat
    let val := fun (e : Nat) => intVal tb (elem v o.b.toNat (tagWidth tb) e)
    let start : List Int := if o.init then [intVal (o.tc v.me) (o.initBits v)] else []
    let best := fun (f : Int → Int → Int) (l : List Int) => match l with | x :: r => r.foldl f x | [] => 0
    let tot := fun (es : List Nat) => match o.op with
      | 0 => (es.map val ++ start).sum
      | 1 => best (fun a b => if a ≤ b then a else b) (es.map val ++ start)
      | _ => best (fun a b => if a ≤ b then b else a) (es.map val ++ start)
    o.op < 3 →
    redResult v o = ([(0, redWrap td (tot (redActive v o.km)))], [])
    ∧ ∀ excl : Bool, scanResult v o excl =
      ((redActive v o.km).map (fun e => (e, redWrap td (tot ((redActive v o.km).filter (fun x => if excl then x < e else x ≤ e))))), [])

/-- Reductions and scans; over integers the result does not depend on the tree. -/
def Obligations.Reductions : Prop := Claim.ReductionsAndScans ∧ Claim.IntegerReductions

/-- 23 R370 to R372: the oldest instruction of a core's window is checked by a second execution, retires with its registers, FFLAGS and FFIRST
when they agree, or, when one value is held by more of four results than any other, with that value, a scalar destination included; with two values held
twice each, or none held twice, its strand takes a MACHINE_CHECK at it and nothing of it retires. A squash replays the window with the same results,
and an entry's third in a row raises MACHINE_CHECK with QUAL 2. That a squash of the window keeps its entries as they stand, and what a
MACHINE_CHECK takes back, rest on notes/assumptions/23 and 40. -/
def Obligations.WindowChecks : Prop :=
  ∀ (s : State) (core : Nat) (e : VEntry) (rest : List VEntry), (s.core core).window = e :: rest →
    (∀ r3 r4 : VResult, exec (.vectorRecheck core e.result r3 r4) s = .next (retireOne s core))
    ∧ (∀ r2 r3 r4 : VResult, r2 ≠ e.result →
      (∀ r ∈ [e.result, r2, r3, r4], (∀ q ∈ [e.result, r2, r3, r4], q ≠ r → [e.result, r2, r3, r4].count q < [e.result, r2, r3, r4].count r) →
        exec (.vectorRecheck core r2 r3 r4) s = .next (((e.withResult (s.core core) r).putScalar (retireOne (s.updCore core (fun c =>
          { c with window := e.withResult (s.core core) r :: rest })) core)).logRec (core / 192) 0x07 9 (core % 192) e.pc.toNat))
      ∧ ([e.result, r2, r3, r4].Nodup ∨ (∃ a b, a ≠ b ∧ [e.result, r2, r3, r4].count a = 2 ∧ [e.result, r2, r3, r4].count b = 2) →
        exec (.vectorRecheck core r2 r3 r4) s =
        .next (windowCheck (s.logRec (core / 192) 0x08 9 (core % 192) e.pc.toNat) core e 1)))
    ∧ (let u := s.logRec (core / 192) 0x09 9 (core % 192) e.pc.toNat
      exec (.squashReplay core) s = .next (if 2 ≤ e.squashes then windowCheck u core e 2
        else u.updCore core (fun c => { c with window := c.window.map (fun x => { x with squashes := x.squashes + 1 }) })))
    ∧ (∀ qual : Nat, rest = [] → coreOf e.strand = core → (s.strand e.strand).status.nest = false →
      let t := windowCheck s core e qual
      let st := t.strand e.strand
      st.trap = ⟨false, false, BitVec.ofNat 8 qual, 0x17, e.pc, 0⟩ ∧ st.status.prv = true ∧ st.vec.fflags = (s.strand e.strand).vec.fflags
      ∧ st.vec.lfsr = e.lfsr ∧ st.vec.vstart = e.vstart ∧ st.loops = e.loops ∧ st.loopd = e.loopd ∧ st.vdirty = e.vdirty ∧ st.vstate = e.vstate
      ∧ (t.core core).window = [] ∧ (t.core core).k = (s.core core).k
      ∧ (e.took = [] → e.before = [] → (t.core core).v = (s.core core).v))
    ∧ (∀ d ∈ e.dest, (e.dest.map (·.1)).Nodup → s.boundAt core d.1 = none →
      let t := retireOne s core
      mget VReg.zero (t.core core).v d.1 = ⟨d.2.1, true, d.2.2, 0⟩ ∧ (t.core core).window = rest
      ∧ (t.strand e.strand).vec.fflags = (s.strand e.strand).vec.fflags ||| e.flags)

/-! ## Vector memory, streams and transfers (10, 19) -/

/-- 10 R192, R194, R197, R198: a vector load from memory, by a base, a stream or an index group, whose elements all pass their checks empties
its registers until the data arrive, and sets VSTART to 0; a store writes its elements; a stream with A = 1 moves on by VL. -/
def Sys2Proof.Claim.VectorMemory : Prop :=
  ∀ (s : State), Straight s → s.me.vstate ≠ 0 →
    let v := settled s
    let loads := fun (i : Instr) (d : Reg) (km : BitVec 3) (ops : List Opnd) (pl : VPlace) =>
      dataOk v d.toNat = true → operands v (ops ++ maskOps km) = .ok () → LoadFree v d.toNat pl → Unhurried v d.toNat km pl false →
      (loadRun v d.toNat km pl).stop = none → exec i s = .next (vecLoaded v d.toNat km pl)
    let stores := fun (i : Instr) (e : Reg) (km : BitVec 3) (ops : List Opnd) (pl : VPlace) =>
      dataOk v e.toNat = true → operands v (ops ++ maskOps km) = .ok () → Unhurried v e.toNat km pl true →
      (storeRun v e.toNat km pl).stop = none → exec i s = .next (vecStored v e.toNat km pl)
    let ix := fun (b c : Reg) (dp : Option (BitVec 16)) (sc : BitVec 2) => VPlace.index (sv v b + dispWord dp) c.toNat (v.me.tag c.toNat) sc.toNat
    (∀ o : VldOps, loads (.vld o) o.d o.km [.s o.b o.fb] (.base (sv v o.b + dispWord o.disp)))
    ∧ (∀ o : VldqOps, loads (.vldStream o) o.d o.km [] (.stream o.q.toNat o.adv))
    ∧ (∀ o : VstOps, stores (.vst o) o.e o.km (.s o.b o.fb :: dataOps v o.e.toNat o.fd) (.base (sv v o.b + dispWord o.disp)))
    ∧ (∀ o : VstqOps, stores (.vstStream o) o.e o.km (dataOps v o.e.toNat o.fd) (.stream o.q.toNat o.adv))
    ∧ (∀ o : GathOps, indexOk v o.c.toNat = true →
      loads (.vgath o) o.d o.km (.s o.b o.fb :: dataOps v o.c.toNat o.fc) (ix o.b o.c o.disp o.sc))
    ∧ (∀ o : ScatOps, indexOk v o.c.toNat = true →
      stores (.vscat o) o.e o.km (.s o.b o.fb :: (dataOps v o.c.toNat o.fc ++ dataOps v o.e.toNat o.fd)) (ix o.b o.c o.disp o.sc))

/-- 10 R192: the first element of a vector load or store that fails a check traps with VSTART at it, the elements below it complete:
a load's are written, and its group is full; a store's are made. What a load's elements from there on hold rests on notes/assumptions/58. -/
def Sys2Proof.Claim.VectorAccessStops : Prop :=
  ∀ (v : State) (d : Nat) (km : BitVec 3) (pl : VPlace) (e : Nat) (t : TrapInfo),
    (LoadFree v d pl → Unhurried v d km pl false → (loadRun v d km pl).stop = some (e, t) →
      let m := loadRun v d km pl
      loadMem v d km pl = .error (.trap t ((settleVec m.s d (tagWidth (v.me.tag d)) v.me.nvl m.outs true).updMe (fun st =>
        { st with vec := { st.vec with vstart := BitVec.ofNat 64 e } }))) ∧ m.outs.map (·.1) = (memElems v km (pl.past v)).filter (· < e))
    ∧ (Unhurried v d km pl true → (storeRun v d km pl).stop = some (e, t) →
      storeMem v d km pl = .error (.trap t ((settleWrites (storeRun v d km pl).s (storeRun v d km pl).writes).updMe (fun st => { st with vec := { st.vec with vstart := BitVec.ofNat 64 e } }))))

/-- Vector loads, stores, gathers and scatters of memory, and where a failing element leaves them. -/
def Obligations.VectorMemory : Prop := Claim.VectorMemory ∧ Claim.VectorAccessStops

/-- 10 R199: vector scratchpad accesses, by a base or an index group: an element of the own core is read or written at once, another core's
travels there. -/
def Obligations.VectorScratchpad : Prop :=
  ∀ (s : State), Straight s → s.me.vstate ≠ 0 →
    let v := settled s
    let loads := fun (i : Instr) (d : Reg) (km : BitVec 3) (ops : List Opnd) (pl : VPlace) =>
      dataOk v d.toNat = true → operands v (ops ++ maskOps km) = .ok () → LoadFree v d.toNat pl → (spRun v d.toNat km pl []).stop = none →
      SpClear v d.toNat (spRun v d.toNat km pl []).es →
      (spCores v (spRun v d.toNat km pl []).es = [] ∨
        (v.me.cutAt = none ∧ ∀ j ∈ group d.toNat (tagWidth (v.me.tag d.toNat)) v.me.nvl, v.boundAt (coreOf v.cur) j = none)) →
      exec i s = .next (spLoaded v d.toNat km pl)
    let stores := fun (i : Instr) (e : Reg) (km : BitVec 3) (ops : List Opnd) (pl : VPlace) =>
      dataOk v e.toNat = true → operands v (ops ++ maskOps km) = .ok () →
      let r := spRun v e.toNat km pl [(e.toNat, tagWidth (v.me.tag e.toNat))]
      r.stop = none → spOwnBusy v r.es = false → exec i s = .next (spStored v e.toNat km pl)
    let ix := fun (b c : Reg) (dp : Option (BitVec 16)) (sc : BitVec 2) => VPlace.index (sv v b + dispWord dp) c.toNat (v.me.tag c.toNat) sc.toNat
    (∀ o : VldsOps, loads (.vlds o) o.d o.km [.s o.b o.fb] (.base (sv v o.b + dispWord o.disp)))
    ∧ (∀ o : VstOps, stores (.vsts o) o.e o.km (.s o.b o.fb :: dataOps v o.e.toNat o.fd) (.base (sv v o.b + dispWord o.disp)))
    ∧ (∀ o : LdsxOps, indexOk v o.c.toNat = true →
      loads (.vldsx o) o.d o.km (.s o.b o.fb :: dataOps v o.c.toNat o.fc) (ix o.b o.c o.disp o.sc))
    ∧ (∀ o : ScatOps, indexOk v o.c.toNat = true →
      stores (.vstsx o) o.e o.km (.s o.b o.fb :: (dataOps v o.c.toNat o.fc ++ dataOps v o.e.toNat o.fd)) (ix o.b o.c o.disp o.sc))

/-- 10 R202, R207, 19 R328: strm and copy hand a transfer to the dispatcher: the stream's POS moves on by VL, sD becomes empty, the data of an
.out transfer are read, the group of an .in transfer becomes empty. A copy of no bytes completes at once. -/
def Sys2Proof.Claim.TransferIssue : Prop :=
  ∀ (s : State), Straight s →
    (∀ (o : StrmOps), s.me.vstate ≠ 0 →
      let v := settled s
      let w := 8 * 2 ^ o.esz.toNat
      let js := group o.c.toNat w v.me.nvl
      let x := strmXfer v o (.vec (coreOf v.cur) o.c.toNat)
      v.me.tag o.c.toNat ≠ 15 → tagWidth (v.me.tag o.c.toNat) = w → groupOk v o.c.toNat w v.me.nvl = true → dispatchRoom v = true →
      (o.out = true → operands v (groupOps o.c.toNat w v.me.nvl o.fc) = .ok () → 
        (∀ e < v.me.nvl, (VPlace.stream o.q.toNat false).past v e = true ∨ srcPoison v [(o.c.toNat, w)] e = none) →
        exec (.strmVector o) s = .next (onward (consume (issueXfer (strmAdvance v o) o.d
          { x with data := (List.range v.me.nvl).map (fun e => (elem v o.c.toNat w e, false)) }) (consumed v js))))
      ∧ (o.out = false → writable v js = true →
        exec (.strmVector o) s = .next (onward (issueXfer (strmAdvance ((emptyV v.token.2 js v.token.1).dirty (dirtyV (if v.me.nvl = 0 then [] else js))) o) o.d
          { x with vtok := v.token.1 }))))
    ∧ (∀ (o : StrmOps) (core : Nat), Readable s [o.c] →
      let va := sv s o.c
      let esz := 2 ^ o.esz.toNat
      let pt := Port.sp core (spOff va) (s.me.nvl * esz)
      va.toNat % esz = 0 → spRange s va (s.me.nvl * esz) = .ok core → dispatchRoom s = true →
      (o.out = true → windowBusy s pt = false ∧ remoteBusy s core = false
        ∧ (core = coreOf s.cur → handed s s.cur (handWords (spOff va) (s.me.nvl * esz)) = false)) →
      exec (.strmScratchpad o) s = .next (onward (issueXfer (strmAdvance s o) o.d
        { strmXfer s o pt with data := if o.out then windowData s core (spOff va) esz s.me.nvl else [] })))
    ∧ (∀ (o : StrmOps) (b : Binding), s.me.vstate ≠ 0 → Readable s [o.c] → s.me.bindings.find? (fun b => b.reg = (sv s o.c).toNat) = some b →
      tagWidth (s.me.tag b.reg) = 8 * 2 ^ o.esz.toNat → s.me.nvl % b.w = 0 → dispatchRoom s = true →
      exec (.strmFabric o) s = .next (onward (issueXfer (strmAdvance (s.dirty (dirtyV (if o.out = true ∧ s.me.nvl ≠ 0 then [b.reg] else []))) o) o.d
        (strmXfer s o (.fab s.cur b.reg)))))
    ∧ (∀ (o : CopyOps) (out : Bool) (core : Nat), Readable s [o.b, o.c, o.n] →
      let len := (sv s o.n).toNat
      let va := sv s o.c
      let pt := Port.sp core (spOff va) len
      (sv s o.b).toNat % 8 = 0 → va.toNat % 8 = 0 → len % 8 = 0 → spRange s va len = .ok core → dispatchRoom s = true →
      (out = true → windowBusy s pt = false ∧ remoteBusy s core = false
        ∧ (core = coreOf s.cur → handed s s.cur (handWords (spOff va) len) = false)) →
      let u := issueXfer s o.d { Xfer.new s .copy o.ui pt [sv s o.b, 8, 0, 0, BitVec.ofNat 64 (len / 8 + 2 ^ 32), 1, 0, 0] true 8 out (len / 8)
        with data := if out then windowData s core (spOff va) 8 (len / 8) else [] }
      ∃ y, u.xfers.getLast? = some y ∧ y.port = pt ∧ y.count = len / 8
      ∧ exec (if out then .copyOut o else .copyIn o) s = .next (onward (if len = 0 then completeXfer u y else u)))

/-- 10 R202, R203, R205, 04 R78: a transfer at its completion performs what is left of it and, having reached its end or stopped and its writes being
performed, which the homes of what it has written may put off, writes its status word and leaves; strmc stops the transfers of sN with code 0xFF; strmq reads how far the newest has come, all ones with none outstanding. -/
def Sys2Proof.Claim.TransferEnd : Prop :=
  ∀ (s : State),
    (∀ (p k : Nat) (x : Xfer), (((mine s p)[k]? = some x ∧ movable s x = true) ∨ xferNamed s p k = some x) →
      let r := runTransfer s x (x.count - x.done)
      let u := r.1.setXfer r.2
      exec (.transferCompletion p k) s = .next
        (if (r.2.stop.isSome ∨ r.2.count ≤ r.2.done) ∧ startable u r.2 = true ∧ fabricDone u r.2 = true
        then (if xferHeld u r.2 = true then u.post (.transferCompletion p k) else completeXfer u r.2) else u))
    ∧ (∀ (x : Xfer) (d : Nat), x.dest = some d → d ≠ 0 → x.tok ≠ 0 → ((s.strand x.strand).cell d).tok = x.tok →
      let t := completeXfer s x
      (t.strand x.strand).cell d = ⟨x.status, true, .clean, 0⟩ ∧ ∀ y ∈ t.xfers, y.tok ≠ x.tok)
    ∧ (Straight s → ∀ n : Reg,
      (∃ t, exec (.strmc n) s = .next (onward t) ∧ ∀ x ∈ onStatus s n, ∀ y ∈ t.xfers, y.tok = x.tok → y.stop = some (0xFF, 0))
      ∧ ∀ d : Reg, exec (.strmq d n) s = .next (onward (match ((onStatus s n).filter (fun x => x.kind != .mcast)).getLast? with
        | none => s.setS d (BitVec.ofNat 64 (2 ^ 64 - 1))
        | some x => (freeProgress s x).1.setS d (BitVec.ofNat 64
          (if x.kind = .copy then 8 * (freeProgress s x).2.done else (freeProgress s x).2.done)))))

/-- 19 R315, R331, R332: mcast reads its source once and sends one write to each selected core of the group, along the snake of each die; each write is
performed at its target, and with the last of them the status word is written. -/
def Sys2Proof.Claim.Multicast : Prop :=
  ∀ (s : State),
    (∀ (o : McastOps), Straight s → Readable s [o.b, o.c, o.n, o.m] →
      let b := sv s o.b
      let c := sv s o.c
      let len := (sv s o.n).toNat
      let js := mcastIndexes (sv s o.m) o.bank.toNat
      let pt := Port.sp (coreOf s.cur) b.toNat len
      b.toNat % 64 = 0 → c.toNat % 64 = 0 → len % 64 = 0 →
      ((js = [] ∨ len = 0) → ∃ u y, u = issueXfer s o.d (Xfer.new s .mcast o.ui (.sp (coreOf s.cur) (spOff b) 0) [] false 1 true 0)
        ∧ u.xfers.getLast? = some y ∧ exec (.mcast o) s = .next (onward (completeXfer u y)))
      ∧ (js ≠ [] → len ≠ 0 → b.toNat + len ≤ Config.scratchBytes → c.toNat + len ≤ Config.scratchBytes →
        (∀ j ∈ js, (spCore s s.cur (selAddr j c.toNat)).isSome = true) → windowBusy s pt = false → selfBusy s = false →
        handed s s.cur (handWords b.toNat len) = false →
        (∀ d ∈ windowData s (coreOf s.cur) b.toNat 1 len, d.2 = false) →
        ∃ t rs, exec (.mcast o) s = .next (onward t) ∧ t.mem = s.mem ∧ t.cores = s.cores ∧ t.remote = s.remote ++ rs
          ∧ rs.map (fun r => { r with msg := 0 }) = (snakeOrder (js.filterMap (fun j => spCore s s.cur (selAddr j c.toNat)))).map (fun k =>
            { strand := s.cur, core := k, untag := true, mc := s.tokens + 1, tok := 0, dest := none, off := 0, len := 0, zext := false, ea := c
              vd := none, w := 0, elems := [], msg := 0
              write := [(c.toNat, (windowData s (coreOf s.cur) b.toNat 1 len).map (fun d => BitVec.ofNat 8 d.1))] })))
    ∧ (∀ (p k : Nat) (r : Remote) (x : Xfer), (s.remote.filter (fun r => r.mc ≠ 0 ∧ r.strand = p))[k]? = some r →
      s.xfers.find? (fun x => x.tok = r.mc) = some x → remoteDue s r = true → startable s x = true →
      remoteLost s r = false →
      let w := (remoteWrite (remoteOver s r) r).setXfer { x with done := x.count }
      let u := (w.remote.filter (fun y => y.mc = 0)).foldl (fun s _ => s.post (.remoteScratchpadArrival 0)) w
      exec (.mcastTargetWrite p k) s = .next (if ∃ y ∈ u.remote, y.mc = x.tok then u else completeXfer u { x with done := x.count }))

/-- STRM, COPY and MCAST: issue, progress, cancellation and completion. When elements move and how far a cancelled transfer came:
notes/assumptions/14 to 16; what STRMQ gives for a COPY and with nothing outstanding: 32; which event is named when one cannot go on: 11; which
writes a home puts off: 46 and 56. -/
def Obligations.Transfers : Prop := Claim.TransferIssue ∧ Claim.TransferEnd ∧ Claim.Multicast

/-! ## Matrix engine (12, 13) -/

/-- 12 R217, R222, R230, R233, R240: tshape gives a tile its descriptor, a reserved bit of which takes TILE_SHAPE; tzero, tmov and the writes
of MCTL, MSTAT and MDRAIN take places of the engine's queue, tmov when the instructions queued before it leave its source unpoisoned; tstat reads a
descriptor; with the engine idle and its tile stores performed (04 R78), tstat.idle reads MSTAT, and waits while a home does not let one pass. -/
def Sys2Proof.Claim.TileState : Prop :=
  ∀ (s : State), Straight s →
    let c := coreOf s.cur
    let q := (mx s).queue
    (s.me.vstate ≠ 0 →
      (∀ (t : BitVec 3) (o : SrcOps), Readable s [o.b] →
        let d := (sv s o.b).setWidth 32
        (d &&& descReserved = 0 → q.length < 4 →
          exec (.tshape t o) s = .next (onward (enqueue (s.updMx c (fun m => { m with desc := mset t.toNat d m.desc })) (.shape t.toNat))))
        ∧ (d &&& descReserved ≠ 0 → exec (.tshape t o) s = .next (takeTrap s { code := 0x0D, qual := 1, tval := t.setWidth 64 })))
      ∧ (q.length < 4 →
        (∀ t : BitVec 3, exec (.tzero t) s = .next (onward ((enqueue s (.zeroTile t.toNat)).dirty (dirtyT t.toNat))))
        ∧ (∀ a : BitVec 1, exec (.tzeroAcc a) s = .next (onward ((enqueue s (.zeroBank a.toNat)).dirty (dirtyA false a.toNat))))
        ∧ (∀ (d : Reg) (t : BitVec 3), exec (.tstat d t) s = .next (onward (s.setS d (((mx s).dsc t.toNat).setWidth 64))))
        ∧ ∀ t b : BitVec 3, handed s s.cur [handT b.toNat] = false → mget 0 (mx s).stain.tiles b.toNat = 0 → exec (.tmov t b) s = .next (onward ((enqueue
          (s.updMx c (fun m => { m with desc := mset t.toNat (m.dsc b.toNat) m.desc })) (.mov t.toNat b.toNat)).dirty (dirtyT t.toNat))))
      ∧ (∀ d : Reg, q = [] →
        let u := drainCore s
        let clear := ownGranules u (2 * c) = [] ∧ ownGranules u (2 * c + 1) = []
        (clear → exec (.tstatIdle d) s = .next (onward (u.setS d (mx u).mstat))) ∧ (¬ clear → exec (.tstatIdle d) s = .next u.waits)))
    ∧ (∀ (n : BitVec 12) (o : SrcOps), Readable s [o.b] → q.length < 4 →
      exec (.matrixRegWrite n o) s = .next (onward (enqueue (s.updMx c (fun m =>
        if n = 0x018 then { m with iMctl := (sv s o.b).setWidth 2 } else if n = 0x01A then { m with iDrow := (sv s o.b).setWidth 7 } else m))
        (.reg n.toNat (sv s o.b)))))

/-- 12 R219, R225: the engine executes its instructions in order, a TCBK keeping its place until its data arrive and holding none up, and none is left waiting but
behind a TWLD.CB, whose row expansion goes out. -/
def Sys2Proof.Claim.EngineOrder : Prop :=
  ∀ (s : State) (op : MOp), (mx s).queue.length < 4 →
    let u := enqueue s op
    ((mx u).toRun = [] ∨ ∃ t rb k cbm row w bad rest, (mx u).toRun = .latchCb t rb k cbm row w bad :: rest
      ∧ .codebookRowExpand (coreOf s.cur) ∈ u.agenda)
    ∧ ((mx s).queue = [] → (∀ t rb k cbm row w bad, op ≠ .latchCb t rb k cbm row w bad) → (∀ n, op ≠ .fill n) →
      u = runMop (((noteHand s s.cur op.writes).updMx (coreOf s.cur) (fun m => { m with queue := [op] })).updMx (coreOf s.cur) (fun m => { m with queue := [] })) (coreOf s.cur) op)

/-- Tile descriptors, the matrix registers and the order of the engine. -/
def Obligations.TilesAndEngine : Prop := Claim.TileState ∧ Claim.EngineOrder

/-- 12 R218, R229, R231: tld reads and tst writes a tile in the strand's scratchpad at a 64-byte boundary, each 16-byte part of a row at the
place that its swizzle gives; a load whose units carry another swizzle tag takes SWIZZLE. Neither passes an earlier access of the strand to that
scratchpad that is on its way (03 R51). -/
def Sys2Proof.Claim.TileScratchpad : Prop :=
  ∀ (s : State) (t : BitVec 3) (b : Reg) (fb : Bool) (sw : BitVec 2) (disp : BitVec 16) (core : Nat),
    Straight s → s.me.vstate ≠ 0 → Readable s [b] →
    let d := (mx s).dsc t.toNat
    let rb := dRb d
    let n := dRows d
    let done := fun (u : State) => Host.Outcome.next (φ := Fault) (ρ := Refusal) (onward (u.updMe (fun st => { st with vec := { st.vec with vstart := 0 } })))
    (∀ (i : Instr) (dp : Word), ((i = .tld ⟨t, b, fb, sw⟩ ∧ dp = 0) ∨ (i = .tldDisp ⟨t, b, fb, sw, disp⟩ ∧ dp = disp.signExtend 64)) →
      let va := sv s b + dp
      let units := spUnits (spOff va) (n * rb)
      swLegal sw.toNat rb = true → va.toNat % 64 = 0 → spRange s va (n * rb) = .ok core → remoteBusy s core = false →
      (core = coreOf s.cur → handed s s.cur (handWords (spOff va) (n * rb)) = false) →
      ((∀ u ∈ units, mget 0 (s.core core).swz u = sw.toNat) → (mx s).queue.length < 4 →
        exec i s = done ((enqueue s (.load t.toNat rb (tldRows s core (spOff va) sw.toNat rb n))).dirty (dirtyT t.toNat)))
      ∧ ∀ (l r : List Nat) (u : Nat), units = l ++ u :: r → (∀ x ∈ l, mget 0 (s.core core).swz x = sw.toNat) → mget 0 (s.core core).swz u ≠ sw.toNat →
        exec i s = .next (takeTrap s { code := 0x0A, qual := mget 0 (s.core core).swz u, tval := va + BitVec.ofNat 64 (64 * u - spOff va) }))
    ∧ (∀ (i : Instr) (dp : Word), ((i = .tst ⟨t, b, fb, sw⟩ ∧ dp = 0) ∨ (i = .tstDisp ⟨t, b, fb, sw, disp⟩ ∧ dp = disp.signExtend 64)) →
      let va := sv s b + dp
      swLegal sw.toNat rb = true → va.toNat % 64 = 0 → spRange s va (n * rb) = .ok core → (mx s).queue = [] → remoteBusy s core = false →
      handed s s.cur [handT t.toNat] = false →
      exec i s = done (tstWrite (if core = coreOf s.cur then noteHand s s.cur (handWords (spOff va) (n * rb)) else s) core (spOff va) sw.toNat t.toNat rb n))

/-- 12 R232: tld and tst of memory take their rows from a stream register; when no row would pass an access of the strand's own and every row passes
its checks, which for a store is when its tag effects are taken (04 R63), the instruction enters the engine and the stream moves on. -/
def Sys2Proof.Claim.TileMemory : Prop :=
  ∀ (s : State) (o : TldmOps), Straight s → s.me.vstate ≠ 0 → (mx s).queue.length < 4 →
    let d := (mx s).dsc o.t.toNat
    let rb := dRb d
    let done := fun (u : State) => Host.Outcome.next (φ := Fault) (ρ := Refusal) (onward (walkAhead (u.updMe (fun st =>
      { (if o.adv then st.qadvance o.q.toNat (BitVec.ofNat 64 (dRows d)) else st) with vec := { st.vec with vstart := 0 } })) o.q.toNat))
    let idle := fun (load : Bool) => ∀ a ∈ rowAddrs s o.q.toNat rb (dRows d), rowBusy s load a = false
    let l := gatherRows s o.q.toNat rb (dRows d) .read
    let w := gatherRows s o.q.toNat rb (dRows d) .write
    (idle true → l.stop = none → exec (.tldMem o) s = done ((enqueue l.s (.load o.t.toNat rb l.data)).dirty (dirtyT o.t.toNat)))
    ∧ (idle false → w.stop = none → handed s s.cur [handT o.t.toNat] = false → exec (.tstMem o) s = done (enqueue w.s (.store s.cur o.t.toNat rb w.parts)))

/-- Tile loads and stores of scratchpad and memory, swizzles and SWIZZLE faults. -/
def Obligations.TileAccess : Prop := Claim.TileScratchpad ∧ Claim.TileMemory

/-- 12 R234 to R236: twld latches the weights of its tiles, whose descriptors agree with the format; twld.cb the entries its indices name;
twld.sp the values its metadata place, a bad group raising SPARSE_META when MCTL asks for it. -/
def Sys2Proof.Claim.WeightLatches : Prop :=
  ∀ (s : State), Straight s → s.me.vstate ≠ 0 → (mx s).queue.length < 4 →
    let m := mx s
    let latches := fun (i : Instr) (l : Latch) (op : MOp) => handed s s.cur op.reads = false →
      exec i s = .next (onward (enqueue (s.updMx (coreOf s.cur) (fun m => { m with iLatch := l })) op))
    (∀ t wf : BitVec 3,
      let n := fmtTiles wf
      let f := wf.toNat
      let k := dRows (m.dsc t.toNat)
      (∀ x, t.toNat ≤ x → x < t.toNat + n → dEw (m.dsc x) = fmtEw f ∧ dRb (m.dsc x) = 128 * fmtLen f / n ∧ dRows (m.dsc x) = k) →
      latches (.twld t wf) ⟨true, f, k, false, false⟩ (.latch t.toNat n k f))
    ∧ (∀ (t : BitVec 3) (cbm : BitVec 2),
      let nb := dRows (m.dsc t.toNat) * dRb (m.dsc t.toNat)
      dEw (m.dsc t.toNat) = 0 → nb % 48 = 0 → nb / 48 ≤ 128 →
      latches (.twldCb t cbm) ⟨true, 2, nb / 48, false, true⟩ (.latchCb t.toNat (dRb (m.dsc t.toNat)) (nb / 48) cbm.toNat 0 [] 0))
    ∧ (∀ t tm wf : BitVec 3,
      let f := wf.toNat
      let d := m.dsc t.toNat
      let e := m.dsc tm.toNat
      let k := 2 * dRows d
      dEw d = fmtEw f → dRb d = 128 * fmtLen f → k % 4 = 0 → k ≤ 128 → dEw e = 0 → dRb e = 64 → dRows e = k / 4 →
      ((m.iMctl.getLsbD 0 = false ∨ (m.queue = [] ∧ spFirstBad m tm.toNat k = none)) →
        latches (.twldSp t tm wf) ⟨true, f, k, true, false⟩ (.latchSp t.toNat tm.toNat k f))
      ∧ ∀ i, m.iMctl.getLsbD 0 = true → m.queue = [] → spFirstBad m tm.toNat k = some i →
        exec (.twldSp t tm wf) s = .next (takeTrap s { code := 0x0E, tval := BitVec.ofNat 64 i }))

/-- 12 R219, R225, R235, R237, 13 R242: tcbk enters the queue and sets a codebook slot filling from 16 bytes of memory or scratchpad; its bytes make it full and end its
place; the TWLD.CB that the engine has come to then expands its next row, poisoned by its slot or a tile row of its indices (23 R374), the last of
which completes the latch, and CBM 0 empties each slot it has read. -/
def Sys2Proof.Claim.Codebooks : Prop :=
  ∀ (s : State),
    (∀ (o : TcbkOps) (disp : BitVec 16), Straight s → s.me.vstate ≠ 0 → Readable s [o.b] → (mx s).queue.length < 4 →
      let n := o.cb.toNat
      let sl := (mx s).slot n
      let fills := fun (u : State) (v : Nat) (bad : Bool) => Host.Outcome.next (φ := Fault) (ρ := Refusal) (onward (((enqueue (u.updMx (coreOf s.cur) (fun m =>
        { m with slots := mset n ⟨1, BitVec.ofNat 128 v, bad⟩ m.slots })) (.fill n)).post (.codebookFill (coreOf s.cur) n false)).dirty (dirtyC n)))
      sl.st ≠ 1 → (sl.st = 2 → cbPending (mx s) n = false) →
      (∀ (i : Instr) (dp : Word) (a : Acc) (u : State), ((i = .tcbk o ∧ dp = 0) ∨ (i = .tcbkDisp o disp ∧ dp = disp.signExtend 64)) →
        let va := sv s o.b + dp
        va.toNat % 16 = 0 → access s va { kind := .read } = .ok (a, u) →
        let x := readAcc u a va 16
        exec i s = fills x.2 x.1.1 x.1.2)
      ∧ (∀ (i : Instr) (dp : Word) (core : Nat), ((i = .tcbkS o ∧ dp = 0) ∨ (i = .tcbkSDisp o disp ∧ dp = disp.signExtend 64)) →
        let va := sv s o.b + dp
        va.toNat % 16 = 0 → spRange s va 16 = .ok core → remoteBusy s core = false →
        (core = coreOf s.cur → handed s s.cur (handWords (spOff va) 16) = false) →
        let x := scratchRead s core (spOff va) 16
        exec i s = fills s x.1 x.2))
    ∧ (∀ (c n : Nat) (bad : Bool),
      let sl := (s.core c).mx.slot n
      exec (.codebookFill c n bad) s = .next (if sl.st = 1 then (s.updMx c (fun m =>
        { m.filled n with slots := mset n { sl with st := 2, bad := sl.bad || bad } m.slots })).post (.codebookRowExpand c) else s))
    ∧ (∀ (c t rb k cbm row : Nat) (w : Map Nat) (bad : BitVec 128) (rest : List MOp), (s.core c).mx.toRun = .latchCb t rb k cbm row w bad :: rest →
      let m := (s.core c).mx
      let sl := m.slot (cbSlot cbm row)
      let w' := w ++ cbRow (m.tile t) sl.table row
      let bad' := if sl.bad = true ∨ (∃ i ∈ cbRows rb row, (m.tile t).poison.getLsbD i = true) then bad ||| (1#128 <<< row) else bad
      (sl.st ≠ 2 → exec (.codebookRowExpand c) s = .next s)
      ∧ (sl.st = 2 → ∃ u, exec (.codebookRowExpand c) s = .next u ∧ (row + 1 < k →
        (u.core c).mx.toRun = .latchCb t rb k cbm (row + 1) w' bad' :: rest
        ∧ (u.core c).mx.slots = if cbm = 0 then mset (cbSlot cbm row) .empty m.slots else m.slots)
        ∧ (row + 1 = k → rest = [] → (u.core c).mx.toRun = [] ∧ (u.core c).mx.latch = ⟨true, 2, k, false, true⟩
          ∧ (u.core c).mx.weights = w' ∧ (u.core c).mx.wbad = bad')))

/-- Weight latches, sparse weights, codebook slots and their row expansion. A codebookFill or codebookRowExpand that is not due changes nothing:
notes/assumptions/11; the order of the queue about a TWLD.CB: 30. -/
def Obligations.WeightsAndCodebooks : Prop := Claim.WeightLatches ∧ Claim.Codebooks

/-- 12 R238, R239: tmma under a latch that holds at least its K, of a format that pairs with its activations; tdrain and tacc of rows within
the bank; TDRAIN.N moves MDRAIN.DROW on in engine order. -/
def Obligations.MatrixMultiply : Prop :=
  ∀ (s : State), Straight s → s.me.vstate ≠ 0 → (mx s).queue.length < 4 →
    (∀ (o : TmmaOps) (sp : Bool),
      let m := mx s
      let af := o.af.toNat
      let d := m.dsc o.t.toNat
      let k := dRb d / fmtLen af
      dEw d = fmtEw af → 1 ≤ k → m.iLatch.valid = true → k ≤ m.iLatch.k → fmtPairs m.iLatch.wf af = true → (sp = true → m.iLatch.sp = true) →
      (af = 0 → o.a = 0) → handed s s.cur (MOp.mma o.a.toNat o.t.toNat af (dRows d) (dRb d) k o.z).reads = false →
      exec (if sp then .tmmaSp o else .tmma o) s =
        .next (onward ((enqueue s (.mma o.a.toNat o.t.toNat af (dRows d) (dRb d) k o.z)).dirty (dirtyA (af == 0) o.a.toNat))))
    ∧ (let v := settled s
      let drain := fun (d : Reg) (a : BitVec 1) (row0 : Nat) (f64 : Bool) (next : Option (BitVec 7)) =>
        let w := if f64 then 64 else 32
        let js := group d.toNat w v.me.nvl
        onward (((enqueue (emptyV v.token.2 js v.token.1) (.drain v.cur a.toNat row0 v.me.nvs v.me.nvl f64 d.toNat v.token.1 next)).dirty (dirtyV js)).updMe
          (fun st => { st with vec := { st.vec with vstart := 0 } }))
      let ready := fun (d : Reg) (a : BitVec 1) (row0 : Nat) (f64 : Bool) =>
        viewOf v d a = .ok f64 ∧ (row0 : Int) + ((v.me.nvl : Int) - 1) / 128 ≤ 127 ∧ writable v (group d.toNat (if f64 then 64 else 32) v.me.nvl) = true
        ∧ handed v v.cur ((viewBanks f64 a.toNat).map handA) = false
      (∀ (o : TdrainOps) (f64 : Bool), Readable v [o.c] → ready o.d o.a (sv v o.c).toNat f64 →
        exec (.tdrain o) s = .next (drain o.d o.a (sv v o.c).toNat f64 none))
      ∧ (∀ (d : Reg) (a : BitVec 1) (f64 : Bool),
        let row0 := (mx v).iDrow.toNat
        let nx := BitVec.ofNat 7 (row0 + (v.me.nvl + 127) / 128)
        ready d a row0 f64 → exec (.tdrainN d a) s = .next ((drain d a row0 f64 (some nx)).updMx (coreOf v.cur) (fun m => { m with iDrow := nx }))
        ∧ ∀ (u : State) (c vs n tok : Nat), ((runMop u c (.drain v.cur a.toNat row0 vs n f64 d.toNat tok (some nx))).core c).mx.drow = nx)
      ∧ (∀ (o : TaccOps) (add f64 : Bool), viewOf v o.d o.a = .ok f64 →
        let w := if f64 then 64 else 32
        let row0 := (sv v o.c).toNat
        operands v (.s o.c o.fc :: groupOps o.d.toNat w v.me.nvl o.fd) = .ok () → (row0 : Int) + ((v.me.nvl : Int) - 1) / 128 ≤ 127 →
        handed v v.cur (if add then (viewBanks f64 o.a.toNat).map handA else []) = false →
        (∀ e, v.me.nvs ≤ e → e < v.me.nvl → srcPoison v [(o.d.toNat, w)] e = none
          ∧ (add = true → (mget 0 (mx v).stain.banks (bankAt f64 o.a.toNat (e % 128))).getLsbD (row0 + e / 128) = false)) →
        exec (if add then .taccAdd o else .taccSet o) s = .next (onward ((consume ((enqueue v (.acc o.a.toNat row0 v.me.nvs add f64
          (((List.range v.me.nvl).filter (fun e => v.me.nvs ≤ e)).map (fun e => elem v o.d.toNat w e)))).dirty (dirtyA f64 o.a.toNat))
          (consumed v (group o.d.toNat w v.me.nvl))).updMe (fun st => { st with vec := { st.vec with vstart := 0 } })))))

/-! ## Fabric and outside masters (04, 19, 24) -/

/-- 19 R323, R329: bind checks the record, then its positions, then the strand's two bindings, and binds vR, which becomes empty, with a push
buffer of the identity; sE says which failed. unbind ends a binding with no push outstanding: sD is the number of results, vR is full with
its contents unchanged. -/
def Sys2Proof.Claim.Bindings : Prop :=
  ∀ (s : State), Straight s → s.me.vstate ≠ 0 →
    let v := settled s
    (∀ (o : BindOps) (a : Acc) (u w : State) (ms : List Nat),
      let r := o.r.toNat
      let va := sv v o.b
      ownsV v.mycore.vpart v.cur r = true → isChannel v.mycore.vpart r = false → v.boundAt (coreOf v.cur) r = none →
      operands v [.s o.b o.fb, .s o.c o.fc] = .ok () → writable v [r] = true → va.toNat % 64 = 0 → access v va { kind := .read } = .ok (a, u) →
      let rd := readAcc u a va 64
      rd.1.2 = false → readMembers rd.2 (recDw rd.1.1 4) (recNmem rd.1.1) = .ok (ms, w) →
      let m := (sv v o.c).toNat
      let chk := checkArea w rd.1.1 false
      (recOk w rd.1.1 ms r m = false → exec (.bind o) s = .next (onward (w.setS o.e (BitVec.ofNat 64 (2 ^ 63 + 1)))))
      ∧ (recOk w rd.1.1 ms r m = true → chk.1 = none → exec (.bind o) s = .next (onward (chk.2.setS o.e (BitVec.ofNat 64 (2 ^ 63 + 2)))))
      ∧ ∀ places, recOk w rd.1.1 ms r m = true → chk.1 = some places →
        (2 ≤ chk.2.me.bindings.length → exec (.bind o) s = .next (onward (chk.2.setS o.e (BitVec.ofNat 64 (2 ^ 63 + 3)))))
        ∧ (chk.2.me.bindings.length < 2 → exec (.bind o) s = .next (onward ((bindTo (checkArea chk.2 rd.1.1 true).2 rd.1.1 ms places r m).setS o.e 0))))
    ∧ (∀ (d r : Reg) (b c : Binding), s.me.bindings.find? (fun b => b.reg = r.toNat) = some b → b.w = s.me.nvl → fabBusy s (coreOf s.cur) b.reg = false →
      v.me.bindings.find? (fun b => b.reg = r.toNat) = some c → pushesOut v v.cur c = 0 →
      let tot := match v.colls.find? (fun x => x.key = c.coll) with | some x => x.tot | none => 0
      exec (.unbind d r) s = .next (onward (dropUses (endBinding (v.setS d (BitVec.ofNat 64 (Nat.min (c.pushed * c.w) tot % 2 ^ 32))) v.cur c))))
    ∧ (∀ (p : Nat) (b : Binding), let t := endBinding s p b
      mget VReg.zero (t.core (coreOf p)).v b.reg = { mget VReg.zero (s.core (coreOf p)).v b.reg with full := true, tok := 0 }
      ∧ ∀ x ∈ (t.strand p).bindings, x.reg ≠ b.reg)

/-- 19 R324 to R326: a push sends one contribution for each of its positions below TOT; the contributions of a position fold in the order of
the members, each an atomic at LVL; the last gives the result; a ready group of results goes to each bound register, along the snake of each die
(19 R315), which it fills once the one before has been consumed. -/
def Sys2Proof.Claim.CollectiveEvents : Prop :=
  ∀ (s : State),
    (∀ (p r : Nat) (b : Binding) (c : Coll) (x : BitVec 16384 × BitVec 32) (rest : List (BitVec 16384 × BitVec 32)),
      (s.strand p).bindings.find? (fun b => b.reg = r) = some b → b.pend = x :: rest → s.colls.find? (fun c => c.key = b.coll) = some c →
      ∃ u rs, exec (.pushBufferPush p r) s = .next u ∧ u.mem = s.mem
        ∧ (u.strand p).bindings.find? (fun b => b.reg = r) = some { b with pend := rest, pushed := b.pushed + 1 }
        ∧ u.colls = s.colls.map (fun y => if y.key = c.key then { y with wait := y.wait ++ rs } else y)
        ∧ rs.map (fun x => { x with msg := 0 }) = ((List.range b.w).filter (fun e => b.pushed * b.w + e < c.tot)).map (fun e =>
            (⟨b.member, b.pushed * b.w + e, elemBits x.1 (tagWidth c.tag) e, x.2.getLsbD (chunkOf (tagWidth c.tag) e), p, 0⟩ : Contrib)))
    ∧ (∀ (k pos : Nat) (c : Coll), s.colls.find? (fun c => c.key = k) = some c →
      let i := mget 0 c.next pos
      let pl := c.place.getD pos (0, 0, false)
      let here := fun (x : Contrib) => decide (x.pos = pos ∧ x.member = i ∧ s.arrived x.msg = true)
      (c.wait.find? here = none → exec (.foldContribution k pos) s = .next s)
      ∧ (∀ x, c.wait.find? here = some x → heldAt s pl.1 = true → exec (.foldContribution k pos) s = .next (s.post (.foldContribution k pos)))
      ∧ ∀ x, c.wait.find? here = some x → heldAt s pl.1 = false → s.lost.contains x.msg = false →
        let d := s.delivered x.msg
        let s1 : State := { d with colls := d.colls.map (fun y => if y.key = k then { y with wait := y.wait.erase x } else y) }
        unreachable s1 (moduleOf x.strand) pl.1 = false → tableAllows s1 (moduleOf x.strand) pl.1 .atomic = true →
        let f := foldAt s1 c x
        ∃ u, exec (.foldContribution k pos) s = .next u ∧ u.mem = f.1.mem ∧ u.poison = f.1.poison ∧ u.tags = f.1.tags
          ∧ ∀ y ∈ u.colls, y.key = k → mget 0 y.next pos = i + 1 ∧ (c.nmem ≤ i + 1 → mget (0, false) y.results pos = f.2))
    ∧ (∀ (k : Nat) (c : Coll), s.colls.find? (fun c => c.key = k) = some c →
      exec (.resultGroupMulticast k) s = .next (c.visits.foldl (sendGroup c k (s.tokens + 1)) (s, none)).1 ∧ c.visits.Perm c.members
      ∧ ∀ (cast : Nat) (acc : State × Option Nat) (m : Nat × Nat) (b : Binding) (g : BitVec 16384 × BitVec 32),
        (acc.1.strand m.1).bindings.find? (fun b => b.reg = m.2 ∧ b.coll = k) = some b → groupReady c b.w b.got = some g →
        ∀ x ∈ ((sendGroup c k cast acc m).1.strand m.1).bindings, x.reg = m.2 →
          ∃ n, x = { b with groups := b.groups ++ [(g.1, g.2, n)], got := b.got + 1 })
    ∧ (∀ (p r : Nat) (b : Binding) (g : BitVec 16384 × BitVec 32 × Nat) (rest : List (BitVec 16384 × BitVec 32 × Nat)),
      let t := settle s (coreOf p)
      let full := (mget VReg.zero (t.core (coreOf p)).v r).full
      (t.strand p).bindings.find? (fun b => b.reg = r) = some b → b.groups = g :: rest →
      ((t.arrived g.2.2 = false ∨ full = true) → exec (.resultGroupFill p r) s = .next t)
      ∧ (t.arrived g.2.2 = true → full = false → castHeld t g.2.2 = true → exec (.resultGroupFill p r) s = .next (t.post (.resultGroupFill p r)))
      ∧ (t.arrived g.2.2 = true → full = false → castHeld t g.2.2 = false → t.lost.contains g.2.2 = false → ∃ u, exec (.resultGroupFill p r) s = .next u
        ∧ mget VReg.zero (u.core (coreOf p)).v r = ⟨g.1, true, g.2.1, 0⟩
        ∧ (u.strand p).bindings.find? (fun b => b.reg = r) = some { b with groups := rest }))

/-- BIND and UNBIND; pushes, folds in member order and result groups. How a use of a record is told from another rests on notes/assumptions/26;
that an event which is not due changes nothing on 11; that a fold under a seal is posted again on 46. -/
def Obligations.Collectives : Prop := Claim.Bindings ∧ Claim.CollectiveEvents

/-- 19 R311, R317 to R319: a port takes the flit it expects and drops the flits that the acknowledgement covers, a data flit taking a sequence number
and bringing its message to its module; it answers any other with a NAK, whose ACK it takes like any; it sends again from a NAKed flit or after 2,048 clk without a new
acknowledgement, and goes down with fewer than two lanes; a packet that has waited 64 clk at a router moves to the escape channel. -/
def Sys2Proof.Claim.DexlinkRetry : Prop :=
  ∀ (s : State) (m k : Nat),
    let x := linkOf s m k
    let p := portAt s m (k % 24)
    (portUp s m k = true →
      (∀ f : Flit, (f.crcOk = false ∨ f.seq.toNat ≠ x.rx ∨ f.room = false) → exec (.flitReceive m k f) s =
        .next ((setLinkOf s m k { x with naks := x.naks ++ [x.rx] }).post (.nakReceive (k / 24) (peerPort m k) (BitVec.ofNat 12 x.rx))))
      ∧ (∀ f : Flit, f.crcOk = true → f.seq.toNat = x.rx → f.room = true →
        (2 < f.type.toNat → exec (.flitReceive m k f) s = .next s)
        ∧ (f.type.toNat ≤ 2 →
          let y := x.accept f s.clk
          let t := pump (setLinkOf s m k y) m k
          exec (.flitReceive m k f) s = .next (if f.type = 2 then resendFrom t m k ((f.ack.toNat + 1) % 4096) else landFlit t m k f)
          ∧ y.rx = (if f.type = 1 then (x.rx + 1) % 4096 else x.rx) ∧ y.got = x.got + 1 ∧ y.tx = x.tx ∧ y.queue = x.queue
          ∧ (∀ e, e ∈ y.replay ↔ e ∈ x.replay ∧ seqBefore e.1 f.ack.toNat = false ∧ e.1 ≠ f.ack.toNat)
          ∧ ∀ e, f.type = 1 → (linkAt t (k / 24) (k % 24) m).replay.find? (fun e => e.1 = f.seq.toNat) = some e → e.2.2 ∉ (landFlit t m k f).transit))
      ∧ (∀ n : BitVec 12, exec (.nakReceive m k n) s =
        .next (resendFrom (pump (setLinkOf s m k (x.acked ((n.toNat + 4095) % 4096) s.clk)) m k) m k n.toNat))
      ∧ (∀ e r, x.replay = e :: r → exec (.replayTimeout m k) s = .next (if x.ackClk + 2048 ≤ s.clk then resendFrom s m k e.1 else s))
      ∧ (let t := setPort s m (k % 24) { p with lanes := p.lanes - 1 }
        exec (.laneTrainingFailure m k) s = .next (if p.lanes - 1 < 2 then portDown t m k else t)))
    ∧ (portUp s m k = false → ∀ f n, exec (.flitReceive m k f) s = .next s ∧ exec (.nakReceive m k n) s = .next s ∧ exec (.replayTimeout m k) s = .next s
      ∧ exec (.laneTrainingFailure m k) s = .next s)
    ∧ (∀ (n : Nat) (x : Packet), s.net[n]? = some x →
      ((x.esc = true ∨ x.path = [] ∨ s.clk < x.since + 64) → exec (.escapeChannelTimeout n) s = .next s)
      ∧ (x.esc = false → x.path ≠ [] → x.since + 64 ≤ s.clk → ∃ (d : State) (y : Packet), exec (.escapeChannelTimeout n) s = .next d
        ∧ d.net = s.net.set n y ∧ d.mem = s.mem ∧ d.tags = s.tags ∧ d.strands = s.strands ∧ d.cores = s.cores ∧ y.msg = x.msg ∧ y.cls = x.cls ∧ y.src = x.src ∧ y.dst = x.dst
        ∧ y.esc = true ∧ ∀ h ∈ y.path, h.chan = .esc))

/-- 04 R407, 24 R386, R387: a master outside the strands that its entry does not let in gets an error response and no effect; its write or its
atomic acts at the home as one at DOMAIN, in the order of its granule's atomics (15 R262); its read gives the home's bytes, poisoned where a tag is
corrupt, which is logged (14 R247), and activates the row (23 R381). An atomic is one of the operations of 15 R267. -/
def Sys2Proof.Claim.OutsideMasters : Prop :=
  ∀ (s : State) (ep pa n : Nat),
    (∀ (op : HostOp) (v : BitVec 512),
      let k : Kind := if op = .write then .write else .atomic
      let lets := hostAllowed s ep pa n k && hostReaches s pa n && hostShape op pa n
      (lets = false → exec (.hostWrite ep pa n op v) s = .next (s.reply ⟨ep, pa, true, 0, false⟩))
      ∧ (lets = true → hostWaits s pa (k == .atomic) = true → exec (.hostWrite ep pa n op v) s = .next (s.post (.hostWrite ep pa n op v)))
      ∧ (lets = true → hostWaits s pa (k == .atomic) = false →
        let t := serveDegraded (gapEvent s (granOf pa)) pa
        let d := drainGroup t (granOf pa) 5 0
        let old := homeReadN d pa (if op = .append then 8 else n)
        let x := v.toNat % 256 ^ n
        (op ≠ .write → (∃ b ∈ old.2, b = true) → exec (.hostWrite ep pa n op v) s = .next (d.reply ⟨ep, pa, false, 0, true⟩))
        ∧ ((op = .write ∨ ∀ b ∈ old.2, b = false) →
          (op = .append → let r := hostAppend d pa n x old.1; exec (.hostWrite ep pa n op v) s = .next (r.1.reply ⟨ep, pa, false, r.2, false⟩))
          ∧ (op ≠ .append → (∀ new, hostNew op n old.1 x = some new → exec (.hostWrite ep pa n op v) s =
              .next ((ringMailbox (domainWrite t pa n new) ep (cellsOf pa n new)).reply ⟨ep, pa, false, if op = .write then 0 else old.1, false⟩))
            ∧ (hostNew op n old.1 x = none → exec (.hostWrite ep pa n op v) s = .next ((domainEvent t (granOf pa)).reply ⟨ep, pa, false, old.1, false⟩))))))
    ∧ (∀ old x : Nat, hostNew .write n old x = some x ∧ hostNew .swap n old x = some x ∧ hostNew .add n old x = some ((old + x) % 256 ^ n)
      ∧ hostNew .band n old x = some (old &&& x) ∧ hostNew .bor n old x = some (old ||| x) ∧ hostNew .bxor n old x = some (old ^^^ x)
      ∧ hostNew .minu n old x = some (Nat.min old x) ∧ hostNew .maxu n old x = some (Nat.max old x)
      ∧ ∀ e : Word, hostNew (.cas e) n old x = if old = uAt (8 * n) e then some x else none)
    ∧ (let seen := fun (g : Nat) => (s.tag g).corrupt = true ∨ (s.tag g).allows (if (s.tag g).gl = 7 then 0 else 5) = true
      ((hostAllowed s ep pa n .read = false ∨ hostReaches s pa n = false ∨ ¬ (seen (granOf pa) ∧ seen (granOf (pa + n - 1)))) →
        exec (.hostRead ep pa n) s = .next (s.reply ⟨ep, pa, true, 0, false⟩))
      ∧ (hostAllowed s ep pa n .read = true → hostReaches s pa n = true → seen (granOf pa) → seen (granOf (pa + n - 1)) →
        let t := serveDegraded s pa
        let r := homeReadN t pa n
        let gs := [granOf pa, granOf (pa + n - 1)]
        exec (.hostRead ep pa n) s = .next (((opensRow t pa).logTags gs).reply ⟨ep, pa, false, r.1, r.2.any id || gs.any (fun g => (t.tag g).corrupt)⟩)))

/-- Dexlink retry; accesses of masters outside the strands. Port numbering and flit fields: notes/assumptions/41; events of a port that is down or not
due: 11; the PCIe port's number and what it reaches: 43; the order of a host's access among a granule's atomics: 56. -/
def Obligations.FabricAndHosts : Prop := Claim.DexlinkRetry ∧ Claim.OutsideMasters

/-! ## Unpick and Darning engines (20, 21, 22) -/

/-- 20 R344, 21 R356: skclr at U takes PRIVILEGE; past its checks it is refused with BADHDR, NOSPACE or NOTICKET, or gives a ticket; the
engine then reads the hash tables, writes the header and every slot empty and makes the class live with an empty sketch, or leaves it not
live. -/
def Sys2Proof.Claim.ClassClear : Prop :=
  ∀ (s : State),
    (∀ (o : BinOps), (s.me.status.prv = false → exec (.skclr o) s = .next (takeTrap s { code := 4 }))
      ∧ ∀ (ps : List (Word × Acc)) (u : State), s.me.status.prv = true → Straight s → Readable s [o.b, o.c] →
        skclrGate s (sv s o.b) (sv s o.c) = .ok (ps, u) →
        (∀ e, skclrRefusal u (sv s o.c) = some e → exec (.skclr o) s = .next (onward (u.setS o.d (BitVec.ofNat 64 (2 ^ 63 + e)))))
        ∧ (skclrRefusal u (sv s o.c) = none →
          let y := skclrAccept u (sv s o.c) ps
          exec (.skclr o) s = .next (onward (y.1.setS o.d (BitVec.ofNat 64 y.2))) ∧ y.1.me.tickets = u.me.tickets ++ [y.2]))
    ∧ (∀ (m t : Nat) (x : Ticket), ticketAt s m t = some x → x.mode = 5 → x.stage ≠ 4 →
      ((∀ c ∈ (s.modl m).classes, ¬ (c.cls = x.cls ∧ c.gen = x.gen)) →
        exec (.skclrTicket m t) s = .next (setTicket s m { x with stage := 4, status := 0x2500000000000000 }))
      ∧ ∀ c, (s.modl m).classes.find? (fun c => c.cls = x.cls ∧ c.gen = x.gen) = some c →
        let r := withRoot s x.strand x.root (fun s => readHash s x.strand x.buf)
        (∀ code, r.2 = .error code → exec (.skclrTicket m t) s = .next (setTicket
          (r.1.updMod m (fun y => { y with classes := y.classes.filter (fun c => c.cls ≠ x.cls) })) m { x with stage := 4, status := BitVec.ofNat 64 (code * 2 ^ 56) }))
        ∧ (∀ h, r.2 = .ok h →
          let c' : SkClass := { c with hash := h, fprint := fprintOf h, clearing := false }
          exec (.skclrTicket m t) s = .next (setTicket (clearTable (setClass r.1 m c') m c' x.header) m { x with stage := 4, status := 0 })))

/-- 20 R345, R347: a RECON past its checks is refused with the first code that applies, or gives a ticket to the engine, a save
issuing the writes of its buffer (04 R78); reconq reads a
ticket: all ones in its high byte for one the strand does not hold, 0xFE for one not complete, else its status word, which releases it and
counts the round. -/
def Sys2Proof.Claim.Reconciliations : Prop :=
  ∀ (s : State), Straight s →
    (∀ (i : Instr) (mode : Nat) (d b : Reg) (c n k : Word),
      ((∃ o : BinOps, ((i = .reconPull o ∧ mode = 0) ∨ (i = .reconPush o ∧ mode = 1) ∨ (i = .reconMerge o ∧ mode = 2) ∨ (i = .reconSave o ∧ mode = 3))
          ∧ d = o.d ∧ b = o.b ∧ c = sv s o.c ∧ n = 0 ∧ k = 0 ∧ Readable s [o.b, o.c])
        ∨ ∃ o : DiffOps, i = .reconDiff o ∧ mode = 4 ∧ d = o.d ∧ b = o.b ∧ c = sv s o.c ∧ n = sv s o.n ∧ k = sv s o.m
          ∧ Readable s [o.b, o.c, o.n, o.m]) →
      ∀ (g : Nat × List Tlb × Nat) (u : State), reconGate s mode (sv s b) c n k = .ok (g, u) →
      (∀ e, reconClass u mode g.1 g.2.2 c = .error e → exec i s = .next (onward (u.setS d (BitVec.ofNat 64 (2 ^ 63 + e)))))
      ∧ ∀ x, reconClass u mode g.1 g.2.2 c = .ok x →
        let t := reconTicket u mode x g c n k
        let w := if mode = 3 then issueRange u g.2.1 c (64 + 72 * 2 ^ g.2.2) else u
        exec i s = .next (onward ((acceptTicket w t (.reconciliation (moduleOf w.cur) t.num)).setS d (BitVec.ofNat 64 t.num))))
    ∧ (∀ (o : UnOps), Readable s [o.b] →
      let t := (sv s o.b).toNat
      let m := moduleOf s.cur
      ((s.me.tickets.contains t = false ∨ ticketAt s m t = none) → exec (.reconq o) s = .next (onward (issueProd s o.d 0xFF00000000000000 .clean 0)))
      ∧ ∀ x, s.me.tickets.contains t = true → ticketAt s m t = some x →
        (x.stage ≠ 4 → exec (.reconq o) s = .next (onward (issueProd s o.d 0xFE00000000000000 .clean 0)))
        ∧ (x.stage = 4 → ∃ u mark, exec (.reconq o) s = .next (onward (issueProd u o.d x.status mark 0))
          ∧ u.me.tickets = s.me.tickets.erase t ∧ (∀ y ∈ (u.modl m).tickets, y.num ≠ t)
          ∧ (let code := x.status.toNat / 2 ^ 56
            let used := s.me.skrnd.toNat / 256 % 32
            u.me.skrnd.toNat / 256 % 32 = (if code = 0 then 0 else if code = 0x11 then Nat.min (used + 1) 16 else used)
            ∧ (mark ≠ .clean ↔ code = 0x11 ∧ s.me.skrnd.getLsbD 16 = true))))

/-- 20 R348, R349: the stages of a reconciliation: the local sketch, the peer's, their difference and its peel, then the table operations of
the apply one by one; a class that has gone or changed, an unreachable peer, unlike classes and a SHARE below DEVICE end it with their
codes. -/
def Sys2Proof.Claim.ReconciliationStages : Prop :=
  ∀ (s : State) (m t : Nat) (x : Ticket), ticketAt s m t = some x →
    (x.mode ≠ 5 → x.stage < 4 → (ticketClass s m x = none → exec (.reconciliation m t) s = .next (setTicket s m (x.meets 0x25).complete))
      ∧ ∀ c, ticketClass s m x = some c → exec (.reconciliation m t) s =
        .next (if x.stage = 0 then snapshot s m c x else if x.stage = 2 then subtract s m c x else s))
    ∧ (x.stage = 1 → accessesOut s m x = true → exec (.peerSnapshot m t) s = .next (s.post (.peerSnapshot m t)))
    ∧ (x.stage = 1 → accessesOut s m x = false →
      let u := sendFlit ((ticketStrand s x).elim s (drainOwn s)) m x.peer
      let ends := fun (code : Nat) => exec (.peerSnapshot m t) s = .next (setTicket u m (x.meets code).complete)
      (ticketClass u m x = none → ends 0x25)
      ∧ ∀ c, ticketClass u m x = some c → (peerClass u m x = none → ends 0x20)
        ∧ ∀ q, peerClass u m x = some q →
          ((q.fprint ≠ c.fprint ∨ q.log2m < x.f) → ends 0x21)
          ∧ (q.fprint = c.fprint → x.f ≤ q.log2m → ((q.share < 4 ∨ c.share < 4) → ends 0x22)
            ∧ (4 ≤ q.share → 4 ≤ c.share → exec (.peerSnapshot m t) s =
              .next ((setTicket u m { x with oth := foldSketch q.log2m x.f q.cells, stage := 2 }).post (.reconciliation m t)))))
    ∧ (x.stage = 3 → (x.peel[x.ix]? = none → exec (.reconApplyOp m t) s = .next (setTicket s m x.complete))
      ∧ ∀ e c q, x.peel[x.ix]? = some e → ticketClass s m x = some c → peerClass s m x = some q →
        (nextApply x = none → exec (.reconApplyOp m t) s = .next ((setTicket s m x.nextEntry).post (.reconApplyOp m t)))
        ∧ ∀ far op v, nextApply x = some (far, op, v) →
          let r := if far then applyTable (sendFlit s m x.peer) x.peer q op e.1 v else applyTable s m c op e.1 v
          ∃ y : Ticket, exec (.reconApplyOp m t) s = .next ((setTicket r.s m y).post (.reconApplyOp m t))
            ∧ (r.bad = true → y = (x.meets 0x10).nextEntry)
            ∧ (r.bad = false → y.phase = x.phase + 1 ∧ (y.apfull = true ↔ x.apfull = true ∨ r.res = refusalWord 7)
              ∧ (op = 13 → (if x.phase = 0 then y.opA else y.opB) = r.value)))

/-- SKCLR, RECON and RECONQ, and the stages of the Unpick engine. What is checked and captured at issue, and what of a context that has been
saved a stage waits for: notes/assumptions/45. -/
def Obligations.Reconciliation : Prop := Claim.ClassClear ∧ Claim.Reconciliations ∧ Claim.ReconciliationStages

/-- 22 R367, R368: survq reads where an address's stripe stands, survq.grp a descriptor, and survq.seal, at S, when every member can be reached and no
input is poisoned or refused, holds the stripe, waits until its deltas have come, folds them and writes the parity. -/
def Sys2Proof.Claim.Survivability : Prop :=
  ∀ (s : State) (o : UnOps), Straight s → Readable s [o.b] →
    let gives := fun (i : Instr) (u : State) (n : Nat) => exec i s = .next (onward (u.setS o.d (BitVec.ofNat 64 n)))
    (∀ (a : Acc) (u : State), checkAccess s s.cur (sv s o.b) survAsk = (.ok a, u) →
      let at_ := stripeAt u (paModule a.pa) (a.pa % 2 ^ 44)
      (a.prot = false → gives (.survq o) u 0)
      ∧ (∀ n g stripe off, a.prot = true → at_ = some (n, g, stripe, off) →
        gives (.survq o) u (2 ^ 62 + (if u.strands.any (fun e => e.2.sealing == some (sealMark g stripe)) then 3
          else if (u.modl (holderNow u g stripe)).unsurv.contains (n, stripe) then 2
          else if g.state = 2 ∨ (g.state = 3 ∧ g.done ≤ stripe) then 1 else 0) * 2 ^ 60
          + n * 2 ^ 48 + g.k * 2 ^ 44 + stripe % (g.k + 1) * 2 ^ 40 + holderOf g stripe * 2 ^ 32 + stripe % 2 ^ 32))
      ∧ (s.me.status.prv = true →
        let free := fun (u : State) => u.updMe (fun st => { st with sealing := none })
        let refuses := fun (c : Nat) => gives (.survqSeal o) (free u) (2 ^ 63 + c)
        (a.prot = false → refuses 1) ∧ (a.prot = true → at_ = none → refuses 2)
        ∧ ∀ n g stripe off, a.prot = true → at_ = some (n, g, stripe, off) →
          (g.state ≠ 1 → refuses 2)
          ∧ (g.state = 1 → (memberCut u g = true → refuses 3)
            ∧ (memberCut u g = false →
              let bad := (List.range 1024).any (fun i => (reconstruct u g (stripe % (g.k + 1)) stripe (64 * i) 64).2)
              let gone := sealRefused u g stripe
              (gone = none → bad = true → refuses 4)
              ∧ (∀ pa, gone = some pa → gives (.survqSeal o) (free (reportRefused u (holderNow u g stripe) (some pa))) (2 ^ 63 + 4))
              ∧ (gone = none → bad = false →
                let hold := some (sealMark g stripe)
                let due := ∃ d ∈ u.deltas, d.group = n ∧ d.stripe = stripe ∧ u.arrived d.msg = false
                (u.me.sealing ≠ hold → exec (.survqSeal o) s = .next (u.updMe (fun st => { st with sealing := hold })).waits)
                ∧ (u.me.sealing = hold → due → exec (.survqSeal o) s = .next u.waits)
                ∧ (u.me.sealing = hold → ¬ due → gives (.survqSeal o) (free (sealStripe (foldStripe u n stripe) n g stripe)) 0))))))
    ∧ (s.me.status.prv = false → exec (.survqSeal o) s = .next (takeTrap s { code := 4 }))
    ∧ (let v := (sv s o.b).toNat
      (15 < v → gives (.survqGrp o) s (2 ^ 63 + 1))
      ∧ (v ≤ 15 → gives (.survqGrp o) s (match s.mymod.groups.find? (fun e => e.1 = v) with
        | none => 0
        | some (_, g) => g.state * 2 ^ 56 + g.lostix * 2 ^ 48 + g.repl * 2 ^ 40 + g.k * 2 ^ 32 + g.done % 2 ^ 32)))

/-- 22 R358: the conditions on a descriptor, the i-th of those that stand at a table, on module m. -/
def Sys2Proof.Claim.DescValid (s : State) (m table i : Nat) : Prop :=
  let raw := fun (i : Nat) => s.mem.readN (table + 64 * i) 64
  let d := fun (i : Nat) => descOf (raw i)
  (raw i / 256 ^ 20 % 2 ^ 32 = 0 ∧ raw i / 256 ^ 48 = 0 ∧ (d i).base < 2 ^ 44 ∧ raw i % 2 ^ 128 / 256 ^ ((d i).k + 1) = 0)
  ∧ (d i).state ≤ 3 ∧ (2 ≤ (d i).k ∧ (d i).k ≤ 15)
  ∧ ((d i).members.Nodup ∧ ((∃ x ∈ (d i).members, x = m ∨ s.answers x = m) ∨ ((d i).state = 3 ∧ (d i).repl = m)))
  ∧ ((d i).base % 65536 = 0 ∧ (d i).size ≠ 0 ∧ (d i).size % (((d i).k + 1) * 65536) = 0 ∧ inMemory (d i).base (d i).size = true)
  ∧ (∀ j, j < 16 → j ≠ i → (d j).state ≠ 0 → (d j).base + (d j).size ≤ (d i).base ∨ (d i).base + (d i).size ≤ (d j).base)
  ∧ ((d i).lostix = 255 ↔ (d i).state = 1) ∧ ((d i).state ≠ 1 → (d i).lostix ≤ (d i).k)
  ∧ ((d i).state = 3 → (d i).repl ∉ (d i).members)

/-- 22 R357, R358: a write of PGRP takes its defined bits and every descriptor of the table that it names: one with STATE 0 or that meets the
conditions of R358 as it is, another as STATE 0, which is reported to firmware. -/
def Sys2Proof.Claim.GroupTable : Prop :=
  ∀ (s : State) (m : Nat) (v : Word),
    let w := v &&& 0x000FFFFFFFFFFC01
    let table := (w &&& 0x000FFFFFFFFFFC00).toNat
    let d := fun (i : Nat) => descOf (s.mem.readN (table + 64 * i) 64)
    let good := fun (i : Nat) => (d i).state = 0 ∨ Claim.DescValid s m table i
    ∃ (u : State) (bad : List Nat), exec (.pgrpWrite m v) s = .next u ∧ u.mem = s.mem ∧ (u.modl m).pgrp = w
      ∧ (∀ i, i < 16 → (good i → (u.modl m).groups.find? (fun e => e.1 = i) = some (i, d i))
        ∧ (¬ good i → (u.modl m).groups.find? (fun e => e.1 = i) = some (i, { d i with state := 0 })))
      ∧ (u.modl m).firmware = (s.modl m).firmware ++ bad.map (fun i => (1024, BitVec.ofNat 64 i))
      ∧ bad.Nodup ∧ ∀ i, i ∈ bad ↔ i < 16 ∧ ¬ good i

/-- 22 R361, R363 to R366: a delta is folded into its parity row, or marks its stripe; a lost member's data are served by reconstruction once the
stripe's deltas have folded; a rebuild writes the next stripe of the lost member at the target, moves DONE on at every member and ends the stripe's mark;
a lost number is redirected. -/
def Sys2Proof.Claim.ParityEvents : Prop :=
  ∀ (s : State),
    (∀ (k : Nat) (bad : Bool) (d : Delta), (s.deltas.drop k).find? (fun d => s.arrived d.msg && deltaReaches s d) = some d →
      exec (.parityDeltaFold k bad) s = .next (foldDelta (State.delivered { s with deltas := s.deltas.erase d } d.msg) d bad))
    ∧ (∀ (d : Delta) (n : Nat) (g : PGroup), (groupsAt s (s.answers d.home)).find? (fun e => e.1 = d.group) = some (n, g) →
      ¬ ((g.state = 2 ∨ (g.state = 3 ∧ g.done ≤ d.stripe)) ∧ d.stripe % (g.k + 1) = g.lostix) →
      let h := holderNow s g d.stripe
      let pa := h * 2 ^ 44 + g.base + d.stripe * 65536 + d.off
      tableAllows s (s.answers d.home) pa .atomic = true →
      ((cellRead s pa 64).2 = false → s.mem.wf = true → (foldDelta s d false).mem.readN pa 64 = s.mem.readN pa 64 ^^^ d.data.toNat
        ∧ ∀ a, a < pa ∨ pa + 64 ≤ a → (foldDelta s d false).mem.byte a = s.mem.byte a)
      ∧ ∀ bad : Bool, (bad = true ∨ (cellRead s pa 64).2 = true) →
        let t := foldDelta s d bad
        t.mem = s.mem ∧ t.poison.contains (pa / 64) = true ∧ (d.group, d.stripe) ∈ (t.modl h).unsurv)
    ∧ (∀ (d : Delta) (n : Nat) (g : PGroup), (groupsAt s (s.answers d.home)).find? (fun e => e.1 = d.group) = some (n, g) →
      (g.state = 2 ∨ (g.state = 3 ∧ g.done ≤ d.stripe)) → d.stripe % (g.k + 1) = g.lostix → ∀ bad : Bool,
        (foldDelta s d bad).mem = s.mem ∧ (d.group, d.stripe) ∈ ((foldDelta s d bad).modl (holderNow s g d.stripe)).unsurv)
    ∧ (∀ p pa n : Nat, n ≠ 0 → granOf pa = granOf (pa + n - 1) → exec (.degradedRead p pa n) s = .next (serveDegraded s pa))
    ∧ (∀ (pa n : Nat) (g : PGroup) (stripe o : Nat), degradedAt s pa = some (n, g, stripe, o) →
      let t := serveDegraded s pa
      t.mem = (foldStripe s n stripe).mem ∧ (∀ d ∈ t.deltas, ¬ (d.group = n ∧ d.stripe = stripe))
      ∧ (∀ len, homeRead t pa len = reconstruct t g g.lostix stripe o len)
      ∧ ((reconstruct t g g.lostix stripe (o / 64 * 64) 64).2 = true → (n, stripe) ∈ (t.modl (holderNow t g stripe)).unsurv))
    ∧ (∀ (p pa n : Nat) (v : BitVec 512) (o : Outbound), n ≠ 0 → degradedAt s pa ≠ none →
      s.outbound.find? (fun (o : Outbound) => o.writers.any (fun w => w.strand == p) && (cellsOf pa n v.toNat).all (fun c => o.cells.contains c)) = some o →
      exec (.degradedWrite p pa n v) s = .next (writeBack s o))
    ∧ (∀ (m k n : Nat) (g : PGroup), (groupsAt s m).find? (fun e => e.1 = k) = some (n, g) → g.state = 3 → g.repl = m → g.done < g.size / 65536 →
      (∀ pa, rebuildRefused s m g = some pa → exec (.stripeRebuild m k) s = .next (reportRefused s m (some pa)))
      ∧ (rebuildRefused s m g = none →
        let t := foldStripe s n g.done
        let r := rebuildFrame t m g g.done
        let frame := m * 2 ^ 44 + g.base + g.done * 65536
        let all := g.members.map s.answers ++ [m]
        ∃ u, exec (.stripeRebuild m k) s = .next u
        ∧ (s.mem.wf = true → g.base + g.size ≤ 2 ^ 44 → (∀ ix, ix ≤ g.k → ix ≠ g.lostix → s.answers (g.members.getD ix 0) ≠ m) →
          (∀ i, i < 1024 → r.mem.readN (frame + 64 * i) 64 = (reconstruct t g g.lostix g.done (64 * i) 64).1
            ∧ r.poison.contains ((frame + 64 * i) / 64) = (reconstruct t g g.lostix g.done (64 * i) 64).2)
          ∧ ∀ a, a < frame ∨ frame + 65536 ≤ a → r.mem.byte a = t.mem.byte a)
        ∧ (∀ a, (∀ y ∈ all, let e := ((s.modl y).pgrp &&& 0x000FFFFFFFFFFC00).toNat + 64 * n + 40; a < e ∨ e + 8 ≤ a) → u.mem.byte a = r.mem.byte a)
        ∧ ∀ y ∈ all, (∀ e ∈ (u.modl y).unsurv, e ≠ (n, g.done))
          ∧ ∀ g', (s.modl y).groups.find? (fun e => e.1 = n) = some (n, g') →
            (u.modl y).groups.find? (fun e => e.1 = n) = some (n, { g' with done := g.done + 1 })))
    ∧ (∀ lost to_ : Nat, ∃ u, exec (.moduleNumberRedirect lost to_) s = .next u ∧ u.answers lost = to_ ∧ (∀ m, m ≠ lost → u.answers m = s.answers m)
      ∧ u.mem = s.mem ∧ ∀ g, granModule g ≠ lost → u.tag g = s.tag g)

/-- SURVQ and its forms; parity groups, delta folds, degraded access, rebuild and redirection. The order of a stripe's states in SURVQ, SEALING before UNSURV
before degraded, and what the access table asks of the Darning engine rest on notes/assumptions/46; when a delta folds on 11. -/
def Obligations.Survivability : Prop := Claim.Survivability ∧ Claim.GroupTable ∧ Claim.ParityEvents

/-! ## Upkeep, management, reset and invariants (15, 23, 24) -/

/-- 23 R378 to R381, 15 R276: a scrub activates its row and counts a corrected error against its bank or rebuilds or poisons an uncorrectable
granule; a bank's rows are rewritten one by one, and the last ends its re-encoding; a refresh ends a row's count; policy values stay in
bounds; a page moves to the other tier with its data, a retired frame as poison. The bank geometry is free: notes/assumptions/39; a scrub of what is no
memory rests on 11, CETHR's crossing on 40, how PAGE_MIGRATION names a big leaf and a move that is not allowed on 48, what an event waits for on 56. -/
def Obligations.MemoryUpkeep : Prop :=
  ∀ (s : State),
    (∀ (pa : Nat) (f : ScrubFinding),
      let place := physOf s pa
      let m := paModule place
      let t := activate (gapEvent s (granOf pa)) m place
      (areaOf pa = .nothing ∨ areaOf pa = .mailbox → exec (.scrubRead pa f) s = .next s)
      ∧ (areaOf pa ≠ .nothing → areaOf pa ≠ .mailbox →
        (eventHeld s pa = true → exec (.scrubRead pa f) s = .next (s.post (.scrubRead pa f)))
        ∧ (eventHeld s pa = false → exec (.scrubRead pa f) s = .next (match f with
          | .clean => t
          | .corrected => countError t m place
          | .uncorrectable => scrubBad t (place / 64 * 64)))))
    ∧ (∀ pa : Nat, pa % 64 = 0 → let u := scrubBad s (pa)
      (stripeAt s (paModule (knownAs s pa)) (knownAs s pa % 2 ^ 44) = none → u.mem = s.mem ∧ u.poison.contains (pa / 64) = true)
      ∧ ∀ n g stripe o, stripeAt s (paModule (knownAs s pa)) (knownAs s pa % 2 ^ 44) = some (n, g, stripe, o) →
        let ix := memberIx g (paModule (knownAs s pa))
        let t := foldStripe s n stripe
        let r := reconstruct t g ix stripe (o / 64 * 64) 64
        (ix = stripe % (g.k + 1) → u.mem = s.mem ∧ u.poison.contains (pa / 64) = true ∧ (n, stripe) ∈ (u.modl (holderNow s g stripe)).unsurv)
        ∧ (ix ≠ stripe % (g.k + 1) → g.state ≠ 1 → u.mem = s.mem ∧ u.poison.contains (pa / 64) = true)
        ∧ (ix ≠ stripe % (g.k + 1) → g.state = 1 → (r.2 = true → u.mem = t.mem ∧ u.poison.contains (pa / 64) = true)
          ∧ (r.2 = false → s.mem.wf = true → u.mem.readN pa 64 = r.1 ∧ u.poison.contains (pa / 64) = false
            ∧ ∀ a, a < pa ∨ pa + 64 ≤ a → u.mem.byte a = t.mem.byte a)))
    ∧ (∀ m row : Nat, ∃ u, exec (.neighbourRefresh m row) s = .next u ∧ u.mem = s.mem
      ∧ mget 0 (u.modl m).rinse.acts row = 0 ∧ row ∉ (u.modl m).rinse.listed
      ∧ ∀ r, r ≠ row → mget 0 (u.modl m).rinse.acts r = mget 0 (s.modl m).rinse.acts r)
    ∧ (∀ m bank : Nat, let x := fun (t : State) => mget .none (t.modl m).rinse.reenc bank
      (∃ u, exec (.reencodeEnable m bank) s = .next u ∧ x u = if (x s).state = 1 then { x s with state := 2 } else x s)
      ∧ ∀ row, (x s).state = 2 → row < Config.bankRows → row ∉ (x s).rows → ∃ u, exec (.reencodeRow m bank row) s = .next u ∧ u.mem = s.mem
        ∧ x u = { x s with state := if Config.bankRows ≤ (x s).rows.length + 1 then 3 else 2, rows := (x s).rows ++ [row] })
    ∧ (∀ m n : Nat, let clamp := fun (lo hi : Nat) => if n < lo then lo else if hi < n then hi else n
      (∃ u, exec (.policyWrite m (.patrol n)) s = .next u ∧ (u.modl m).rinse.patrol = clamp 1 168)
      ∧ (∃ u, exec (.policyWrite m (.cethr n)) s = .next u ∧ (u.modl m).rinse.cethr = clamp 16 65535)
      ∧ (∃ u, exec (.policyWrite m (.pwait n)) s = .next u ∧ (u.modl m).hamper.pwait = clamp 1024 65536))
    ∧ (∀ leaf f : Nat, let d := drainGroup s (granOf leaf) 5 0
      (leaf % 8 = 0 → ∀ big : Bool, let i := Instr.pageMigration (if big then leaf + 1 else leaf) f
        exec i s = .next (if migrates d leaf f big = true then
          (if moveHeld d leaf f big = true then d.post i else migrate (gapEvent d (granOf leaf)) leaf f big) else d))
      ∧ (1 < leaf % 8 → exec (.pageMigration leaf f) s = .next d))
    ∧ (∀ a b : Nat, s.mem.wf = true → (∀ e ∈ s.cores, e.2.wcb = []) → s.merges = [] → s.outbound = [] →
      (∀ x, x / 65536 ≠ b → (moveFrame s a b).mem.byte x = s.mem.byte x)
      ∧ (retiredAt s (a * 65536) = false → (moveFrame s a b).mem.readN (b * 65536) 65536 = s.mem.readN (a * 65536) 65536
        ∧ ∀ i, i < 1024 → (moveFrame s a b).poison.contains (b * 1024 + i) = s.poison.contains (a * 1024 + i))
      ∧ (retiredAt s (a * 65536) = true → ∀ i, i < 1024 → (moveFrame s a b).poison.contains (b * 1024 + i) = true))

/-- 23 R379: firmware's patrol settings are held within their bounds, PATROL from 1 to 168 and CETHR from 16 to 65,535, and are 24 and 256 at
reset; a write of one leaves the other. -/
def Obligations.PatrolPolicy : Prop :=
  ∀ (s : State) (m : Nat),
    let r := fun (t : State) => (t.modl m).rinse
    (∀ n : Nat, ∃ u, exec (.policyWrite m (.patrol n)) s = .next u ∧ 1 ≤ (r u).patrol ∧ (r u).patrol ≤ 168 ∧ (r u).cethr = (r s).cethr
      ∧ (1 ≤ n → n ≤ 168 → (r u).patrol = n))
    ∧ (∀ n : Nat, ∃ u, exec (.policyWrite m (.cethr n)) s = .next u ∧ 16 ≤ (r u).cethr ∧ (r u).cethr ≤ 65535 ∧ (r u).patrol = (r s).patrol
      ∧ (16 ≤ n → n ≤ 65535 → (r u).cethr = n))
    ∧ (r State.reset).patrol = 24 ∧ (r State.reset).cethr = 256

/-- 24 R383 to R385, R389, 05 R86: power-on leaves a module's strands held, its memory empty and its clk counting from then, the fuses as they are; an image
that reads, whose key is the fused one, that verifies and is no older than the fuses allow runs, measured into slots 1 to 3, with the identity of this boot and
the TAP disabled, and any other leaves the recovery state; release makes every strand idle with the boot values and measures the policy into slot 4. -/
def Sys2Proof.Claim.Boot : Prop :=
  ∀ (s : State) (m : Nat),
    (∀ image : BootImage, ∃ u, exec (.powerOnReset m image) s = .next u
      ∧ (∀ p, moduleOf p = m → u.strand p = Strand.reset) ∧ (∀ p, moduleOf p ≠ m → u.strand p = s.strand p)
      ∧ (∀ c, c / 192 = m → u.core c = Core.reset) ∧ (∀ a, paModule a = m → u.mem.byte a = 0)
      ∧ (u.modl m).mgmt.minVersion = (s.modl m).mgmt.minVersion ∧ (u.modl m).mgmt.released = false ∧ (u.modl m).clk0 = s.clk
      ∧ (let f := (s.modl m).mgmt.fuses
        let runs := image.readable = true ∧ Config.keyHash image.key = f.keyHash ∧ Config.slhDsaVerify image.key image.bytes image.signature = true
          ∧ (s.modl m).mgmt.minVersion ≤ image.version
        (u.modl m).mgmt.fuses = f
        ∧ (runs → (u.modl m).mgmt.boot = 2 ∧ (u.modl m).mgmt.version = image.version ∧ (u.modl m).mgmt.tap = false
          ∧ (u.modl m).mgmt.identity = Config.identity f.secret (Config.sha3 image.bytes)
          ∧ (u.modl m).mgmt.meas = [Config.sha3 Config.bootRom, Config.sha3 image.bytes, Config.sha3 f.config, 0])
        ∧ (¬ runs → (u.modl m).mgmt.boot = 1 ∧ (u.modl m).mgmt.tap = true)))
    ∧ (∀ boot : BootValues, (s.modl m).mgmt.boot = 2 → (s.modl m).mgmt.released = false → ∃ u, exec (.strandRelease m boot) s = .next u
      ∧ (∀ p, moduleOf p = m → (u.strand p).run = .idle ∧ (u.strand p).tvec = boot.tvec ∧ (u.strand p).sregs = (s.strand p).sregs)
      ∧ (u.modl m).mgmt.released = true ∧ (u.modl m).mgmt.meas = (s.modl m).mgmt.meas.set 3 boot.meas4 ∧ (u.modl m).pgrp = boot.pgrp &&& 0x000FFFFFFFFFFC01
      ∧ (u.modl m).access = boot.access.map (fun a => ⟨a.1, a.2.1, a.2.2⟩) ∧ u.mem = s.mem)
    ∧ (∀ (t ep : Nat) (e : Word), (s.modl m).mgmt.boot = 2 → t < 6 → ep < 1024 → ∃ u, exec (.accessTableWrite m t ep e) s = .next u
      ∧ accessEntry u m t ep = e ∧ ∀ t' ep', ¬ (t' = t ∧ ep' = ep) → accessEntry u m t' ep' = accessEntry s m t' ep')
    ∧ (∀ ps : List Nat, ∃ u, exec (.strandWithdrawal m ps) s = .next u
      ∧ ∀ p, p ∈ (u.modl m).hamper.withdrawn ↔ p ∈ (s.modl m).hamper.withdrawn ∨ (p ∈ ps ∧ moduleOf p = m))
    ∧ exec (.boundaryScan m) s = .next s

/-- 24 R385, R388: a doorbell starts the command of its request, one at a time; each command answers at 0x2000, clears the doorbell and ends
the request: an SPDM message, the error log, a section of a halted strand's state, its going on after its HALT, the power cap within bounds, the fused minimum
for a master with MG. The responder speaks versions 1.2 and 1.3 and gives slots 1 to 4 for measurement indices 1 to 4; any request beside those listed receives
UnsupportedRequest. -/
def Sys2Proof.Claim.Mailbox : Prop :=
  ∀ (s : State) (m : Nat),
    (∀ ep : Nat, (s.modl m).mgmt.boot = 2 → (s.modl m).mgmt.cmd = none → s.mem.readN (mboxAt m 0) 1 = 1 →
      let c := requestN s m 0 1
      let t := s.updMgmt m (fun g => { g with cmd := some c, asker := ep })
      (∀ x ∈ [(1, Instr.spdmMessage m), (2, .readErrorLog m), (3, .readHaltedState m), (4, .resumeHaltedStrand m), (5, .setPowerCap m), (6, .readSensors m),
        (7, .raiseSecurityVersion m)], c = x.1 → exec (.mailboxDoorbell m ep) s = .next (t.post x.2))
      ∧ ((c = 0 ∨ 7 < c) → exec (.mailboxDoorbell m ep) s = .next (t.updMgmt m (fun g => { g with cmd := none }))))
    ∧ (∀ ep : Nat, ((s.modl m).mgmt.boot = 0 ∨ (s.modl m).mgmt.cmd ≠ none ∨ s.mem.readN (mboxAt m 0) 1 ≠ 1
        ∨ ((s.modl m).mgmt.boot = 1 ∧ ¬ (ep = pcieEp ∧ (requestN s m 0 1 = 1 ∨ requestN s m 0 1 = 2)))) → exec (.mailboxDoorbell m ep) s = .next s)
    ∧ ((s.modl m).mgmt.cmd = some 1 → ∃ (u : State) (rest : List Nat), let r := fun (i : Nat) => requestN s m (8 + i) 1
      let a := spdmAnswer (s.modl m).mgmt (r 0) (r 1) (r 3)
      exec (.spdmMessage m) s = .next (answerBytes u m (a.1 ++ rest)) ∧ u.mem = s.mem ∧ u.mods = s.mods ∧ (a.2 = false → rest = []) ∧ ∀ b ∈ rest, b < 256)
    ∧ (let g := (s.modl m).mgmt
      let size := [0x33, 0x00]
      ∀ v op : Nat, v = 0x12 ∨ v = 0x13 →
        (∀ code, code ∉ [0x81, 0x82, 0x83, 0x84, 0xE0, 0xE1, 0xE3, 0xE4, 0xE5] → spdmAnswer g v code op = ([v, 0x7F, 0x07, code], false))
        ∧ (1 ≤ op → op ≤ 4 → ∃ kind, spdmAnswer g v 0xE0 op =
          ([v, 0x60, 0, 0, 1, 0x37, 0, 0] ++ [op, 1] ++ size ++ [kind, 0x30, 0] ++ numBytes 48 (g.meas.getD (op - 1) 0).toNat, true)))
    ∧ ((s.modl m).mgmt.cmd = some 2 → exec (.readErrorLog m) s = .next (answerBytes s m (dwordBytes ([(s.modl m).log.length, (s.modl m).logDrops]
      ++ (((s.modl m).log.drop (requestN s m 8 8)).take 126).flatMap LogRec.words))))
    ∧ ((s.modl m).mgmt.cmd = some 3 → ∀ p, haltedStrand s m = some p → ∃ bs, exec (.readHaltedState m) s = .next (answerBytes s m bs)
      ∧ bs.length ≤ 0xE000
      ∧ (requestN s m 16 8 = 0 → ∃ full marks rest, bs = dwordBytes ([(s.strand p).pc.toNat, full, marks]
        ++ (List.range 36).map (fun k => ((s.strand p).cell k).val.toNat) ++ rest))
      ∧ ∀ j, j < 32 → requestN s m 16 8 = j + 1 → let v := mget VReg.zero (s.core (coreOf p)).v j
        bs = dwordBytes [v.full.toNat, v.poison.toNat] ++ numBytes 2048 v.val.toNat)
    ∧ ((s.modl m).mgmt.cmd = some 4 → ∀ p, haltedStrand s m = some p → exec (.resumeHaltedStrand m) s =
      .next (answerFree ((s.updStrand p (fun st => { st with pc := st.seqNext, run := .active })).updMgmt m (fun g => { g with halts := g.halts.erase (p % 384) })) m))
    ∧ ((s.modl m).mgmt.cmd = some 5 → let w := requestN s m 8 8
      exec (.setPowerCap m) s = .next (answerFree (if 1200 ≤ w ∧ w ≤ 3300 then s.updMgmt m (fun g => { g with cap := w }) else s) m))
    ∧ ((s.modl m).mgmt.cmd = some 6 → exec (.readSensors m) s = .next (answerFree s m))
    ∧ ((s.modl m).mgmt.cmd = some 7 → exec (.raiseSecurityVersion m) s = .next (answerFree
      (if (s.modl m).mgmt.boot = 2 ∧ (s.modl m).mgmt.asker < 1024 ∧ (accessEntry s m 5 (s.modl m).mgmt.asker).getLsbD 4 = true
       then s.updMgmt m (fun g => { g with minVersion := Nat.max g.minVersion g.version }) else s) m))
    ∧ (∀ (bs : List Nat), s.mem.wf = true → (∀ b ∈ bs, b < 256) → bs.length ≤ 4096 → let t := answerBytes s m bs
      t.mem.readN (mboxAt m 0) 1 = 0 ∧ (t.modl m).mgmt.cmd = none ∧ ∀ i b, bs[i]? = some b → t.mem.byte (mboxAt m (0x2000 + i)) = BitVec.ofNat 8 b)

/-- 24 R390: at a limit of temperature or current issue is held until the hold ends; a shutdown powers down the dies of the module, with their strands and
cores, and is logged: their memory delivers poison. -/
def Sys2Proof.Claim.Thermal : Prop :=
  ∀ (s : State) (m : Nat),
    (∃ u, exec (.thermalThrottle m) s = .next u ∧ (u.modl m).mgmt.throttled = true ∧ u.strands = s.strands ∧ u.mem = s.mem
      ∧ (moduleOf s.cur = m → issueHeld u = true))
    ∧ (∃ u, exec (.throttleRelease m) s = .next u ∧ (u.modl m).mgmt.throttled = false ∧ u.strands = s.strands ∧ u.mem = s.mem)
    ∧ (∃ u, exec (.thermalShutdown m) s = .next u ∧ (u.modl m).mgmt.down = true ∧ u.mem = s.mem
      ∧ ((s.modl m).log.length < 4096 → (u.modl m).log.length = (s.modl m).log.length + 1)
      ∧ (∀ p, (moduleOf p = m → (u.strand p).run = .off) ∧ (moduleOf p ≠ m → u.strand p = s.strand p))
      ∧ (∀ c, (c / 192 = m → u.core c = Core.reset) ∧ (c / 192 ≠ m → u.core c = s.core c))
      ∧ ∀ d pa n, paModule pa = m → areaOf pa = .die d → (cellRead u pa n).2 = true)

/-- Boot, release, access tables, the mailbox commands, throttling and shutdown. Positions of operands and the layouts of answers are
notes/assumptions/42, SPDM's codes and layouts and the functions behind a boot 59; an unlisted command and the PCIe master are 43, the memory at power-on 2 and
44, boundary scan 49, what a shutdown leaves 60. -/
def Obligations.Management : Prop := Claim.Boot ∧ Claim.Mailbox ∧ Claim.Thermal

/-- 03 R54, 05 R86, 08 R148 to R150, 09 R157, 12 R217, 20 R340, 23 R379, 24 R383: the values at reset that the spec gives. That the matrix queues are empty,
that there are no grids and that no strand has a continuation are the model's choice: notes/assumptions/1. -/
def Obligations.ResetValues : Prop :=
  let s := State.reset
  (∀ p, let st := s.strand p
    st.run = .held ∧ st.status = ⟨true, false, false, false, false, false, false, false⟩ ∧ st.vstate = 0
    ∧ st.vec.ffirst = BitVec.allOnes 96 ∧ st.vec.lfsr = 1 ∧ st.vec.lseed = 1 ∧ st.vec.fflags = 0
    ∧ (∀ j, j < 32 → st.tag j = 13) ∧ st.cfg 25 24 = 2 ∧ st.vec.vslip = 7 ∧ st.vec.spmode = 2 ∧ st.cont = none)
  ∧ (∀ c, (s.core c).vpart = 16 ∧ (∀ t, (s.core c).mx.dsc t = 0x00010F7F) ∧ (s.core c).mx.queue = [] ∧ ∀ n, ((s.core c).mx.slot n).st = 0)
  ∧ (∀ m, (s.modl m).mgmt.boot = 0 ∧ (s.modl m).mgmt.tap = true ∧ (s.modl m).rinse.patrol = 24 ∧ (s.modl m).rinse.cethr = 256 ∧ (s.modl m).hamper.grids = [])

/-- The canonical form of the memories and the order of the outbound path: an invariant, kept by every step whatever the step does. The
canonical form is the model's (notes/assumptions/2). -/
def Obligations.StepKeepsInvariant : Prop :=
  ∀ s t : State, s.Inv → step s = .next t → t.Inv

/-- The invariant holds at reset. -/
def Obligations.ResetInvariant : Prop := State.reset.Inv
end

