-- ==== Sys2Proof/Laws/Maps.lean ====
section
/-! SUPPORT. Maps read back what they were given; every operation on a memory keeps its canonical form and changes the bytes it names. -/
namespace Sys2Proof.Machine

/-! ## Maps -/

theorem mget_mset {α : Type} (d : α) (k : Nat) (x : α) (m : Map α) (j : Nat) : mget d (mset k x m) j = if j = k then x else mget d m j := by
  induction m with
  | nil => simp [mset, mget]
  | cons e m ih =>
    obtain ⟨a, y⟩ := e
    simp only [mset]
    split
    · simp [mget]
    · split
      · next h => subst h; simp only [mget]; split <;> rfl
      · next h => simp only [mget, ih]; split <;> split <;> simp_all
@[simp] theorem mget_mset_self {α : Type} (d : α) (k : Nat) (x : α) (m : Map α) : mget d (mset k x m) k = x := by simp [mget_mset]
theorem mget_mset_ne {α : Type} (d : α) (k j : Nat) (x : α) (m : Map α) (h : j ≠ k) : mget d (mset k x m) j = mget d m j := by
  simp [mget_mset, h]
theorem mset_mset {α : Type} (k : Nat) (x y : α) (m : Map α) : mset k y (mset k x m) = mset k y m := by
  induction m with
  | nil => simp [mset]
  | cons e m ih =>
    obtain ⟨a, z⟩ := e
    by_cases h : k < a
    · simp [mset, h]
    · by_cases h' : k = a
      · subst h'; simp [mset]
      · simp [mset, h, h', ih]
theorem mget_mdel {α : Type} (d : α) (k : Nat) (m : Map α) (j : Nat) : mget d (mdel k m) j = if j = k then d else mget d m j := by
  induction m with
  | nil => simp [mdel, mget]
  | cons e m ih =>
    obtain ⟨a, y⟩ := e
    by_cases h : a = k
    · subst h
      simp only [mdel, ne_eq, not_true_eq_false, decide_false, Bool.false_eq_true, not_false_eq_true, List.filter_cons_of_neg] at ih ⊢
      simp only [ih, mget]; split <;> simp_all
    · simp only [mdel, ne_eq, h, not_false_eq_true, decide_true, List.filter_cons_of_pos, mget] at ih ⊢
      simp only [ih]; split <;> split <;> simp_all

/-! ## Memories -/

theorem Memory.wfFrom_mono {lo lo' : Nat} (h : lo' ≤ lo) : ∀ {m : Memory}, Memory.wfFrom lo m = true → Memory.wfFrom lo' m = true
  | [], _ => rfl
  | (a, b) :: m, hm => by simp only [Memory.wfFrom, Bool.and_eq_true, decide_eq_true_eq] at hm ⊢; exact ⟨⟨by omega, hm.1.2⟩, hm.2⟩
theorem Memory.byte_below {lo : Nat} : ∀ {m : Memory}, Memory.wfFrom lo m = true → ∀ a, a < lo → m.byte a = 0
  | [], _, _, _ => rfl
  | (k, b) :: m, hm, a, ha => by
    simp only [Memory.wfFrom, Bool.and_eq_true, decide_eq_true_eq] at hm
    have : a ≠ k := by omega
    simp only [Memory.byte, this, if_false]
    exact Memory.byte_below hm.2 a (by omega)
theorem Memory.put_wfFrom (a : Nat) (b : Byte) : ∀ {lo : Nat} {m : Memory}, lo ≤ a → Memory.wfFrom lo m = true → Memory.wfFrom lo (m.put a b) = true
  | lo, [], h, _ => by simp only [Memory.put]; split <;> simp_all [Memory.wfFrom]
  | lo, (k, x) :: m, h, hm => by
    simp only [Memory.wfFrom, Bool.and_eq_true, decide_eq_true_eq] at hm
    simp only [Memory.put]
    split
    · split
      · simp_all [Memory.wfFrom]
      · simp only [Memory.wfFrom, Bool.and_eq_true, decide_eq_true_eq]
        exact ⟨⟨h, by assumption⟩, ⟨by omega, hm.1.2⟩, hm.2⟩
    · split
      · next hk =>
        subst hk
        split
        · exact Memory.wfFrom_mono (by omega) hm.2
        · simp only [Memory.wfFrom, Bool.and_eq_true, decide_eq_true_eq]; exact ⟨⟨h, by assumption⟩, hm.2⟩
      · simp only [Memory.wfFrom, Bool.and_eq_true, decide_eq_true_eq]
        exact ⟨hm.1, Memory.put_wfFrom a b (by omega) hm.2⟩
/-- A write of a byte keeps the canonical form. -/
theorem Memory.put_wf (a : Nat) (b : Byte) {m : Memory} (h : m.wf = true) : (m.put a b).wf = true := Memory.put_wfFrom a b (Nat.zero_le _) h
/-- A write of any cells keeps the canonical form. -/
theorem Memory.writeCells_wf (cs : List Host.Cell) : ∀ {m : Memory}, m.wf = true → (m.writeCells cs).wf = true := by
  induction cs with
  | nil => exact id
  | cons c cs ih => intro m h; exact ih (Memory.put_wf c.1 c.2 h)
/-- A write of a number keeps the canonical form. -/
theorem Memory.writeN_wf (a n v : Nat) {m : Memory} (h : m.wf = true) : (m.writeN a n v).wf = true := Memory.writeCells_wf _ h
/-- Dropping cells keeps the canonical form. -/
theorem Memory.filter_wfFrom (q : Host.Cell → Bool) : ∀ {lo : Nat} {m : Memory}, Memory.wfFrom lo m = true → Memory.wfFrom lo (m.filter q) = true
  | _, [], _ => rfl
  | lo, (k, x) :: m, hm => by
    simp only [Memory.wfFrom, Bool.and_eq_true, decide_eq_true_eq] at hm
    have ih := Memory.filter_wfFrom q hm.2
    by_cases hq : q (k, x) = true
    · simp only [List.filter_cons_of_pos hq, Memory.wfFrom, Bool.and_eq_true, decide_eq_true_eq]; exact ⟨hm.1, ih⟩
    · rw [List.filter_cons_of_neg hq]; exact Memory.wfFrom_mono (by omega) ih
theorem Memory.filter_wf (q : Host.Cell → Bool) {m : Memory} (h : m.wf = true) : Memory.wf (m.filter q) = true := Memory.filter_wfFrom q h
/-- The memory at reset, which lists nothing, is in the canonical form. -/
theorem Memory.nil_wf : Memory.wf [] = true := rfl
/-- A run of writes keeps the canonical form, whatever each writes. -/
theorem Memory.foldl_wf {β : Type} (f : Memory → β → Memory) (hf : ∀ m b, m.wf = true → (f m b).wf = true) :
    ∀ (bs : List β) {m : Memory}, m.wf = true → (bs.foldl f m).wf = true := by
  intro bs
  induction bs with
  | nil => exact id
  | cons b bs ih => intro m h; exact ih (hf m b h)

/-- Reading a byte after a write of a byte. -/
theorem Memory.byte_put (a : Nat) (b : Byte) (k : Nat) : ∀ {lo : Nat} {m : Memory}, Memory.wfFrom lo m = true →
    (m.put a b).byte k = if k = a then b else m.byte k
  | lo, [], _ => by
    by_cases hb : b = 0
    · subst hb; simp [Memory.put, Memory.byte]
    · rw [show Memory.put a b [] = [(a, b)] from if_neg hb]; rfl
  | lo, (j, x) :: m, hm => by
    simp only [Memory.wfFrom, Bool.and_eq_true, decide_eq_true_eq] at hm
    have low : ∀ i, i < j + 1 → Memory.byte m i = 0 := Memory.byte_below hm.2
    have ih := Memory.byte_put a b k hm.2
    by_cases h1 : a < j
    · by_cases hb : b = 0 <;> by_cases hk : k = a
      · have hkj : k ≠ j := by omega
        have := low k (by omega)
        simp_all [Memory.put, Memory.byte]
      · simp_all [Memory.put, Memory.byte]
      · simp_all [Memory.put, Memory.byte]
      · simp_all [Memory.put, Memory.byte]
    · by_cases h2 : a = j
      · subst h2
        by_cases hb : b = 0 <;> by_cases hk : k = a
        · have := low k (by omega)
          simp_all [Memory.put]
        · simp_all [Memory.put, Memory.byte]
        · simp_all [Memory.put, Memory.byte]
        · simp_all [Memory.put, Memory.byte]
      · simp only [Memory.put, h1, h2, if_false, Memory.byte, ih]
        by_cases hk : k = j
        · have : k ≠ a := by omega
          simp [hk, Ne.symm h2]
        · simp [hk]

end Sys2Proof.Machine
end

