-- ==== Sys2Proof/Laws/State.lean ====
section
/-! SUPPORT. What each update of State leaves in each field, and what the accessors read after it. -/
namespace Sys2Proof.Machine

/-! ## Fields -/

@[simp] theorem State.setStrand_clk (s : State) (p : Nat) (x : Strand) : (s.setStrand p x).clk = s.clk := rfl
@[simp] theorem State.setStrand_fresh (s : State) (p : Nat) (x : Strand) : (s.setStrand p x).fresh = s.fresh := rfl
@[simp] theorem State.setStrand_tokens (s : State) (p : Nat) (x : Strand) : (s.setStrand p x).tokens = s.tokens := rfl
@[simp] theorem State.setStrand_cur (s : State) (p : Nat) (x : Strand) : (s.setStrand p x).cur = s.cur := rfl
@[simp] theorem State.setStrand_sched (s : State) (p : Nat) (x : Strand) : (s.setStrand p x).sched = s.sched := rfl
@[simp] theorem State.setStrand_evTurn (s : State) (p : Nat) (x : Strand) : (s.setStrand p x).evTurn = s.evTurn := rfl
@[simp] theorem State.setStrand_capture (s : State) (p : Nat) (x : Strand) : (s.setStrand p x).capture = s.capture := rfl
@[simp] theorem State.setStrand_agenda (s : State) (p : Nat) (x : Strand) : (s.setStrand p x).agenda = s.agenda := rfl
@[simp] theorem State.setStrand_mem (s : State) (p : Nat) (x : Strand) : (s.setStrand p x).mem = s.mem := rfl
@[simp] theorem State.setStrand_poison (s : State) (p : Nat) (x : Strand) : (s.setStrand p x).poison = s.poison := rfl
@[simp] theorem State.setStrand_tags (s : State) (p : Nat) (x : Strand) : (s.setStrand p x).tags = s.tags := rfl
@[simp] theorem State.setStrand_inbound (s : State) (p : Nat) (x : Strand) : (s.setStrand p x).inbound = s.inbound := rfl
@[simp] theorem State.setStrand_outbound (s : State) (p : Nat) (x : Strand) : (s.setStrand p x).outbound = s.outbound := rfl
@[simp] theorem State.setStrand_merges (s : State) (p : Nat) (x : Strand) : (s.setStrand p x).merges = s.merges := rfl
@[simp] theorem State.setStrand_vers (s : State) (p : Nat) (x : Strand) : (s.setStrand p x).vers = s.vers := rfl
@[simp] theorem State.setStrand_adq (s : State) (p : Nat) (x : Strand) : (s.setStrand p x).adq = s.adq := rfl
@[simp] theorem State.setStrand_homeq (s : State) (p : Nat) (x : Strand) : (s.setStrand p x).homeq = s.homeq := rfl
@[simp] theorem State.setStrand_remote (s : State) (p : Nat) (x : Strand) : (s.setStrand p x).remote = s.remote := rfl
@[simp] theorem State.setStrand_deltas (s : State) (p : Nat) (x : Strand) : (s.setStrand p x).deltas = s.deltas := rfl
@[simp] theorem State.setStrand_xfers (s : State) (p : Nat) (x : Strand) : (s.setStrand p x).xfers = s.xfers := rfl
@[simp] theorem State.setStrand_colls (s : State) (p : Nat) (x : Strand) : (s.setStrand p x).colls = s.colls := rfl
@[simp] theorem State.setStrand_redirect (s : State) (p : Nat) (x : Strand) : (s.setStrand p x).redirect = s.redirect := rfl
@[simp] theorem State.setStrand_replies (s : State) (p : Nat) (x : Strand) : (s.setStrand p x).replies = s.replies := rfl
@[simp] theorem State.setStrand_gap (s : State) (p : Nat) (x : Strand) : (s.setStrand p x).gap = s.gap := rfl
@[simp] theorem State.setStrand_net (s : State) (p : Nat) (x : Strand) : (s.setStrand p x).net = s.net := rfl
@[simp] theorem State.setStrand_transit (s : State) (p : Nat) (x : Strand) : (s.setStrand p x).transit = s.transit := rfl
@[simp] theorem State.setStrand_lost (s : State) (p : Nat) (x : Strand) : (s.setStrand p x).lost = s.lost := rfl
@[simp] theorem State.setStrand_cores (s : State) (p : Nat) (x : Strand) : (s.setStrand p x).cores = s.cores := rfl
@[simp] theorem State.setStrand_mods (s : State) (p : Nat) (x : Strand) : (s.setStrand p x).mods = s.mods := rfl

@[simp] theorem State.setCore_clk (s : State) (c : Nat) (x : Core) : (s.setCore c x).clk = s.clk := rfl
@[simp] theorem State.setCore_fresh (s : State) (c : Nat) (x : Core) : (s.setCore c x).fresh = s.fresh := rfl
@[simp] theorem State.setCore_tokens (s : State) (c : Nat) (x : Core) : (s.setCore c x).tokens = s.tokens := rfl
@[simp] theorem State.setCore_cur (s : State) (c : Nat) (x : Core) : (s.setCore c x).cur = s.cur := rfl
@[simp] theorem State.setCore_sched (s : State) (c : Nat) (x : Core) : (s.setCore c x).sched = s.sched := rfl
@[simp] theorem State.setCore_evTurn (s : State) (c : Nat) (x : Core) : (s.setCore c x).evTurn = s.evTurn := rfl
@[simp] theorem State.setCore_capture (s : State) (c : Nat) (x : Core) : (s.setCore c x).capture = s.capture := rfl
@[simp] theorem State.setCore_agenda (s : State) (c : Nat) (x : Core) : (s.setCore c x).agenda = s.agenda := rfl
@[simp] theorem State.setCore_mem (s : State) (c : Nat) (x : Core) : (s.setCore c x).mem = s.mem := rfl
@[simp] theorem State.setCore_poison (s : State) (c : Nat) (x : Core) : (s.setCore c x).poison = s.poison := rfl
@[simp] theorem State.setCore_tags (s : State) (c : Nat) (x : Core) : (s.setCore c x).tags = s.tags := rfl
@[simp] theorem State.setCore_inbound (s : State) (c : Nat) (x : Core) : (s.setCore c x).inbound = s.inbound := rfl
@[simp] theorem State.setCore_outbound (s : State) (c : Nat) (x : Core) : (s.setCore c x).outbound = s.outbound := rfl
@[simp] theorem State.setCore_merges (s : State) (c : Nat) (x : Core) : (s.setCore c x).merges = s.merges := rfl
@[simp] theorem State.setCore_vers (s : State) (c : Nat) (x : Core) : (s.setCore c x).vers = s.vers := rfl
@[simp] theorem State.setCore_adq (s : State) (c : Nat) (x : Core) : (s.setCore c x).adq = s.adq := rfl
@[simp] theorem State.setCore_homeq (s : State) (c : Nat) (x : Core) : (s.setCore c x).homeq = s.homeq := rfl
@[simp] theorem State.setCore_remote (s : State) (c : Nat) (x : Core) : (s.setCore c x).remote = s.remote := rfl
@[simp] theorem State.setCore_deltas (s : State) (c : Nat) (x : Core) : (s.setCore c x).deltas = s.deltas := rfl
@[simp] theorem State.setCore_xfers (s : State) (c : Nat) (x : Core) : (s.setCore c x).xfers = s.xfers := rfl
@[simp] theorem State.setCore_colls (s : State) (c : Nat) (x : Core) : (s.setCore c x).colls = s.colls := rfl
@[simp] theorem State.setCore_redirect (s : State) (c : Nat) (x : Core) : (s.setCore c x).redirect = s.redirect := rfl
@[simp] theorem State.setCore_replies (s : State) (c : Nat) (x : Core) : (s.setCore c x).replies = s.replies := rfl
@[simp] theorem State.setCore_gap (s : State) (c : Nat) (x : Core) : (s.setCore c x).gap = s.gap := rfl
@[simp] theorem State.setCore_net (s : State) (c : Nat) (x : Core) : (s.setCore c x).net = s.net := rfl
@[simp] theorem State.setCore_transit (s : State) (c : Nat) (x : Core) : (s.setCore c x).transit = s.transit := rfl
@[simp] theorem State.setCore_lost (s : State) (c : Nat) (x : Core) : (s.setCore c x).lost = s.lost := rfl
@[simp] theorem State.setCore_strands (s : State) (c : Nat) (x : Core) : (s.setCore c x).strands = s.strands := rfl
@[simp] theorem State.setCore_mods (s : State) (c : Nat) (x : Core) : (s.setCore c x).mods = s.mods := rfl

@[simp] theorem State.setMod_clk (s : State) (m : Nat) (x : Module) : (s.setMod m x).clk = s.clk := rfl
@[simp] theorem State.setMod_fresh (s : State) (m : Nat) (x : Module) : (s.setMod m x).fresh = s.fresh := rfl
@[simp] theorem State.setMod_tokens (s : State) (m : Nat) (x : Module) : (s.setMod m x).tokens = s.tokens := rfl
@[simp] theorem State.setMod_cur (s : State) (m : Nat) (x : Module) : (s.setMod m x).cur = s.cur := rfl
@[simp] theorem State.setMod_sched (s : State) (m : Nat) (x : Module) : (s.setMod m x).sched = s.sched := rfl
@[simp] theorem State.setMod_evTurn (s : State) (m : Nat) (x : Module) : (s.setMod m x).evTurn = s.evTurn := rfl
@[simp] theorem State.setMod_capture (s : State) (m : Nat) (x : Module) : (s.setMod m x).capture = s.capture := rfl
@[simp] theorem State.setMod_agenda (s : State) (m : Nat) (x : Module) : (s.setMod m x).agenda = s.agenda := rfl
@[simp] theorem State.setMod_mem (s : State) (m : Nat) (x : Module) : (s.setMod m x).mem = s.mem := rfl
@[simp] theorem State.setMod_poison (s : State) (m : Nat) (x : Module) : (s.setMod m x).poison = s.poison := rfl
@[simp] theorem State.setMod_tags (s : State) (m : Nat) (x : Module) : (s.setMod m x).tags = s.tags := rfl
@[simp] theorem State.setMod_inbound (s : State) (m : Nat) (x : Module) : (s.setMod m x).inbound = s.inbound := rfl
@[simp] theorem State.setMod_outbound (s : State) (m : Nat) (x : Module) : (s.setMod m x).outbound = s.outbound := rfl
@[simp] theorem State.setMod_merges (s : State) (m : Nat) (x : Module) : (s.setMod m x).merges = s.merges := rfl
@[simp] theorem State.setMod_vers (s : State) (m : Nat) (x : Module) : (s.setMod m x).vers = s.vers := rfl
@[simp] theorem State.setMod_adq (s : State) (m : Nat) (x : Module) : (s.setMod m x).adq = s.adq := rfl
@[simp] theorem State.setMod_homeq (s : State) (m : Nat) (x : Module) : (s.setMod m x).homeq = s.homeq := rfl
@[simp] theorem State.setMod_remote (s : State) (m : Nat) (x : Module) : (s.setMod m x).remote = s.remote := rfl
@[simp] theorem State.setMod_deltas (s : State) (m : Nat) (x : Module) : (s.setMod m x).deltas = s.deltas := rfl
@[simp] theorem State.setMod_xfers (s : State) (m : Nat) (x : Module) : (s.setMod m x).xfers = s.xfers := rfl
@[simp] theorem State.setMod_colls (s : State) (m : Nat) (x : Module) : (s.setMod m x).colls = s.colls := rfl
@[simp] theorem State.setMod_redirect (s : State) (m : Nat) (x : Module) : (s.setMod m x).redirect = s.redirect := rfl
@[simp] theorem State.setMod_replies (s : State) (m : Nat) (x : Module) : (s.setMod m x).replies = s.replies := rfl
@[simp] theorem State.setMod_gap (s : State) (m : Nat) (x : Module) : (s.setMod m x).gap = s.gap := rfl
@[simp] theorem State.setMod_net (s : State) (m : Nat) (x : Module) : (s.setMod m x).net = s.net := rfl
@[simp] theorem State.setMod_transit (s : State) (m : Nat) (x : Module) : (s.setMod m x).transit = s.transit := rfl
@[simp] theorem State.setMod_lost (s : State) (m : Nat) (x : Module) : (s.setMod m x).lost = s.lost := rfl
@[simp] theorem State.setMod_strands (s : State) (m : Nat) (x : Module) : (s.setMod m x).strands = s.strands := rfl
@[simp] theorem State.setMod_cores (s : State) (m : Nat) (x : Module) : (s.setMod m x).cores = s.cores := rfl

@[simp] theorem State.updStrand_clk (s : State) (p : Nat) (f : Strand → Strand) : (s.updStrand p f).clk = s.clk := rfl
@[simp] theorem State.updStrand_fresh (s : State) (p : Nat) (f : Strand → Strand) : (s.updStrand p f).fresh = s.fresh := rfl
@[simp] theorem State.updStrand_tokens (s : State) (p : Nat) (f : Strand → Strand) : (s.updStrand p f).tokens = s.tokens := rfl
@[simp] theorem State.updStrand_cur (s : State) (p : Nat) (f : Strand → Strand) : (s.updStrand p f).cur = s.cur := rfl
@[simp] theorem State.updStrand_sched (s : State) (p : Nat) (f : Strand → Strand) : (s.updStrand p f).sched = s.sched := rfl
@[simp] theorem State.updStrand_evTurn (s : State) (p : Nat) (f : Strand → Strand) : (s.updStrand p f).evTurn = s.evTurn := rfl
@[simp] theorem State.updStrand_capture (s : State) (p : Nat) (f : Strand → Strand) : (s.updStrand p f).capture = s.capture := rfl
@[simp] theorem State.updStrand_agenda (s : State) (p : Nat) (f : Strand → Strand) : (s.updStrand p f).agenda = s.agenda := rfl
@[simp] theorem State.updStrand_mem (s : State) (p : Nat) (f : Strand → Strand) : (s.updStrand p f).mem = s.mem := rfl
@[simp] theorem State.updStrand_poison (s : State) (p : Nat) (f : Strand → Strand) : (s.updStrand p f).poison = s.poison := rfl
@[simp] theorem State.updStrand_tags (s : State) (p : Nat) (f : Strand → Strand) : (s.updStrand p f).tags = s.tags := rfl
@[simp] theorem State.updStrand_inbound (s : State) (p : Nat) (f : Strand → Strand) : (s.updStrand p f).inbound = s.inbound := rfl
@[simp] theorem State.updStrand_outbound (s : State) (p : Nat) (f : Strand → Strand) : (s.updStrand p f).outbound = s.outbound := rfl
@[simp] theorem State.updStrand_merges (s : State) (p : Nat) (f : Strand → Strand) : (s.updStrand p f).merges = s.merges := rfl
@[simp] theorem State.updStrand_vers (s : State) (p : Nat) (f : Strand → Strand) : (s.updStrand p f).vers = s.vers := rfl
@[simp] theorem State.updStrand_adq (s : State) (p : Nat) (f : Strand → Strand) : (s.updStrand p f).adq = s.adq := rfl
@[simp] theorem State.updStrand_homeq (s : State) (p : Nat) (f : Strand → Strand) : (s.updStrand p f).homeq = s.homeq := rfl
@[simp] theorem State.updStrand_remote (s : State) (p : Nat) (f : Strand → Strand) : (s.updStrand p f).remote = s.remote := rfl
@[simp] theorem State.updStrand_deltas (s : State) (p : Nat) (f : Strand → Strand) : (s.updStrand p f).deltas = s.deltas := rfl
@[simp] theorem State.updStrand_xfers (s : State) (p : Nat) (f : Strand → Strand) : (s.updStrand p f).xfers = s.xfers := rfl
@[simp] theorem State.updStrand_colls (s : State) (p : Nat) (f : Strand → Strand) : (s.updStrand p f).colls = s.colls := rfl
@[simp] theorem State.updStrand_redirect (s : State) (p : Nat) (f : Strand → Strand) : (s.updStrand p f).redirect = s.redirect := rfl
@[simp] theorem State.updStrand_replies (s : State) (p : Nat) (f : Strand → Strand) : (s.updStrand p f).replies = s.replies := rfl
@[simp] theorem State.updStrand_gap (s : State) (p : Nat) (f : Strand → Strand) : (s.updStrand p f).gap = s.gap := rfl
@[simp] theorem State.updStrand_net (s : State) (p : Nat) (f : Strand → Strand) : (s.updStrand p f).net = s.net := rfl
@[simp] theorem State.updStrand_transit (s : State) (p : Nat) (f : Strand → Strand) : (s.updStrand p f).transit = s.transit := rfl
@[simp] theorem State.updStrand_lost (s : State) (p : Nat) (f : Strand → Strand) : (s.updStrand p f).lost = s.lost := rfl
@[simp] theorem State.updStrand_cores (s : State) (p : Nat) (f : Strand → Strand) : (s.updStrand p f).cores = s.cores := rfl
@[simp] theorem State.updStrand_mods (s : State) (p : Nat) (f : Strand → Strand) : (s.updStrand p f).mods = s.mods := rfl

@[simp] theorem State.updCore_clk (s : State) (c : Nat) (f : Core → Core) : (s.updCore c f).clk = s.clk := rfl
@[simp] theorem State.updCore_fresh (s : State) (c : Nat) (f : Core → Core) : (s.updCore c f).fresh = s.fresh := rfl
@[simp] theorem State.updCore_tokens (s : State) (c : Nat) (f : Core → Core) : (s.updCore c f).tokens = s.tokens := rfl
@[simp] theorem State.updCore_cur (s : State) (c : Nat) (f : Core → Core) : (s.updCore c f).cur = s.cur := rfl
@[simp] theorem State.updCore_sched (s : State) (c : Nat) (f : Core → Core) : (s.updCore c f).sched = s.sched := rfl
@[simp] theorem State.updCore_evTurn (s : State) (c : Nat) (f : Core → Core) : (s.updCore c f).evTurn = s.evTurn := rfl
@[simp] theorem State.updCore_capture (s : State) (c : Nat) (f : Core → Core) : (s.updCore c f).capture = s.capture := rfl
@[simp] theorem State.updCore_agenda (s : State) (c : Nat) (f : Core → Core) : (s.updCore c f).agenda = s.agenda := rfl
@[simp] theorem State.updCore_mem (s : State) (c : Nat) (f : Core → Core) : (s.updCore c f).mem = s.mem := rfl
@[simp] theorem State.updCore_poison (s : State) (c : Nat) (f : Core → Core) : (s.updCore c f).poison = s.poison := rfl
@[simp] theorem State.updCore_tags (s : State) (c : Nat) (f : Core → Core) : (s.updCore c f).tags = s.tags := rfl
@[simp] theorem State.updCore_inbound (s : State) (c : Nat) (f : Core → Core) : (s.updCore c f).inbound = s.inbound := rfl
@[simp] theorem State.updCore_outbound (s : State) (c : Nat) (f : Core → Core) : (s.updCore c f).outbound = s.outbound := rfl
@[simp] theorem State.updCore_merges (s : State) (c : Nat) (f : Core → Core) : (s.updCore c f).merges = s.merges := rfl
@[simp] theorem State.updCore_vers (s : State) (c : Nat) (f : Core → Core) : (s.updCore c f).vers = s.vers := rfl
@[simp] theorem State.updCore_adq (s : State) (c : Nat) (f : Core → Core) : (s.updCore c f).adq = s.adq := rfl
@[simp] theorem State.updCore_homeq (s : State) (c : Nat) (f : Core → Core) : (s.updCore c f).homeq = s.homeq := rfl
@[simp] theorem State.updCore_remote (s : State) (c : Nat) (f : Core → Core) : (s.updCore c f).remote = s.remote := rfl
@[simp] theorem State.updCore_deltas (s : State) (c : Nat) (f : Core → Core) : (s.updCore c f).deltas = s.deltas := rfl
@[simp] theorem State.updCore_xfers (s : State) (c : Nat) (f : Core → Core) : (s.updCore c f).xfers = s.xfers := rfl
@[simp] theorem State.updCore_colls (s : State) (c : Nat) (f : Core → Core) : (s.updCore c f).colls = s.colls := rfl
@[simp] theorem State.updCore_redirect (s : State) (c : Nat) (f : Core → Core) : (s.updCore c f).redirect = s.redirect := rfl
@[simp] theorem State.updCore_replies (s : State) (c : Nat) (f : Core → Core) : (s.updCore c f).replies = s.replies := rfl
@[simp] theorem State.updCore_gap (s : State) (c : Nat) (f : Core → Core) : (s.updCore c f).gap = s.gap := rfl
@[simp] theorem State.updCore_net (s : State) (c : Nat) (f : Core → Core) : (s.updCore c f).net = s.net := rfl
@[simp] theorem State.updCore_transit (s : State) (c : Nat) (f : Core → Core) : (s.updCore c f).transit = s.transit := rfl
@[simp] theorem State.updCore_lost (s : State) (c : Nat) (f : Core → Core) : (s.updCore c f).lost = s.lost := rfl
@[simp] theorem State.updCore_strands (s : State) (c : Nat) (f : Core → Core) : (s.updCore c f).strands = s.strands := rfl
@[simp] theorem State.updCore_mods (s : State) (c : Nat) (f : Core → Core) : (s.updCore c f).mods = s.mods := rfl

@[simp] theorem State.updMod_clk (s : State) (m : Nat) (f : Module → Module) : (s.updMod m f).clk = s.clk := rfl
@[simp] theorem State.updMod_fresh (s : State) (m : Nat) (f : Module → Module) : (s.updMod m f).fresh = s.fresh := rfl
@[simp] theorem State.updMod_tokens (s : State) (m : Nat) (f : Module → Module) : (s.updMod m f).tokens = s.tokens := rfl
@[simp] theorem State.updMod_cur (s : State) (m : Nat) (f : Module → Module) : (s.updMod m f).cur = s.cur := rfl
@[simp] theorem State.updMod_sched (s : State) (m : Nat) (f : Module → Module) : (s.updMod m f).sched = s.sched := rfl
@[simp] theorem State.updMod_evTurn (s : State) (m : Nat) (f : Module → Module) : (s.updMod m f).evTurn = s.evTurn := rfl
@[simp] theorem State.updMod_capture (s : State) (m : Nat) (f : Module → Module) : (s.updMod m f).capture = s.capture := rfl
@[simp] theorem State.updMod_agenda (s : State) (m : Nat) (f : Module → Module) : (s.updMod m f).agenda = s.agenda := rfl
@[simp] theorem State.updMod_mem (s : State) (m : Nat) (f : Module → Module) : (s.updMod m f).mem = s.mem := rfl
@[simp] theorem State.updMod_poison (s : State) (m : Nat) (f : Module → Module) : (s.updMod m f).poison = s.poison := rfl
@[simp] theorem State.updMod_tags (s : State) (m : Nat) (f : Module → Module) : (s.updMod m f).tags = s.tags := rfl
@[simp] theorem State.updMod_inbound (s : State) (m : Nat) (f : Module → Module) : (s.updMod m f).inbound = s.inbound := rfl
@[simp] theorem State.updMod_outbound (s : State) (m : Nat) (f : Module → Module) : (s.updMod m f).outbound = s.outbound := rfl
@[simp] theorem State.updMod_merges (s : State) (m : Nat) (f : Module → Module) : (s.updMod m f).merges = s.merges := rfl
@[simp] theorem State.updMod_vers (s : State) (m : Nat) (f : Module → Module) : (s.updMod m f).vers = s.vers := rfl
@[simp] theorem State.updMod_adq (s : State) (m : Nat) (f : Module → Module) : (s.updMod m f).adq = s.adq := rfl
@[simp] theorem State.updMod_homeq (s : State) (m : Nat) (f : Module → Module) : (s.updMod m f).homeq = s.homeq := rfl
@[simp] theorem State.updMod_remote (s : State) (m : Nat) (f : Module → Module) : (s.updMod m f).remote = s.remote := rfl
@[simp] theorem State.updMod_deltas (s : State) (m : Nat) (f : Module → Module) : (s.updMod m f).deltas = s.deltas := rfl
@[simp] theorem State.updMod_xfers (s : State) (m : Nat) (f : Module → Module) : (s.updMod m f).xfers = s.xfers := rfl
@[simp] theorem State.updMod_colls (s : State) (m : Nat) (f : Module → Module) : (s.updMod m f).colls = s.colls := rfl
@[simp] theorem State.updMod_redirect (s : State) (m : Nat) (f : Module → Module) : (s.updMod m f).redirect = s.redirect := rfl
@[simp] theorem State.updMod_replies (s : State) (m : Nat) (f : Module → Module) : (s.updMod m f).replies = s.replies := rfl
@[simp] theorem State.updMod_gap (s : State) (m : Nat) (f : Module → Module) : (s.updMod m f).gap = s.gap := rfl
@[simp] theorem State.updMod_net (s : State) (m : Nat) (f : Module → Module) : (s.updMod m f).net = s.net := rfl
@[simp] theorem State.updMod_transit (s : State) (m : Nat) (f : Module → Module) : (s.updMod m f).transit = s.transit := rfl
@[simp] theorem State.updMod_lost (s : State) (m : Nat) (f : Module → Module) : (s.updMod m f).lost = s.lost := rfl
@[simp] theorem State.updMod_strands (s : State) (m : Nat) (f : Module → Module) : (s.updMod m f).strands = s.strands := rfl
@[simp] theorem State.updMod_cores (s : State) (m : Nat) (f : Module → Module) : (s.updMod m f).cores = s.cores := rfl

@[simp] theorem State.updMe_clk (s : State) (f : Strand → Strand) : (s.updMe f).clk = s.clk := rfl
@[simp] theorem State.updMe_fresh (s : State) (f : Strand → Strand) : (s.updMe f).fresh = s.fresh := rfl
@[simp] theorem State.updMe_tokens (s : State) (f : Strand → Strand) : (s.updMe f).tokens = s.tokens := rfl
@[simp] theorem State.updMe_cur (s : State) (f : Strand → Strand) : (s.updMe f).cur = s.cur := rfl
@[simp] theorem State.updMe_sched (s : State) (f : Strand → Strand) : (s.updMe f).sched = s.sched := rfl
@[simp] theorem State.updMe_evTurn (s : State) (f : Strand → Strand) : (s.updMe f).evTurn = s.evTurn := rfl
@[simp] theorem State.updMe_capture (s : State) (f : Strand → Strand) : (s.updMe f).capture = s.capture := rfl
@[simp] theorem State.updMe_agenda (s : State) (f : Strand → Strand) : (s.updMe f).agenda = s.agenda := rfl
@[simp] theorem State.updMe_mem (s : State) (f : Strand → Strand) : (s.updMe f).mem = s.mem := rfl
@[simp] theorem State.updMe_poison (s : State) (f : Strand → Strand) : (s.updMe f).poison = s.poison := rfl
@[simp] theorem State.updMe_tags (s : State) (f : Strand → Strand) : (s.updMe f).tags = s.tags := rfl
@[simp] theorem State.updMe_inbound (s : State) (f : Strand → Strand) : (s.updMe f).inbound = s.inbound := rfl
@[simp] theorem State.updMe_outbound (s : State) (f : Strand → Strand) : (s.updMe f).outbound = s.outbound := rfl
@[simp] theorem State.updMe_merges (s : State) (f : Strand → Strand) : (s.updMe f).merges = s.merges := rfl
@[simp] theorem State.updMe_vers (s : State) (f : Strand → Strand) : (s.updMe f).vers = s.vers := rfl
@[simp] theorem State.updMe_adq (s : State) (f : Strand → Strand) : (s.updMe f).adq = s.adq := rfl
@[simp] theorem State.updMe_homeq (s : State) (f : Strand → Strand) : (s.updMe f).homeq = s.homeq := rfl
@[simp] theorem State.updMe_remote (s : State) (f : Strand → Strand) : (s.updMe f).remote = s.remote := rfl
@[simp] theorem State.updMe_deltas (s : State) (f : Strand → Strand) : (s.updMe f).deltas = s.deltas := rfl
@[simp] theorem State.updMe_xfers (s : State) (f : Strand → Strand) : (s.updMe f).xfers = s.xfers := rfl
@[simp] theorem State.updMe_colls (s : State) (f : Strand → Strand) : (s.updMe f).colls = s.colls := rfl
@[simp] theorem State.updMe_redirect (s : State) (f : Strand → Strand) : (s.updMe f).redirect = s.redirect := rfl
@[simp] theorem State.updMe_replies (s : State) (f : Strand → Strand) : (s.updMe f).replies = s.replies := rfl
@[simp] theorem State.updMe_gap (s : State) (f : Strand → Strand) : (s.updMe f).gap = s.gap := rfl
@[simp] theorem State.updMe_net (s : State) (f : Strand → Strand) : (s.updMe f).net = s.net := rfl
@[simp] theorem State.updMe_transit (s : State) (f : Strand → Strand) : (s.updMe f).transit = s.transit := rfl
@[simp] theorem State.updMe_lost (s : State) (f : Strand → Strand) : (s.updMe f).lost = s.lost := rfl
@[simp] theorem State.updMe_cores (s : State) (f : Strand → Strand) : (s.updMe f).cores = s.cores := rfl
@[simp] theorem State.updMe_mods (s : State) (f : Strand → Strand) : (s.updMe f).mods = s.mods := rfl

@[simp] theorem State.setS_clk (s : State) (n : Reg) (v : Word) : (s.setS n v).clk = s.clk := rfl
@[simp] theorem State.setS_fresh (s : State) (n : Reg) (v : Word) : (s.setS n v).fresh = s.fresh := rfl
@[simp] theorem State.setS_tokens (s : State) (n : Reg) (v : Word) : (s.setS n v).tokens = s.tokens := rfl
@[simp] theorem State.setS_cur (s : State) (n : Reg) (v : Word) : (s.setS n v).cur = s.cur := rfl
@[simp] theorem State.setS_sched (s : State) (n : Reg) (v : Word) : (s.setS n v).sched = s.sched := rfl
@[simp] theorem State.setS_evTurn (s : State) (n : Reg) (v : Word) : (s.setS n v).evTurn = s.evTurn := rfl
@[simp] theorem State.setS_capture (s : State) (n : Reg) (v : Word) : (s.setS n v).capture = s.capture := rfl
@[simp] theorem State.setS_agenda (s : State) (n : Reg) (v : Word) : (s.setS n v).agenda = s.agenda := rfl
@[simp] theorem State.setS_mem (s : State) (n : Reg) (v : Word) : (s.setS n v).mem = s.mem := rfl
@[simp] theorem State.setS_poison (s : State) (n : Reg) (v : Word) : (s.setS n v).poison = s.poison := rfl
@[simp] theorem State.setS_tags (s : State) (n : Reg) (v : Word) : (s.setS n v).tags = s.tags := rfl
@[simp] theorem State.setS_inbound (s : State) (n : Reg) (v : Word) : (s.setS n v).inbound = s.inbound := rfl
@[simp] theorem State.setS_outbound (s : State) (n : Reg) (v : Word) : (s.setS n v).outbound = s.outbound := rfl
@[simp] theorem State.setS_merges (s : State) (n : Reg) (v : Word) : (s.setS n v).merges = s.merges := rfl
@[simp] theorem State.setS_vers (s : State) (n : Reg) (v : Word) : (s.setS n v).vers = s.vers := rfl
@[simp] theorem State.setS_adq (s : State) (n : Reg) (v : Word) : (s.setS n v).adq = s.adq := rfl
@[simp] theorem State.setS_homeq (s : State) (n : Reg) (v : Word) : (s.setS n v).homeq = s.homeq := rfl
@[simp] theorem State.setS_remote (s : State) (n : Reg) (v : Word) : (s.setS n v).remote = s.remote := rfl
@[simp] theorem State.setS_deltas (s : State) (n : Reg) (v : Word) : (s.setS n v).deltas = s.deltas := rfl
@[simp] theorem State.setS_xfers (s : State) (n : Reg) (v : Word) : (s.setS n v).xfers = s.xfers := rfl
@[simp] theorem State.setS_colls (s : State) (n : Reg) (v : Word) : (s.setS n v).colls = s.colls := rfl
@[simp] theorem State.setS_redirect (s : State) (n : Reg) (v : Word) : (s.setS n v).redirect = s.redirect := rfl
@[simp] theorem State.setS_replies (s : State) (n : Reg) (v : Word) : (s.setS n v).replies = s.replies := rfl
@[simp] theorem State.setS_gap (s : State) (n : Reg) (v : Word) : (s.setS n v).gap = s.gap := rfl
@[simp] theorem State.setS_net (s : State) (n : Reg) (v : Word) : (s.setS n v).net = s.net := rfl
@[simp] theorem State.setS_transit (s : State) (n : Reg) (v : Word) : (s.setS n v).transit = s.transit := rfl
@[simp] theorem State.setS_lost (s : State) (n : Reg) (v : Word) : (s.setS n v).lost = s.lost := rfl
@[simp] theorem State.setS_cores (s : State) (n : Reg) (v : Word) : (s.setS n v).cores = s.cores := rfl
@[simp] theorem State.setS_mods (s : State) (n : Reg) (v : Word) : (s.setS n v).mods = s.mods := rfl

@[simp] theorem State.post_clk (s : State) (i : Instr) : (s.post i).clk = s.clk := rfl
@[simp] theorem State.post_fresh (s : State) (i : Instr) : (s.post i).fresh = s.fresh := rfl
@[simp] theorem State.post_tokens (s : State) (i : Instr) : (s.post i).tokens = s.tokens := rfl
@[simp] theorem State.post_cur (s : State) (i : Instr) : (s.post i).cur = s.cur := rfl
@[simp] theorem State.post_sched (s : State) (i : Instr) : (s.post i).sched = s.sched := rfl
@[simp] theorem State.post_evTurn (s : State) (i : Instr) : (s.post i).evTurn = s.evTurn := rfl
@[simp] theorem State.post_capture (s : State) (i : Instr) : (s.post i).capture = s.capture := rfl
@[simp] theorem State.post_mem (s : State) (i : Instr) : (s.post i).mem = s.mem := rfl
@[simp] theorem State.post_poison (s : State) (i : Instr) : (s.post i).poison = s.poison := rfl
@[simp] theorem State.post_tags (s : State) (i : Instr) : (s.post i).tags = s.tags := rfl
@[simp] theorem State.post_inbound (s : State) (i : Instr) : (s.post i).inbound = s.inbound := rfl
@[simp] theorem State.post_outbound (s : State) (i : Instr) : (s.post i).outbound = s.outbound := rfl
@[simp] theorem State.post_merges (s : State) (i : Instr) : (s.post i).merges = s.merges := rfl
@[simp] theorem State.post_vers (s : State) (i : Instr) : (s.post i).vers = s.vers := rfl
@[simp] theorem State.post_adq (s : State) (i : Instr) : (s.post i).adq = s.adq := rfl
@[simp] theorem State.post_homeq (s : State) (i : Instr) : (s.post i).homeq = s.homeq := rfl
@[simp] theorem State.post_remote (s : State) (i : Instr) : (s.post i).remote = s.remote := rfl
@[simp] theorem State.post_deltas (s : State) (i : Instr) : (s.post i).deltas = s.deltas := rfl
@[simp] theorem State.post_xfers (s : State) (i : Instr) : (s.post i).xfers = s.xfers := rfl
@[simp] theorem State.post_colls (s : State) (i : Instr) : (s.post i).colls = s.colls := rfl
@[simp] theorem State.post_redirect (s : State) (i : Instr) : (s.post i).redirect = s.redirect := rfl
@[simp] theorem State.post_replies (s : State) (i : Instr) : (s.post i).replies = s.replies := rfl
@[simp] theorem State.post_gap (s : State) (i : Instr) : (s.post i).gap = s.gap := rfl
@[simp] theorem State.post_net (s : State) (i : Instr) : (s.post i).net = s.net := rfl
@[simp] theorem State.post_transit (s : State) (i : Instr) : (s.post i).transit = s.transit := rfl
@[simp] theorem State.post_lost (s : State) (i : Instr) : (s.post i).lost = s.lost := rfl
@[simp] theorem State.post_strands (s : State) (i : Instr) : (s.post i).strands = s.strands := rfl
@[simp] theorem State.post_cores (s : State) (i : Instr) : (s.post i).cores = s.cores := rfl
@[simp] theorem State.post_mods (s : State) (i : Instr) : (s.post i).mods = s.mods := rfl

@[simp] theorem State.setTag_clk (s : State) (g : Nat) (t : Tag) : (s.setTag g t).clk = s.clk := rfl
@[simp] theorem State.setTag_fresh (s : State) (g : Nat) (t : Tag) : (s.setTag g t).fresh = s.fresh := rfl
@[simp] theorem State.setTag_tokens (s : State) (g : Nat) (t : Tag) : (s.setTag g t).tokens = s.tokens := rfl
@[simp] theorem State.setTag_cur (s : State) (g : Nat) (t : Tag) : (s.setTag g t).cur = s.cur := rfl
@[simp] theorem State.setTag_sched (s : State) (g : Nat) (t : Tag) : (s.setTag g t).sched = s.sched := rfl
@[simp] theorem State.setTag_evTurn (s : State) (g : Nat) (t : Tag) : (s.setTag g t).evTurn = s.evTurn := rfl
@[simp] theorem State.setTag_capture (s : State) (g : Nat) (t : Tag) : (s.setTag g t).capture = s.capture := rfl
@[simp] theorem State.setTag_agenda (s : State) (g : Nat) (t : Tag) : (s.setTag g t).agenda = s.agenda := rfl
@[simp] theorem State.setTag_mem (s : State) (g : Nat) (t : Tag) : (s.setTag g t).mem = s.mem := rfl
@[simp] theorem State.setTag_poison (s : State) (g : Nat) (t : Tag) : (s.setTag g t).poison = s.poison := rfl
@[simp] theorem State.setTag_inbound (s : State) (g : Nat) (t : Tag) : (s.setTag g t).inbound = s.inbound := rfl
@[simp] theorem State.setTag_outbound (s : State) (g : Nat) (t : Tag) : (s.setTag g t).outbound = s.outbound := rfl
@[simp] theorem State.setTag_merges (s : State) (g : Nat) (t : Tag) : (s.setTag g t).merges = s.merges := rfl
@[simp] theorem State.setTag_vers (s : State) (g : Nat) (t : Tag) : (s.setTag g t).vers = s.vers := rfl
@[simp] theorem State.setTag_adq (s : State) (g : Nat) (t : Tag) : (s.setTag g t).adq = s.adq := rfl
@[simp] theorem State.setTag_homeq (s : State) (g : Nat) (t : Tag) : (s.setTag g t).homeq = s.homeq := rfl
@[simp] theorem State.setTag_remote (s : State) (g : Nat) (t : Tag) : (s.setTag g t).remote = s.remote := rfl
@[simp] theorem State.setTag_deltas (s : State) (g : Nat) (t : Tag) : (s.setTag g t).deltas = s.deltas := rfl
@[simp] theorem State.setTag_xfers (s : State) (g : Nat) (t : Tag) : (s.setTag g t).xfers = s.xfers := rfl
@[simp] theorem State.setTag_colls (s : State) (g : Nat) (t : Tag) : (s.setTag g t).colls = s.colls := rfl
@[simp] theorem State.setTag_redirect (s : State) (g : Nat) (t : Tag) : (s.setTag g t).redirect = s.redirect := rfl
@[simp] theorem State.setTag_replies (s : State) (g : Nat) (t : Tag) : (s.setTag g t).replies = s.replies := rfl
@[simp] theorem State.setTag_gap (s : State) (g : Nat) (t : Tag) : (s.setTag g t).gap = s.gap := rfl
@[simp] theorem State.setTag_net (s : State) (g : Nat) (t : Tag) : (s.setTag g t).net = s.net := rfl
@[simp] theorem State.setTag_transit (s : State) (g : Nat) (t : Tag) : (s.setTag g t).transit = s.transit := rfl
@[simp] theorem State.setTag_lost (s : State) (g : Nat) (t : Tag) : (s.setTag g t).lost = s.lost := rfl
@[simp] theorem State.setTag_strands (s : State) (g : Nat) (t : Tag) : (s.setTag g t).strands = s.strands := rfl
@[simp] theorem State.setTag_cores (s : State) (g : Nat) (t : Tag) : (s.setTag g t).cores = s.cores := rfl
@[simp] theorem State.setTag_mods (s : State) (g : Nat) (t : Tag) : (s.setTag g t).mods = s.mods := rfl

/-! ## Strands, cores, modules and tags after an update -/

theorem State.strand_setStrand (s : State) (p q : Nat) (x : Strand) : (s.setStrand p x).strand q = if q = p then x else s.strand q :=
  mget_mset _ _ _ _ _
theorem State.core_setCore (s : State) (c d : Nat) (x : Core) : (s.setCore c x).core d = if d = c then x else s.core d := mget_mset _ _ _ _ _
theorem State.modl_setMod (s : State) (m n : Nat) (x : Module) : (s.setMod m x).modl n = if n = m then x else s.modl n := mget_mset _ _ _ _ _
theorem State.tag_setTag (s : State) (g h : Nat) (t : Tag) : (s.setTag g t).tag h = if h = g then t else s.tag h := mget_mset _ _ _ _ _
@[simp] theorem State.strand_setStrand_self (s : State) (p : Nat) (x : Strand) : (s.setStrand p x).strand p = x := by
  simp [State.strand_setStrand]
@[simp] theorem State.core_setCore_self (s : State) (c : Nat) (x : Core) : (s.setCore c x).core c = x := by simp [State.core_setCore]
@[simp] theorem State.modl_setMod_self (s : State) (m : Nat) (x : Module) : (s.setMod m x).modl m = x := by simp [State.modl_setMod]
@[simp] theorem State.strand_updStrand_self (s : State) (p : Nat) (f : Strand → Strand) : (s.updStrand p f).strand p = f (s.strand p) := by
  simp [State.updStrand]
@[simp] theorem State.core_updCore_self (s : State) (c : Nat) (f : Core → Core) : (s.updCore c f).core c = f (s.core c) := by
  simp [State.updCore]
@[simp] theorem State.modl_updMod_self (s : State) (m : Nat) (f : Module → Module) : (s.updMod m f).modl m = f (s.modl m) := by
  simp [State.updMod]
@[simp] theorem State.me_updMe (s : State) (f : Strand → Strand) : (s.updMe f).me = f s.me := by simp [State.updMe, State.me]
theorem State.strand_updStrand_ne (s : State) (p q : Nat) (f : Strand → Strand) (h : q ≠ p) : (s.updStrand p f).strand q = s.strand q := by
  simp [State.updStrand, State.strand_setStrand, h]
theorem State.core_updCore_ne (s : State) (c d : Nat) (f : Core → Core) (h : d ≠ c) : (s.updCore c f).core d = s.core d := by
  simp [State.updCore, State.core_setCore, h]
theorem State.modl_updMod_ne (s : State) (m n : Nat) (f : Module → Module) (h : n ≠ m) : (s.updMod m f).modl n = s.modl n := by
  simp [State.updMod, State.modl_setMod, h]
@[simp] theorem State.core_updStrand (s : State) (p c : Nat) (f : Strand → Strand) : (s.updStrand p f).core c = s.core c := rfl
@[simp] theorem State.modl_updStrand (s : State) (p m : Nat) (f : Strand → Strand) : (s.updStrand p f).modl m = s.modl m := rfl
@[simp] theorem State.tag_updStrand (s : State) (p g : Nat) (f : Strand → Strand) : (s.updStrand p f).tag g = s.tag g := rfl
@[simp] theorem State.strand_updCore (s : State) (c p : Nat) (f : Core → Core) : (s.updCore c f).strand p = s.strand p := rfl
@[simp] theorem State.modl_updCore (s : State) (c m : Nat) (f : Core → Core) : (s.updCore c f).modl m = s.modl m := rfl
@[simp] theorem State.strand_updMod (s : State) (m p : Nat) (f : Module → Module) : (s.updMod m f).strand p = s.strand p := rfl
@[simp] theorem State.core_updMod (s : State) (m c : Nat) (f : Module → Module) : (s.updMod m f).core c = s.core c := rfl
@[simp] theorem State.core_updMe (s : State) (c : Nat) (f : Strand → Strand) : (s.updMe f).core c = s.core c := rfl
@[simp] theorem State.mycore_updMe (s : State) (f : Strand → Strand) : (s.updMe f).mycore = s.mycore := rfl
theorem State.strand_updMe_ne (s : State) (p : Nat) (f : Strand → Strand) (h : p ≠ s.cur) : (s.updMe f).strand p = s.strand p :=
  State.strand_updStrand_ne s s.cur p f h
/-- Two updates of one strand are one. -/
theorem State.updStrand_updStrand (s : State) (p : Nat) (f g : Strand → Strand) :
    (s.updStrand p f).updStrand p g = s.updStrand p (fun st => g (f st)) := by
  simp [State.updStrand, State.setStrand, State.strand, mset_mset]

/-! ## Scalar registers (05 R81) -/

theorem Strand.cell_setCell (st : Strand) (k j : Nat) (c : SReg) :
    (st.setCell k c).cell j = if j = k ∧ k ≠ 0 then c else st.cell j := by
  by_cases hk : k = 0 <;> by_cases hj : j = 0 <;> by_cases hjk : j = k <;> simp_all [Strand.setCell, Strand.cell, mget_mset]
@[simp] theorem Strand.setCell_status (st : Strand) (k : Nat) (c : SReg) : (st.setCell k c).status = st.status := by
  unfold Strand.setCell; split <;> rfl
@[simp] theorem Strand.setCell_pc (st : Strand) (k : Nat) (c : SReg) : (st.setCell k c).pc = st.pc := by
  unfold Strand.setCell; split <;> rfl
@[simp] theorem Strand.setS_status (st : Strand) (n : Nat) (v : Word) : (st.setS n v).status = st.status := Strand.setCell_status _ _ _
@[simp] theorem Strand.setS_pc (st : Strand) (n : Nat) (v : Word) : (st.setS n v).pc = st.pc := Strand.setCell_pc _ _ _

end Sys2Proof.Machine
end

