-- ==== Sys2Proof/Laws/Memory.lean ====
section
/-! SUPPORT. Every operation that writes memory or a scratchpad keeps the canonical form; reads and checks leave memory as it was. -/
namespace Sys2Proof.Machine

/-- A fold keeps what each of its steps keeps. -/
theorem foldl_keeps {α β : Type} (P : α → Prop) (f : α → β → α) (h : ∀ a b, P a → P (f a b)) : ∀ (l : List β) (a : α), P a → P (l.foldl f a) := by
  intro l
  induction l with
  | nil => intro a ha; exact ha
  | cons b l ih => intro a ha; exact ih _ (h a b ha)

/-! ## What leaves memory as it was -/

@[simp] theorem logRec_mem (s : State) (m : Nat) (t c : Byte) (u a : Nat) : (s.logRec m t c u a).mem = s.mem := rfl
@[simp] theorem report_mem (s : State) (p : Nat) (q : Byte) (a : Word) : (s.report p q a).mem = s.mem := by
  unfold State.report; split <;> rfl
@[simp] theorem dropCopies_mem (s : State) (g : Nat) (f : Inbound → Bool) : (dropCopies s g f).mem = s.mem := rfl
@[simp] theorem markUnsurv_mem (s : State) (h n t pa : Nat) : (markUnsurv s h n t pa).mem = s.mem := rfl
theorem ite_mem {c : Prop} [Decidable c] {a b s : State} (ha : a.mem = s.mem) (hb : b.mem = s.mem) : (if c then a else b).mem = s.mem := by
  split <;> assumption
@[simp] theorem ringMailbox_mem (s : State) (ep : Nat) (cs : List Host.Cell) : (ringMailbox s ep cs).mem = s.mem := by
  unfold ringMailbox; split
  · split <;> rfl
  · rfl
@[simp] theorem queueFlit_mem (s : State) (m i q k : Nat) : (queueFlit s m i q k).mem = s.mem := by
  unfold queueFlit; dsimp only; exact ite_mem rfl rfl
@[simp] theorem sendMsg_mem (s : State) (m q k : Nat) : (sendMsg s m q k).mem = s.mem := by
  unfold sendMsg
  split
  · rfl
  · split
    · exact ite_mem rfl rfl
    · rw [queueFlit_mem]; exact ite_mem rfl rfl
@[simp] theorem sendFlit_mem (s : State) (m q : Nat) : (sendFlit s m q).mem = s.mem := sendMsg_mem s m q 0
@[simp] theorem sendRequest_mem (s : State) (r pa : Nat) : (sendRequest s r pa).2.mem = s.mem := by unfold sendRequest; exact sendMsg_mem _ _ _ _
@[simp] theorem toHome_mem (s : State) (p pa : Nat) : (toHome s p pa).2.mem = s.mem := sendRequest_mem _ _ _
@[simp] theorem activate_mem (s : State) (m pa : Nat) : (activate s m pa).mem = s.mem := rfl
@[simp] theorem opensRow_mem (s : State) (pa : Nat) : (opensRow s pa).mem = s.mem := rfl
@[simp] theorem opensStripe_mem (s : State) (g : PGroup) (k n o : Nat) : (opensStripe s g k n o).mem = s.mem :=
  foldl_keeps (fun t => t.mem = s.mem) _ (fun _ _ ha => ite_mem ha (by rw [activate_mem]; exact ha)) _ s rfl
@[simp] theorem logTag_mem (s : State) (g : Nat) : (s.logTag g).mem = s.mem := rfl
@[simp] theorem poisonAt_mem (s : State) (pa : Nat) : (poisonAt s pa).mem = s.mem := rfl
@[simp] theorem reportRefused_mem (s : State) (m : Nat) (o : Option Nat) : (reportRefused s m o).mem = s.mem := by unfold reportRefused; split <;> rfl
@[simp] theorem sendDrain_mem (s : State) (r cl : Nat) (cs : List Host.Cell) (ws : List Writer) (d : Bool) : (sendDrain s r cl cs ws d).mem = s.mem := by
  unfold sendDrain
  refine foldl_keeps (fun t => t.mem = s.mem) _ ?_ _ s rfl
  intro t e ht
  dsimp only [State.post]
  rw [sendRequest_mem]
  exact ht
@[simp] theorem delivered_mem (s : State) (k : Nat) : (s.delivered k).mem = s.mem := rfl
@[simp] theorem releaseHeld_mem (s : State) (cl g : Nat) : (releaseHeld s cl g).mem = s.mem := by unfold releaseHeld; exact ite_mem rfl rfl
@[simp] theorem sendDelta_mem (s : State) (d : Delta) (h : Nat) : (sendDelta s d h).mem = s.mem := by
  unfold sendDelta; rw [State.post_mem]; exact sendMsg_mem _ _ _ _
@[simp] theorem hasten_mem (s : State) (cl g : Nat) : (hasten s cl g).mem = s.mem := by unfold hasten; exact ite_mem rfl rfl
@[simp] theorem noteVers_mem (s : State) (a : Acc) : (noteVers s a).mem = s.mem := by unfold noteVers; exact ite_mem rfl rfl
@[simp] theorem demanded_mem (s : State) (p b : Nat) : (demanded s p b).mem = s.mem := by unfold demanded; exact ite_mem rfl rfl

/-! ## What keeps the canonical form of memory -/

/-- Memory is in its canonical form. -/
abbrev MemOk (s : State) : Prop := s.mem.wf = true
theorem MemOk.ite {c : Prop} [Decidable c] {a b : State} (ha : MemOk a) (hb : MemOk b) : MemOk (if c then a else b) := by
  split <;> assumption
theorem MemOk.of_mem {s t : State} (h : MemOk s) (e : t.mem = s.mem) : MemOk t := by unfold MemOk; rw [e]; exact h
theorem dropCopies_wf (s : State) (g : Nat) (f : Inbound → Bool) (h : MemOk s) : MemOk (dropCopies s g f) := h
theorem releaseHeld_wf (s : State) (cl g : Nat) (h : MemOk s) : MemOk (releaseHeld s cl g) := .of_mem h (releaseHeld_mem s cl g)
theorem failWrites_wf (s : State) (ws : List Writer) (h : MemOk s) : MemOk (failWrites s ws) :=
  foldl_keeps MemOk _ (fun _ _ ha => .of_mem ha (report_mem _ _ _ _)) ws s h

theorem foldDelta_wf (s : State) (d : Delta) (b : Bool) (h : MemOk s) : MemOk (foldDelta s d b) := by
  unfold foldDelta
  split
  · exact h
  · dsimp only
    refine .ite (.of_mem h (markUnsurv_mem _ _ _ _ _)) (.ite (.of_mem h ?_) (.ite (.of_mem h ?_) ?_))
    · rw [markUnsurv_mem]; rfl
    · rw [markUnsurv_mem, poisonAt_mem, activate_mem]
    · unfold MemOk
      dsimp only
      exact Memory.writeN_wf _ _ _ h
theorem foldStripe_wf (s : State) (n t : Nat) (h : MemOk s) : MemOk (foldStripe s n t) := by
  unfold foldStripe
  apply foldl_keeps MemOk
  · exact fun a d ha => foldDelta_wf a d false ha
  · exact h
theorem serveDegraded_wf (s : State) (pa : Nat) (h : MemOk s) : MemOk (serveDegraded s pa) := by
  unfold serveDegraded
  split
  · exact h
  · have hr : ∀ (n t m : Nat) (g : PGroup) (k q : Nat) (o : Option Nat), MemOk (reportRefused (opensStripe (foldStripe s n t) g k t q) m o) :=
      fun n t m g k q o => .of_mem (foldStripe_wf s n t h) (by rw [reportRefused_mem, opensStripe_mem])
    exact .ite (.of_mem (hr _ _ _ _ _ _ _) (markUnsurv_mem _ _ _ _ _)) (hr _ _ _ _ _ _ _)
/-- Bytes that enter a home leave memory in its form. -/
theorem homeStore_wf (s : State) (cs : List Host.Cell) (ws : List Writer) (b : Bool) (h : MemOk s) : MemOk (homeStore s cs ws b) := by
  unfold homeStore
  split
  · exact h
  · next c0 _ =>
    have hc := serveDegraded_wf s c0.1 h
    dsimp only
    generalize serveDegraded s c0.1 = v at hc
    have hc : MemOk (activate v (paModule (physOf v c0.1)) (physOf v c0.1)) := .of_mem hc (activate_mem _ _ _)
    generalize physOf v c0.1 = a0 at hc ⊢
    generalize activate v (paModule a0) a0 = u at hc ⊢
    refine .ite ?_ ?_
    · apply foldl_keeps MemOk
      · exact fun a w ha => .of_mem ha (report_mem _ _ _ _)
      · exact dropCopies_wf _ _ _ (.ite hc (.of_mem hc (poisonAt_mem _ _)))
    · have hw : ∀ (c : Bool) (cs' : List Host.Cell) (q : List Nat),
          MemOk (if c = true then u else { u with mem := Memory.writeCells u.mem cs', poison := q }) := by
        intro c cs' q; exact .ite hc (Memory.writeCells_wf _ hc)
      split
      · exact hw _ _ _
      · exact .ite (hw _ _ _) (.ite (.of_mem (hw _ _ _) (markUnsurv_mem _ _ _ _ _)) (.of_mem (hw _ _ _) (sendDelta_mem _ _ _)))
theorem catchUp_wf (s : State) (a b i : Nat) (h : MemOk s) : MemOk (catchUp s a b i) := by
  unfold catchUp; dsimp only
  generalize hu : List.foldl _ s (List.range 4) = u
  have h' : MemOk u := by
    rw [← hu]
    refine foldl_keeps MemOk _ ?_ (List.range 4) s h
    intro t j ht
    exact .ite (.of_mem (homeStore_wf _ _ _ _ (.of_mem ht (opensRow_mem _ _))) rfl) (homeStore_wf _ _ _ _ (.of_mem ht (opensRow_mem _ _)))
  exact .of_mem h' (by dsimp only [State.setVers]; split <;> rfl)
theorem catchUpFor_wf (s : State) (g : Nat) (h : MemOk s) : MemOk (catchUpFor s g) := by
  unfold catchUpFor
  split
  · exact h
  · exact .ite h (.ite (catchUp_wf _ _ _ _ h) (.ite h (.of_mem h rfl)))
theorem homeWriteEcc_wf (s : State) (cs : List Host.Cell) (ws : List Writer) (b : Bool) (h : MemOk s) : MemOk (homeWriteEcc s cs ws b) := by
  unfold homeWriteEcc
  split
  · exact h
  · exact homeStore_wf _ _ _ _ (catchUpFor_wf _ _ h)
theorem homeWrite_wf (s : State) (cs : List Host.Cell) (ws : List Writer) (h : MemOk s) : MemOk (homeWrite s cs ws) := by
  unfold homeWrite MemOk
  rw [ringMailbox_mem]
  apply foldl_keeps MemOk
  · exact fun a e ha => homeWriteEcc_wf a _ _ false ha
  · exact h
theorem writeBack_wf (s : State) (o : Outbound) (h : MemOk s) : MemOk (writeBack s o) :=
  releaseHeld_wf _ _ _ (.ite (failWrites_wf _ _ h) (homeWrite_wf _ _ _ h))
theorem mergeHome_wf (s : State) (m : Merge) (b : Bool) (h : MemOk s) : MemOk (mergeHome s m b) := by
  have hd : MemOk (if m.dir = true then m.writers.foldl (fun t w => dropCopies t (w.pa / 256) (ownCopy (coreOf w.strand))) (s.delivered m.msg)
      else s.delivered m.msg) := .ite (foldl_keeps MemOk _ (fun _ _ ht => dropCopies_wf _ _ _ ht) _ _ h) h
  exact releaseHeld_wf _ _ _ (.ite (failWrites_wf _ _ hd) (.ite (homeWriteEcc_wf _ _ _ _ hd) (homeWrite_wf _ _ _ hd)))
theorem leaveSlice_wf (s : State) (o : Outbound) (h : MemOk s) : MemOk (leaveSlice s o) := by
  exact .of_mem h (sendDrain_mem _ _ _ _ _ _)
theorem enterSlice_wf (s : State) (c g : Nat) (cs : List Host.Cell) (ws : List Writer) (h : MemOk s) : MemOk (enterSlice s c g cs ws) := by
  unfold enterSlice
  split
  · exact h
  · refine MemOk.ite ?_ h
    split
    · exact leaveSlice_wf _ _ h
    · exact h
theorem drainWcb_wf (s : State) (c : Nat) (w : Wcb) (h : MemOk s) : MemOk (drainWcb s c w) := enterSlice_wf _ _ _ _ _ h
theorem drainBuffers_wf (s : State) (g l y : Nat) (h : MemOk s) : MemOk (drainBuffers s g l y) := by
  apply foldl_keeps MemOk _ _ s.cores s h
  intro t e ht
  refine .ite ?_ ht
  split
  · exact drainWcb_wf _ _ _ ht
  · exact ht
theorem drainGroup_wf (s : State) (g l y : Nat) (h : MemOk s) : MemOk (drainGroup s g l y) := by
  unfold drainGroup; dsimp only
  apply foldl_keeps MemOk _ (fun a o ha => .ite (writeBack_wf _ _ ha) ha)
  exact foldl_keeps MemOk _ (fun a m ha => mergeHome_wf _ _ _ ha) _ _ (drainBuffers_wf s g l y h)
theorem tagWrite_wf (s : State) (g x : Nat) (va : Word) (h : MemOk s) : MemOk (tagWrite s g x va) := by
  have hc := catchUpFor_wf s g h
  unfold tagWrite; dsimp only
  exact .ite (.of_mem hc (by rw [logTag_mem, report_mem]; rfl)) hc
theorem bufferWrite_wf (s : State) (c : Nat) (cs : List Host.Cell) (ws : List Writer) (h : MemOk s) : MemOk (bufferWrite s c cs ws) := by
  unfold bufferWrite
  split
  · exact h
  · dsimp only
    have key : ∀ (a : Prop) [Decidable a] (w : Option Wcb),
        MemOk (if a then s else if Config.wcbCount ≤ (s.core c).wcb.length then
          (match w with | some w => drainWcb s c w | none => s) else s) := by
      intro a _ w
      refine .ite h (MemOk.ite ?_ h)
      split
      · exact drainWcb_wf _ _ _ h
      · exact h
    exact .ite (drainWcb_wf _ _ _ (key _ _)) (key _ _)

/-! ## Reads, turns and checked accesses -/

theorem makeRoom_wf (s : State) (c : Inbound) (h : MemOk s) : MemOk (makeRoom s c) := by
  unfold makeRoom; dsimp only
  refine MemOk.ite h ?_
  split
  · exact h
  · split
    · exact foldl_keeps MemOk _ (fun t w ht => .ite (writeBack_wf _ _ ht) ht) _ _ h
    · exact h
theorem addCopy_wf (s : State) (c : Inbound) (h : MemOk s) : MemOk (addCopy s c) := .ite (makeRoom_wf s c h) (makeRoom_wf s c h)
theorem fetchHome_wf (s : State) (cl g : Nat) (h : MemOk s) : MemOk (fetchHome s cl g).2 :=
  .of_mem (serveDegraded_wf s (g * 256) h) (activate_mem _ _ _)
theorem fetchCopy_wf (s : State) (c g : Nat) (u : Bool) (h : MemOk s) : MemOk (fetchCopy s c g u).2 := by
  unfold fetchCopy; dsimp only
  split
  · exact h
  · split
    · exact .ite (addCopy_wf _ _ h) h
    · have hf := fetchHome_wf s (gclusterOfCore c) g h
      generalize fetchHome s (gclusterOfCore c) g = r at hf ⊢
      have hs : MemOk (if mergedNear r.2 (gclusterOfCore c) g = true then r.2 else addCopy r.2 r.1) := .ite hf (addCopy_wf _ _ hf)
      exact .ite (addCopy_wf _ _ hs) hs
theorem directFirst_wf (s : State) (p g : Nat) (h : MemOk s) : MemOk (directFirst s p g) :=
  .of_mem (drainGroup_wf s g 1 p h) (dropCopies_mem _ _ _)
/-- A read of bytes keeps memory in its form. -/
theorem readBytes_wf (s : State) (p pa n : Nat) (d : Bool) (h : MemOk s) : MemOk (readBytes s p pa n d).2 := by
  unfold readBytes; dsimp only
  split
  · exact .of_mem (directFirst_wf _ _ _ (serveDegraded_wf s pa h)) (activate_mem _ _ _)
  · have hf : ∀ c : Bool, MemOk (fetchCopy (if c = true then directFirst s p (granOf pa) else s) (coreOf p) (granOf pa) true).2 := fun c =>
      fetchCopy_wf _ _ _ _ (.ite (directFirst_wf _ _ _ h) h)
    exact .ite (.of_mem (hf _) (logTag_mem _ _)) (hf _)
theorem keepMerged_wf (s : State) (y g l : Nat) (c : Inbound) (h : MemOk s) : MemOk (keepMerged s y g l c) :=
  addCopy_wf _ _ (.of_mem h (dropCopies_mem _ _ _))
theorem mergeTurn_wf (s : State) (g l y : Nat) (h : MemOk s) : MemOk (mergeTurn s g l y) := by
  have hd := drainBuffers_wf s g l y h
  unfold mergeTurn; dsimp only
  exact .ite (.of_mem hd (dropCopies_mem _ _ _))
    (.of_mem (keepMerged_wf _ _ _ _ _ (fetchHome_wf _ _ _ hd)) (hasten_mem _ _ _))
theorem turnDrain_wf (s : State) (g l y : Nat) (h : MemOk s) : MemOk (turnDrain s g l y) :=
  .ite (mergeTurn_wf s g l y h) (.of_mem (drainGroup_wf s g l y h) (dropCopies_mem _ _ _))
theorem turnEvent_wf (s : State) (g l y : Nat) (va : Word) (h : MemOk s) : MemOk (turnEvent s g l y va) := by
  have hd := turnDrain_wf _ g l y (catchUpFor_wf s g h)
  unfold turnEvent
  generalize turnDrain (catchUpFor s g) g l y = d at hd
  dsimp only
  exact .ite (.of_mem hd (by rw [logTag_mem, report_mem]; rfl)) (.ite hd hd)
theorem lateRead_wf (s : State) (p : Nat) (d : Prod) (h : MemOk s) : MemOk (lateRead s p d).2 := by
  unfold lateRead
  split
  · exact h
  · dsimp only
    split
    · exact .of_mem h (report_mem _ _ _ _)
    · exact readBytes_wf _ _ _ _ _ h
theorem sampleLate_wf (s : State) (p g : Nat) (h : MemOk s) : MemOk (sampleLate s p g) :=
  foldl_keeps MemOk _ (fun t d ht => .ite (.of_mem (lateRead_wf t p d ht) (State.updStrand_mem _ _ _)) ht) _ s h
theorem issueWrite_wf (s : State) (p : Nat) (a : Acc) (va : Word) (n : Nat) (h : MemOk s) : MemOk (issueWrite s p a va n) := by
  have hn : MemOk (noteVers s a) := .of_mem h (noteVers_mem s a)
  have h1 : ∀ v : Vers, MemOk (if a.vers = true then (catchUpFor (noteVers s a) (granOf a.pa)).setVers (pteFrame a.leaf) v else noteVers s a) :=
    fun v => .ite (catchUpFor_wf _ _ hn) hn
  unfold issueWrite; dsimp only
  have h2 := fun (u : State) (hu : MemOk u) => sampleLate_wf (if a.prot then u.updStrand p (fun st => { st with prot := st.prot ++ [⟨va, a.pa, n⟩] })
    else u) p (granOf a.pa) (.of_mem hu (ite_mem rfl rfl))
  exact .ite (h2 _ (h1 _)) (tagWrite_wf _ _ _ _ (h2 _ (h1 _)))
theorem directOut_wf (s : State) (p g : Nat) (h : MemOk s) : MemOk (directOut s p g) := by
  have hd := drainBuffers_wf s g 1 p h
  refine .ite (directFirst_wf _ _ _ h) (dropCopies_wf _ _ _ ?_)
  split
  · exact leaveSlice_wf _ _ hd
  · exact hd
theorem performWrite_wf (s : State) (p : Nat) (a : Acc) (va : Word) (n v : Nat) (h : MemOk s) : MemOk (performWrite s p a va n v) :=
  .ite (.of_mem h (report_mem _ _ _ _)) (.ite (.of_mem (directOut_wf s p _ h) (sendDrain_mem _ _ _ _ _ _)) (bufferWrite_wf _ _ _ _ h))
/-- A store keeps memory in its form. -/
theorem writeBytes_wf (s : State) (p : Nat) (a : Acc) (va : Word) (n v : Nat) (h : MemOk s) : MemOk (writeBytes s p a va n v) :=
  .ite (performWrite_wf _ _ _ _ _ _ h) (performWrite_wf _ _ _ _ _ _ (issueWrite_wf _ _ _ _ _ h))

/-- An answer with a state whose memory is in its form, whichever the answer is. -/
abbrev AnsOk {α : Type} (x : Except Cause α × State) : Prop := MemOk x.2
theorem AnsOk.ite {α : Type} {c : Prop} [Decidable c] {x y : Except Cause α × State} (hx : AnsOk x) (hy : AnsOk y) : AnsOk (if c then x else y) := by
  split <;> assumption
theorem readPte_wf (s : State) (p pa l : Nat) (h : MemOk s) : MemOk (readPte s p pa l).2 := by
  have hs : MemOk (sendFlit s (moduleOf p) (s.answers (paModule pa))) := .of_mem h (sendFlit_mem _ _ _)
  have hr := readBytes_wf _ p pa 8 false hs
  unfold readPte; dsimp only
  exact AnsOk.ite (.of_mem hs (report_mem _ _ _ _)) (AnsOk.ite hs (AnsOk.ite hs (AnsOk.ite hr hr)))
theorem walk_wf (s : State) (p r va : Nat) (h : MemOk s) : MemOk (walk s p r va).2 := by
  have hp : ∀ {u w : State} {pa l : Nat} {x : Except Cause Word}, readPte u p pa l = (x, w) → MemOk u → MemOk w := by
    intro u w pa l x e hu; have := readPte_wf u p pa l hu; rw [e] at this; exact this
  unfold walk; dsimp only
  split
  · next e => exact hp e h
  · next e1 u e =>
    have hu := hp e h
    refine AnsOk.ite hu (AnsOk.ite hu ?_)
    split
    · next e => exact hp e hu
    · next e2 w e =>
      have hw := hp e hu
      refine AnsOk.ite hw (AnsOk.ite (AnsOk.ite hw hw) (AnsOk.ite hw ?_))
      split
      · next e => exact hp e hw
      · next e3 x e =>
        have hx := hp e hw
        refine AnsOk.ite hx (AnsOk.ite hx (AnsOk.ite hx ?_))
        split
        · next e => exact hp e hx
        · next q y e => exact AnsOk.ite (hp e hx) (AnsOk.ite (hp e hx) (hp e hx))
theorem translate_wf (s : State) (p : Nat) (va : Word) (h : MemOk s) : MemOk (translate s p va).2 := by
  unfold translate
  split
  · exact h
  · dsimp only
    split
    · exact .of_mem h (demanded_mem _ _ _)
    · have hw := walk_wf s p (pteFrame (s.strand p).ptroot) (va.toNat % 2 ^ 55) h
      split
      · next c u e => rw [e] at hw; exact hw
      · next t u e => rw [e] at hw; exact hw
theorem touchLeaf_mem (s : State) (p : Nat) (t : Tlb) (w u : Bool) : (touchLeaf s p t w u).mem = s.mem := by
  unfold touchLeaf; dsimp only [State.post]
  exact ite_mem rfl (toHome_mem _ _ _)
/-- The checks of an access keep memory in its form. -/
theorem checkAccess_wf (s : State) (p : Nat) (va : Word) (q : Ask) (h : MemOk s) : MemOk (checkAccess s p va q).2 := by
  have ht := translate_wf s p va h
  unfold checkAccess; dsimp only
  split
  · next c u e => rw [e] at ht; exact ht
  · next t u e =>
    rw [e] at ht
    have hu : MemOk (if q.touch then touchLeaf u p t (q.kind == .write || q.kind == .atomic) q.unit else u) :=
      .ite (.of_mem ht (touchLeaf_mem _ _ _ _ _)) ht
    generalize (if q.touch then touchLeaf u p t (q.kind == .write || q.kind == .atomic) q.unit else u) = w at hu
    repeat' apply AnsOk.ite
    all_goals first | exact ht | exact hu
theorem sealStripe_wf (s : State) (n : Nat) (g : PGroup) (t : Nat) (h : MemOk s) : MemOk (sealStripe s n g t) := by
  have hm : ∀ d n v, (Memory.writeN s.mem d n v).wf = true := fun d n v => Memory.writeN_wf d n v h
  simp only [sealStripe, MemOk, State.updMod_mem, opensStripe_mem, activate_mem, hm]
theorem setDone_wf (s : State) (x n d : Nat) (h : MemOk s) : MemOk (setDone s x n d) := by
  unfold setDone; dsimp only
  split
  · exact h
  · unfold MemOk; exact Memory.writeN_wf _ _ _ h
theorem rebuildFrame_wf (s : State) (m : Nat) (g : PGroup) (t : Nat) (h : MemOk s) : MemOk (rebuildFrame s m g t) := by
  unfold rebuildFrame
  apply foldl_keeps MemOk
  · intro a b ha; unfold MemOk; dsimp only; exact Memory.writeN_wf _ _ _ ha
  · exact .of_mem h (by rw [opensStripe_mem, activate_mem])
theorem moveFrame_wf (s : State) (a b : Nat) (h : MemOk s) : MemOk (moveFrame s a b) := by
  unfold moveFrame MemOk; dsimp only
  apply Memory.writeN_wf
  rw [opensRow_mem, opensRow_mem]
  apply foldl_keeps MemOk
  · exact fun t i ht => .of_mem (drainGroup_wf t _ _ _ ht) (dropCopies_mem _ _ _)
  · exact h
theorem answerBytes_wf (s : State) (m : Nat) (bs : List Nat) (h : MemOk s) : MemOk (answerBytes s m bs) := by
  unfold answerBytes MemOk State.updMgmt; dsimp only
  rw [State.updMod_mem]
  apply Memory.writeN_wf
  apply foldl_keeps (fun m : Memory => m.wf = true)
  · exact fun x y hx => Memory.writeN_wf _ _ _ hx
  · exact h
/-- A write to a scratchpad keeps its form. -/
theorem scratchWrite_wf (s : State) (c off n v : Nat) (h : (s.core c).scratch.wf = true) : ((scratchWrite s c off n v).core c).scratch.wf = true := by
  unfold scratchWrite; rw [State.core_updCore_self]; exact Memory.writeN_wf _ _ _ h
theorem scratchWrite_core (s : State) (c d off n v : Nat) (h : d ≠ c) : (scratchWrite s c off n v).core d = s.core d :=
  State.core_updCore_ne _ _ _ _ h

/-- The machine at reset has every memory in its canonical form. -/
theorem reset_mem_wf : MemOk State.reset := rfl
theorem reset_scratch_wf (c : Nat) : (State.reset.core c).scratch.wf = true := rfl

end Sys2Proof.Machine
end

