-- ==== Sys2Proof/Laws/Ops.lean ====
section
/-! SUPPORT. What the shared operations of every meaning answer: finish, operands, sequential flow, a scalar result, settling a window. -/
namespace Sys2Proof.Machine

/-! ## The answer of a meaning -/

@[simp] theorem finish_ok (s : State) : finish (.ok s) = .next s := rfl
@[simp] theorem finish_trap (t : TrapInfo) (s : State) : finish (.error (.trap t s)) = .next (takeTrap s t) := rfl
@[simp] theorem finish_wait (s : State) : finish (.error (.wait s)) = .next s.waits := rfl
/-- A meaning that ends in finish answers a next state, whatever it computes. -/
theorem finish_next (r : Res State) : ∃ t, finish r = .next t := by
  match r with
  | .ok s => exact ⟨_, rfl⟩
  | .error (.trap t s) => exact ⟨_, rfl⟩
  | .error (.wait s) => exact ⟨_, rfl⟩
/-- What finish answers: the state computed, the state after a trap, or the same state with the strand waiting. -/
theorem finish_cases {r : Res State} {t : State} (h : finish r = .next t) :
    r = .ok t ∨ (∃ i s, r = .error (.trap i s) ∧ t = takeTrap s i)
      ∨ ∃ s, r = .error (.wait s) ∧ t = s.waits := by
  match r, h with
  | .ok s, h => exact .inl (by rw [finish_ok] at h; injection h with h; rw [h])
  | .error (.trap i s), h => exact .inr (.inl ⟨i, s, rfl, by rw [finish_trap] at h; injection h with h; exact h.symm⟩)
  | .error (.wait s), h => exact .inr (.inr ⟨s, rfl, by rw [finish_wait] at h; injection h with h; exact h.symm⟩)
@[simp] theorem need_true (e : Res Unit) : need true e = .ok () := rfl
@[simp] theorem need_false (e : Res Unit) : need false e = e := rfl
theorem needS_at_s {s : State} (h : s.me.status.prv = true) : needS s = .ok () := by simp [needS, h]
theorem needS_at_u {s : State} (h : s.me.status.prv = false) : needS s = raise s 0x04 := by simp [needS, h]

/-! ## Sequential flow -/

theorem loopCascade_straight (k : Nat) {s : State} (h : Straight s) : loopCascade k s.me = (s.me, none) := by
  cases k with
  | zero => rfl
  | succ k =>
    unfold loopCascade
    split
    · rfl
    · rw [if_pos (by rcases h with h | h; · contradiction
                     · exact h)]
/-- Sequential flow at a head that ends no body. -/
theorem advance_straight {s : State} (h : Straight s) : advance s = .ok (onward s) := by
  simp only [advance, loopCascade_straight 6 h]; rfl
@[simp] theorem onward_me (s : State) : (onward s).me = { s.me with pc := s.me.seqNext, run := .active, tested := none } := State.me_updMe _ _
@[simp] theorem onward_mem (s : State) : (onward s).mem = s.mem := rfl
@[simp] theorem onward_cores (s : State) : (onward s).cores = s.cores := rfl
@[simp] theorem onward_tags (s : State) : (onward s).tags = s.tags := rfl
theorem Strand.setS_loopd (st : Strand) (n : Nat) (v : Word) : (st.setS n v).loopd = st.loopd := by
  unfold Strand.setS Strand.setCell; split <;> rfl
theorem Strand.setS_loops (st : Strand) (n : Nat) (v : Word) : (st.setS n v).loops = st.loops := by
  unfold Strand.setS Strand.setCell; split <;> rfl
theorem straight_setS {s : State} (d : Reg) (v : Word) (h : Straight s) : Straight (s.setS d v) := by
  simpa [Straight, State.setS, Strand.loop, Strand.setS_loopd, Strand.setS_loops] using h
/-- A scalar result at a head that ends no body. -/
theorem writeBackS_straight {s : State} (d : Reg) (v : Word) (h : Straight s) : writeBackS s d v = .ok (onward (s.setS d v)) :=
  advance_straight (straight_setS d v h)

/-! ## Operands -/

/-- Scalar sources that are full and clean pass the operand test. -/
theorem operands_scalars {s : State} : ∀ os : List Opnd, (∀ o ∈ os, o.file = 0 ∧ (s.me.sreg o.n).full = true ∧ (s.me.sreg o.n).mark = .clean) →
    operands s os = .ok () := by
  intro os h
  have h1 : os.filterMap Opnd.key = [] := by
    rw [List.filterMap_eq_nil_iff]; intro o ho; simp [Opnd.key, (h o ho).1]
  have h2 : os.find? (fun o => o.f && !opFull s o) = none := by
    rw [List.find?_eq_none]; intro o ho; simp [opFull, (h o ho).1, (h o ho).2.1]
  have h3 : ∀ b : Bool, os.any (fun o => (!o.f || !b) && !opFull s o || o.file == 1 && fabBusy s (coreOf s.cur) o.n) = false := by
    intro b; rw [List.any_eq_false]; intro o ho; simp [opFull, (h o ho).1, (h o ho).2.1]
  have h4 : os.findSome? (scalarMark s) = none := by
    rw [List.findSome?_eq_none_iff]; intro o ho; simp [scalarMark, (h o ho).1, (h o ho).2.2]
  simp [operands, h1, h2, h3, h4, handed]
/-- Two readable scalar registers pass the operand test, whatever their F bits. -/
theorem operands_readable {s : State} {b c : Reg} (fb fc : Bool) (h : Readable s [b, c]) : operands s [.s b fb, .s c fc] = .ok () :=
  operands_scalars _ (by
    intro o ho
    simp only [List.mem_cons, List.not_mem_nil, or_false] at ho
    rcases ho with rfl | rfl
    · exact ⟨rfl, h b (by simp)⟩
    · exact ⟨rfl, h c (by simp)⟩)
/-- One readable scalar register passes the operand test. -/
theorem operands_readable1 {s : State} {b : Reg} (fb : Bool) (h : Readable s [b]) : operands s [.s b fb] = .ok () :=
  operands_scalars _ (by
    intro o ho
    simp only [List.mem_cons, List.not_mem_nil, or_false] at ho
    subst ho
    exact ⟨rfl, h b (by simp)⟩)

/-- Sources that pass the operand test carry neither poison nor a failed reconciliation, and are full, but for one with F = 1 that a sibling has
emptied since the test was made; the state is not changed. -/
theorem operands_ok {s : State} {os : List Opnd} (h : operands s os = .ok ()) :
    ∀ o ∈ os, ((s.me.tested = some s.me.pc ∧ o.f = true) ∨ opFull s o = true) ∧ scalarMark s o = none := by
  unfold operands at h
  dsimp only at h
  split at h
  · simp [raise] at h
  · split at h
    · simp [wait] at h
    · split at h
      · simp [wait] at h
      · next h3 =>
        split at h
        · simp at h
        · next h4 =>
          intro o ho
          rw [List.findSome?_eq_none_iff] at h4
          refine ⟨?_, h4 o ho⟩
          rw [Bool.not_eq_true, List.any_eq_false] at h3
          have h5 := h3 o ho
          cases hf : opFull s o with
          | true => exact .inr rfl
          | false =>
            left
            cases ho' : o.f <;> simp_all

/-- A transfer that is made enters the line that its target's checks delivered. -/
theorem transferTo_ok {s u : State} {t : Word} (h : transferTo s t = .ok u) :
    ∃ l v, checkTarget s s.cur t s.me.status.prv = (.ok l, v) ∧ u = v.updMe (fun st => { st.enter t l with tested := none }) := by
  unfold transferTo at h
  split at h
  · simp at h
  · next l v e => exact ⟨l, v, e, by simpa using h.symm⟩
/-- A transfer to a target that passes its checks is made. -/
theorem transferTo_enters {s u : State} {t : Word} {l : CodeLine} (h : Enters s t s.me.status.prv l u) :
    transferTo s t = .ok (u.updMe (fun st => { st.enter t l with tested := none })) := by
  simp only [Enters] at h; simp only [transferTo, h]

/-! ## The vector window -/

theorem retireOne_nil {s : State} {c : Nat} (h : (s.core c).window = []) : retireOne s c = s := by simp [retireOne, h]
/-- A core with an empty window is settled. -/
theorem settle_nil {s : State} {c : Nat} (h : (s.core c).window = []) : settle s c = s := by simp [settle, h]

end Sys2Proof.Machine
end

