-- ==== Sys2Proof/Tests/Slice0.lean ====
section
/-! SUPPORT. The model's own tests: an ill-formed term for each check of WellFormed, words written out from the spec's encodings for each
family, single steps, and for each statement a state and operands that meet its hypotheses, clause by clause. -/
namespace Sys2Proof.Tests
set_option Elab.async false
open Sys2Proof Sys2Proof.Machine

/-! ## Well-formedness: each check refuses a term (02 R36) -/

theorem test_wf_shiftImm : Instr.wf (.sllImm ⟨true, 1, 2, false, .short 32⟩) = false ∧ Instr.wf (.sraImm ⟨false, 1, 2, false, .short 63⟩) = true := by decide
theorem test_wf_bitField : Instr.wf (.ext ⟨1, 2, false, 63, 1⟩) = false ∧ Instr.wf (.ins ⟨1, 2, false, 31, 32⟩) = true := by decide
theorem test_wf_loadSize : Instr.wf (.ld ⟨1, 2, false, false, true, 3⟩) = false ∧ Instr.wf (.ldsDisp ⟨1, 2, false, true, 3⟩ (.short 0)) = false := by decide
theorem test_wf_prefLevel : Instr.wf (.pref ⟨1, false, 3⟩) = false ∧ Instr.wf (.pref ⟨1, false, 2⟩) = true := by decide
theorem test_wf_loop : Instr.wf (.loopImm ⟨false, 0, 0, 4⟩) = false ∧ Instr.wf (.loop ⟨1, false, false, 5, 4⟩) = false := by decide
theorem test_wf_loopEntry : Instr.wf (.lidx 1 6) = false ∧ Instr.wf (.lbrk 6) = false := by decide
theorem test_wf_strip : Instr.wf (.strip ⟨1, 0x1F, 4⟩) = false ∧ Instr.wf (.stripCk ⟨1, 0x0F, 4⟩ 0) = true := by decide
theorem test_wf_sysregs : Instr.wf (.mfs 1 0x005) = false ∧ Instr.wf (.mts 0x004 ⟨1, false⟩) = false ∧ Instr.wf (.matrixRegWrite 0x01B ⟨1, false⟩) = false := by
  decide
theorem test_wf_tlbi : Instr.wf (.tlbiAll 0) = false ∧ Instr.wf (.tlbiVa ⟨1, false⟩ 5) = false := by decide
theorem test_wf_region : Instr.wf (.turn ⟨3, 3, false, 1⟩) = false ∧ Instr.wf (.snapOpen ⟨0, 3, false⟩) = false ∧ Instr.wf (.turn ⟨1, 2, false, 6⟩) = false := by
  decide
theorem test_wf_barrier : Instr.wf (.bar 5) = false ∧ Instr.wf (.barWait 4) = true := by decide
theorem test_wf_checkpoint : Instr.wf (.waitj ⟨1, false, false, 1⟩) = false ∧ Instr.wf (.launch ⟨false, 1, 2, false, true, 0⟩) = false
    ∧ Instr.wf (.yield false 7) = false := by decide
theorem test_wf_getid : Instr.wf (.getid 1 11) = false := by decide
theorem test_wf_vtag : Instr.wf (.vtag 31 1 4) = false ∧ Instr.wf (.vtag 31 0 4) = true := by decide
theorem test_wf_vcvt : Instr.wf (.vcvt ⟨1, 2, false, 6, 0⟩) = false := by decide
theorem test_wf_vunpk : Instr.wf (.vunpk ⟨1, 2, false, 5, false, 0⟩) = false := by decide
theorem test_wf_reduction : Instr.wf (.vredSum ⟨true, 1, 2, false, 0, false, false, 0⟩) = false
    ∧ Instr.wf (.vscanMax ⟨false, 1, 2, false, 4, false, false, true, 0⟩) = false := by decide
theorem test_wf_strm : Instr.wf (.strmVector ⟨false, 1, 0, 2, false, 3, true⟩) = false := by decide
theorem test_wf_qcfg : Instr.wf (.qcfg ⟨0, 1, false, 7⟩) = false := by decide
theorem test_wf_weights : Instr.wf (.twld 5 0) = false ∧ Instr.wf (.twldCb 0 3) = false ∧ Instr.wf (.twldSp 0 1 1) = false := by decide
theorem test_wf_mcast : Instr.wf (.mcast ⟨false, 1, 2, false, 3, false, 4, false, 5, false, 3⟩) = false := by decide
theorem test_wf_sklook : Instr.wf (.sklook ⟨4, 4, 2, false, 3, false⟩) = false ∧ Instr.wf (.sklook ⟨0, 0, 2, false, 3, false⟩) = true := by decide
theorem test_wf_event : Instr.wf (.illegalOpcode 0 0) = false := by decide

/-! ## Decoding: words from the encoding tables of each chapter, bit by bit -/

/-- The head and tail halfwords of each entry decode to its instruction. -/
def reads (l : List (Half × List Half × Instr)) : Prop := l.all (fun p => (decode p.1 p.2.1).toOption == some p.2.2) = true

/-- 06 R101, R102: ADD to MAXU, the immediate forms, and the multiply and divide forms; w, Fb, Fc and the immediate length vary. -/
theorem test_decode_alu1 : reads [
    (0b0000001_001_0_00000, [0b11111_0_00011_0_0000], .add ⟨false, 0, 31, false, 3, false⟩),
    (0b0000001_001_1_00001, [0b11110_0_01010_0_0001], .sub ⟨true, 1, 30, false, 10, false⟩),
    (0b0000001_001_0_00010, [0b11101_1_10001_0_0010], .and ⟨false, 2, 29, true, 17, false⟩),
    (0b0000001_001_1_00011, [0b11100_1_11000_0_0011], .or ⟨true, 3, 28, true, 24, false⟩),
    (0b0000001_001_0_00100, [0b11011_0_11111_1_0100], .xor ⟨false, 4, 27, false, 31, true⟩),
    (0b0000001_001_1_00101, [0b11010_0_00110_1_0101], .andn ⟨true, 5, 26, false, 6, true⟩),
    (0b0000001_001_0_00110, [0b11001_1_01101_1_0110], .sll ⟨false, 6, 25, true, 13, true⟩),
    (0b0000001_001_1_00111, [0b11000_1_10100_1_0111], .srl ⟨true, 7, 24, true, 20, true⟩),
    (0b0000001_001_0_01000, [0b10111_0_11011_0_1000], .sra ⟨false, 8, 23, false, 27, false⟩),
    (0b0000001_001_1_01001, [0b10110_0_00010_0_1001], .ror ⟨true, 9, 22, false, 2, false⟩),
    (0b0000001_001_0_01010, [0b10101_1_01001_0_1010], .slt ⟨false, 10, 21, true, 9, false⟩),
    (0b0000001_001_1_01011, [0b10100_1_10000_0_1011], .sltu ⟨true, 11, 20, true, 16, false⟩),
    (0b0000001_001_0_01100, [0b10011_0_10111_1_1100], .min ⟨false, 12, 19, false, 23, true⟩),
    (0b0000001_001_1_01101, [0b10010_0_11110_1_1101], .max ⟨true, 13, 18, false, 30, true⟩)] := by
  unfold reads; decide +kernel
/-- 06 R101, R102: ADD to MAXU, the immediate forms, and the multiply and divide forms; w, Fb, Fc and the immediate length vary, continued. -/
theorem test_decode_alu2 : reads [
    (0b0000001_001_0_01110, [0b10001_1_00101_1_1110], .minu ⟨false, 14, 17, true, 5, true⟩),
    (0b0000001_001_1_01111, [0b10000_1_01100_1_1111], .maxu ⟨true, 15, 16, true, 12, true⟩),
    (0b0000010_011_0_01000, [0b11110_0_00000_0_0000, 0x0000, 0x8001], .addImm ⟨false, 8, 30, false, .long 0x80010000⟩),
    (0b0000010_010_1_01001, [0b11101_0_00000_0_0001, 0xFF01], .rsbImm ⟨true, 9, 29, false, .short 0xFF01⟩),
    (0b0000010_010_0_01010, [0b11100_1_00000_0_0010, 0xFF02], .andImm ⟨false, 10, 28, true, .short 0xFF02⟩),
    (0b0000010_011_1_01011, [0b11011_1_00000_0_0011, 0x0003, 0x8001], .orImm ⟨true, 11, 27, true, .long 0x80010003⟩),
    (0b0000010_010_0_01100, [0b11010_0_00000_0_0100, 0xFF04], .xorImm ⟨false, 12, 26, false, .short 0xFF04⟩),
    (0b0000010_010_1_01101, [0b11001_0_00000_0_0101, 0xFF05], .andnImm ⟨true, 13, 25, false, .short 0xFF05⟩),
    (0b0000010_010_0_01110, [0b11000_1_00000_0_0110, 0x003F], .sllImm ⟨false, 14, 24, true, .short 63⟩),
    (0b0000010_010_1_01111, [0b10111_1_00000_0_0111, 0x001F], .srlImm ⟨true, 15, 23, true, .short 31⟩),
    (0b0000010_010_0_10000, [0b10110_0_00000_0_1000, 0x003F], .sraImm ⟨false, 16, 22, false, .short 63⟩),
    (0b0000010_010_1_10001, [0b10101_0_00000_0_1001, 0x001F], .rorImm ⟨true, 17, 21, false, .short 31⟩),
    (0b0000010_010_0_10010, [0b10100_1_00000_0_1010, 0xFF0A], .sltImm ⟨false, 18, 20, true, .short 0xFF0A⟩),
    (0b0000010_010_1_10011, [0b10011_1_00000_0_1011, 0xFF0B], .sltuImm ⟨true, 19, 19, true, .short 0xFF0B⟩)] := by
  unfold reads; decide +kernel
/-- 06 R101, R102: ADD to MAXU, the immediate forms, and the multiply and divide forms; w, Fb, Fc and the immediate length vary, continued. -/
theorem test_decode_alu3 : reads [
    (0b0000010_011_0_10100, [0b10010_0_00000_0_1100, 0x000C, 0x8001], .minImm ⟨false, 20, 18, false, .long 0x8001000C⟩),
    (0b0000010_010_1_10101, [0b10001_0_00000_0_1101, 0xFF0D], .maxImm ⟨true, 21, 17, false, .short 0xFF0D⟩),
    (0b0000010_010_0_10110, [0b10000_1_00000_0_1110, 0xFF0E], .minuImm ⟨false, 22, 16, true, .short 0xFF0E⟩),
    (0b0000010_011_1_10111, [0b01111_1_00000_0_1111, 0x000F, 0x8001], .maxuImm ⟨true, 23, 15, true, .long 0x8001000F⟩),
    (0b0000011_001_0_10100, [0b00001_0_01001_1_0000], .mul ⟨false, 20, 1, false, 9, true⟩),
    (0b0000011_001_0_10101, [0b00010_1_01010_0_0001], .mulh ⟨false, 21, 2, true, 10, false⟩),
    (0b0000011_001_1_10110, [0b00011_0_01011_1_0010], .mulhu ⟨true, 22, 3, false, 11, true⟩),
    (0b0000011_001_1_10111, [0b00100_1_01100_0_0011], .mulhsu ⟨true, 23, 4, true, 12, false⟩),
    (0b0000011_001_0_11000, [0b00101_0_01101_1_0100], .div ⟨false, 24, 5, false, 13, true⟩),
    (0b0000011_001_0_11001, [0b00110_1_01110_0_0101], .divu ⟨false, 25, 6, true, 14, false⟩),
    (0b0000011_001_1_11010, [0b00111_0_01111_1_0110], .rem ⟨true, 26, 7, false, 15, true⟩),
    (0b0000011_001_1_11011, [0b01000_1_10000_0_0111], .remu ⟨true, 27, 8, true, 16, false⟩)] := by
  unfold reads; decide +kernel

/-- 06 R104, R106, R107: bit operations, LI and address arithmetic. -/
theorem test_decode_bits1 : reads [
    (0b0000100_001_0_00011, [0b10001_0_000_00_0_0000], .clz ⟨3, 17, false, 0⟩),
    (0b0000100_001_0_00100, [0b10010_1_000_01_0_0001], .ctz ⟨4, 18, true, 1⟩),
    (0b0000100_001_0_00101, [0b10011_0_000_10_0_0010], .popc ⟨5, 19, false, 2⟩),
    (0b0000100_001_0_00110, [0b10100_1_000_11_0_0011], .brev ⟨6, 20, true, 3⟩),
    (0b0000100_001_0_00111, [0b10101_0_000_00_0_0100], .bswap ⟨7, 21, false, 0⟩),
    (0b0000100_010_0_00101, [0b00110_0_00111_1_0101, 0b01000_1_0000000000], .sel ⟨5, 6, false, 7, true, 8, true⟩),
    (0b0000100_010_0_00110, [0b10000_0_00000_0_0110, 0b0000_000111_011110], .ext ⟨6, 16, false, 7, 30⟩),
    (0b0000100_010_0_00111, [0b10001_1_00000_0_0111, 0b0000_001000_100011], .extn ⟨7, 17, true, 8, 35⟩),
    (0b0000100_010_0_01000, [0b10010_0_00000_0_1000, 0b0000_001001_101000], .ins ⟨8, 18, false, 9, 40⟩),
    (0b0000101_001_1_00110, [0x8000], .li16 true 6 0x8000),
    (0b0000101_010_0_00111, [0x0001, 0x8000], .li32 false 7 0x80000001),
    (0b0000101_100_0_01000, [0xCDEF, 0x89AB, 0x4567, 0x0123], .li64 8 0x0123456789ABCDEF),
    (0b0000111_001_0_00101, [0b00110_1_00111_0_00_11], .lea ⟨5, 6, true, 7, false, 3⟩),
    (0b0000111_010_0_00101, [0b00110_0_00000_0_0000, 0x7FF0], .leaDisp ⟨5, 6, false, 0, false, 0⟩ (.short 0x7FF0))] := by
  unfold reads; decide +kernel
/-- 06 R104, R106, R107: bit operations, LI and address arithmetic, continued. -/
theorem test_decode_bits2 : reads [
    (0b0000111_010_0_01001, [0b00000_0_00000_0_0100, 0xFF00], .addpc 9 (.short 0xFF00))] := by
  unfold reads; decide +kernel

/-- 06 R109, R115, R116 and 15 R266: loads, stores, scratchpad accesses, PREF and the atomics. -/
theorem test_decode_memory1 : reads [
    (0b0010000_001_0_00110, [0b01001_1_000000_1_0_11], .ld ⟨6, 9, true, true, false, 3⟩),
    (0x2086, [0x480A, 0x0040], .ldDisp ⟨6, 9, false, true, false, 2⟩ (.short 0x40)),
    (0b0010000_011_0_00110, [0b01001_0_000000_0_1_01, 0x0000, 0x0001], .ldDisp ⟨6, 9, false, false, true, 1⟩ (.long 0x10000)),
    (0b0010001_001_0_00000, [0b01001_1_00111_1_00_00], .st ⟨9, true, 7, true, 0⟩),
    (0x2280, [0x48E2, 0x0044], .stDisp ⟨9, false, 7, false, 2⟩ (.short 0x44)),
    (0b0010010_001_0_00110, [0b01001_1_000000_0_1_00], .lds ⟨6, 9, true, true, 0⟩),
    (0b0010010_010_0_00110, [0b01001_0_000000_0_0_11, 0x0008], .ldsDisp ⟨6, 9, false, false, 3⟩ (.short 8)),
    (0b0010011_001_0_00000, [0b01001_0_00111_1_00_11], .sts ⟨9, false, 7, true, 3⟩),
    (0b0010011_010_0_00000, [0b01001_1_00111_0_00_01, 0xFFFE], .stsDisp ⟨9, true, 7, false, 1⟩ (.short 0xFFFE)),
    (0b0010100_001_0_00000, [0b01001_1_0000000_010], .pref ⟨9, true, 2⟩),
    (0b0010100_010_0_00000, [0b01001_0_0000000_001, 0x0100], .prefDisp ⟨9, false, 1⟩ (.short 0x100)),
    (0b0011000_010_0_00001, [0b01011_0_10101_0_0000, 0b0000000000000_0_10], .amoSwap ⟨1, 11, false, 21, false, false, false, none⟩),
    (0b0011000_010_0_00010, [0b01100_0_10110_1_0001, 0b0000000000000_1_10], .amoAdd ⟨2, 12, false, 22, true, true, false, none⟩),
    (0b0011000_010_0_00011, [0b01101_1_10111_0_0010, 0b0000000000000_0_11], .amoAnd ⟨3, 13, true, 23, false, false, true, none⟩)] := by
  unfold reads; decide +kernel
/-- 06 R109, R115, R116 and 15 R266: loads, stores, scratchpad accesses, PREF and the atomics, continued. -/
theorem test_decode_memory2 : reads [
    (0b0011000_010_0_00100, [0b01110_1_11000_1_0011, 0b0000000000000_1_11], .amoOr ⟨4, 14, true, 24, true, true, true, none⟩),
    (0b0011000_010_0_00101, [0b01111_0_11001_0_0100, 0b0000000000000_0_10], .amoXor ⟨5, 15, false, 25, false, false, false, none⟩),
    (0b0011000_010_0_00110, [0b10000_0_11010_1_0101, 0b0000000000000_1_10], .amoMin ⟨6, 16, false, 26, true, true, false, none⟩),
    (0b0011000_010_0_00111, [0b10001_1_11011_0_0110, 0b0000000000000_0_11], .amoMax ⟨7, 17, true, 27, false, false, true, none⟩),
    (0b0011000_010_0_01000, [0b10010_1_11100_1_0111, 0b0000000000000_1_11], .amoMinu ⟨8, 18, true, 28, true, true, true, none⟩),
    (0b0011000_010_0_01001, [0b10011_0_11101_0_1000, 0b0000000000000_0_10], .amoMaxu ⟨9, 19, false, 29, false, false, false, none⟩),
    (0b0011001_011_0_00101, [0b00110_0_00111_0_0000, 0b0000000000000_1_11, 0xFFF8], .cas ⟨5, 6, false, 7, false, true, true, some 0xFFF8⟩),
    (0x3486, [0x48E0, 0x0002], .append ⟨6, 9, false, 7, false, false, false, none⟩),
    (0x0000, [], .nop)] := by
  unfold reads; decide +kernel

/-- 07: branches, calls, loops, STRIP, traps and returns. -/
theorem test_decode_control1 : reads [
    (0b0100000_001_0_00000, [0xFFFE], .br 0xFFFE),
    (0b0100000_010_0_00000, [0x2345, 0x0001], .brLong 0x00012345),
    (0b0100001_010_0_00000, [0b00001_1_00010_0_0000, 0x0064], .beq ⟨false, 1, true, 2, false, .short 100⟩),
    (0b0100001_010_1_00000, [0b00010_0_00011_1_0001, 0x0065], .bne ⟨true, 2, false, 3, true, .short 101⟩),
    (0b0100001_010_0_00000, [0b00011_1_00100_0_0010, 0x0066], .blt ⟨false, 3, true, 4, false, .short 102⟩),
    (0b0100001_011_1_00000, [0b00101_0_00110_1_0011, 0x8000, 0xFFFF], .bge ⟨true, 5, false, 6, true, .long 0xFFFF8000⟩),
    (0b0100001_010_0_00000, [0b00101_1_00110_0_0100, 0x0068], .bltu ⟨false, 5, true, 6, false, .short 104⟩),
    (0b0100001_010_1_00000, [0b00110_0_00111_1_0101, 0x0069], .bgeu ⟨true, 6, false, 7, true, .short 105⟩),
    (0b0100010_001_0_00001, [0x0010], .call 1 0x0010),
    (0b0100010_010_0_00001, [0x0000, 0x8000], .callLong 1 0x80000000),
    (0b0100011_001_0_00001, [0b00101_1_00000_0_0000], .jmpr ⟨1, 5, true⟩),
    (0x4640, [0x0801], .ret ⟨1, false⟩),
    (0b0100100_010_0_00000, [0b00111_1_1_111111111, 0x0009], .loop ⟨7, true, true, 0x1FF, 9⟩),
    (0x48E0, [0x0000, 0x0003, 0x0003], .loopImm ⟨false, 0, 3, 3⟩)] := by
  unfold reads; decide +kernel
/-- 07: branches, calls, loops, STRIP, traps and returns, continued. -/
theorem test_decode_control2 : reads [
    (0x4A47, [0x0000], .lidx 7 0),
    (0b0100101_001_0_00110, [0b00000000_101_0_0000], .lidx 6 5),
    (0b0100101_001_0_00000, [0b00000000_011_0_0001], .lbrk 3),
    (0b0100110_010_0_01100, [0b00001111_00000000, 0xFFF0], .strip ⟨12, 0x0F, 0xFFF0⟩),
    (0b0100110_011_0_01100, [0b10000001_00000000, 0xFFE0, 0b0000000_100000001], .stripCk ⟨12, 0x81, 0xFFE0⟩ 0x101),
    (0b0100111_010_0_00000, [0b00011_0_00100_1_0000, 0x00A0], .trapEq ⟨3, false, 4, true, 0xA0⟩),
    (0b0100111_010_0_00000, [0b00100_1_00101_1_0001, 0x00A1], .trapNe ⟨4, true, 5, true, 0xA1⟩),
    (0b0100111_010_0_00000, [0b00101_0_00110_1_0010, 0x00A2], .trapLt ⟨5, false, 6, true, 0xA2⟩),
    (0b0100111_010_0_00000, [0b00110_1_00111_0_0011, 0x00A3], .trapGe ⟨6, true, 7, false, 0xA3⟩),
    (0b0100111_010_0_00000, [0b00111_0_01000_0_0100, 0x00A4], .trapLtu ⟨7, false, 8, false, 0xA4⟩),
    (0b0100111_010_0_00000, [0b01000_1_01001_0_0101, 0x00A5], .trapGeu ⟨8, true, 9, false, 0xA5⟩),
    (0b0100111_010_0_00000, [0b00000_0_00000_0_1000, 0x1234], .ecall 0x1234),
    (0b0100111_010_0_00000, [0b00000_0_00000_0_1001, 0xFFFF], .brk 0xFFFF),
    (0b0101000_001_0_00000, [0b00000_0_00000_0_0000], .eret)] := by
  unfold reads; decide +kernel
/-- 07: branches, calls, loops, STRIP, traps and returns, continued. -/
theorem test_decode_control3 : reads [
    (0b0101000_001_0_00000, [0b00000_0_00000_0_0001], .eretN),
    (0b0101000_001_0_00000, [0b00000_0_00000_0_0010], .uiret)] := by
  unfold reads; decide +kernel

/-- 05, 07: system registers, TLBI, IDLE and HALT; a register with an effect of its own has a constructor of its own. -/
theorem test_decode_system : reads [
    (0b1111000_001_0_00101, [0b000101100000_0000], .mfs 5 0x160),
    (0b1111000_010_0_00000, [0b000100000101_0001, 0b00110_1_0000000000], .mts 0x105 ⟨6, true⟩),
    (0b1111000_010_0_00000, [0b000000001011_0001, 0b00110_1_0000000000], .vpartWrite ⟨6, true⟩),
    (0b1111000_010_0_00000, [0b000000011000_0001, 0b00110_1_0000000000], .matrixRegWrite 0x018 ⟨6, true⟩),
    (0b1111000_010_0_00000, [0b000000011010_0001, 0b00110_1_0000000000], .matrixRegWrite 0x01A ⟨6, true⟩),
    (0b1111000_010_0_00000, [0b000100100010_0001, 0b00110_1_0000000000], .dbellWrite ⟨6, true⟩),
    (0b1111000_010_0_00000, [0b000000000100_0001, 0b00110_1_0000000000], .lseedWrite ⟨6, true⟩),
    (0b1111000_010_0_00000, [0b000100100000_0001, 0b00110_1_0000000000], .lqregRegister ⟨6, true⟩),
    (0b1111001_001_0_00000, [0b000000_100_000_0000], .tlbiAll 4),
    (0b1111001_001_0_00000, [0b00110_1_001_000_0001], .tlbiVa ⟨6, true⟩ 1),
    (0b1111010_001_0_00000, [0b00000_0_00000_0_0000], .idle),
    (0b1111010_001_0_00000, [0b00000_0_00000_0_0001], .halt)] := by
  unfold reads; decide +kernel

/-- 14 R249, R255, R258, R261: the outbound engine. -/
theorem test_decode_turn : reads [
    (0x6045, [0x3180], .turn ⟨5, 6, false, 3⟩),
    (0b0110000_001_1_00010, [0b00011_1_101_000_0000], .turnPub ⟨2, 3, true, 5⟩),
    (0x6240, [0x0000], .fenceO),
    (0x6240, [0x0001], .fenceIo),
    (0x6240, [0x0002], .fenceSurv),
    (0b0110010_001_0_00010, [0b00011_1_000000_0000], .snapOpen ⟨2, 3, true⟩),
    (0b0110010_001_0_00010, [0b00011_1_000000_0001], .snapClose ⟨2, 3, true⟩),
    (0b1111100_001_0_01000, [0b01001_0_010_000_0000], .cacheWb ⟨8, 9, false, 2⟩),
    (0b1111100_001_0_01000, [0b01001_0_011_000_0001], .cacheInv ⟨8, 9, false, 3⟩),
    (0b1111100_001_0_01000, [0b01001_0_100_000_0010], .cacheWbinv ⟨8, 9, false, 4⟩),
    (0b1111100_001_0_01000, [0b01001_1_000_000_0011], .cacheTinit ⟨8, 9, true⟩)] := by
  unfold reads; decide +kernel

/-- 17 R296: the scheduler. -/
theorem test_decode_scheduler : reads [
    (0b0110011_001_0_00101, [0b00110_1_00111_0_000_1], .waits ⟨5, 6, true, 7, false, true⟩),
    (0b0110100_001_0_00000, [0b000000_001_000_0000], .bar 1),
    (0b0110100_001_0_00000, [0b000000_010_000_0001], .barArrive 2),
    (0b0110100_001_0_00000, [0b000000_011_000_0010], .barWait 3),
    (0b0111000_010_0_00101, [0b00110_1_00111_0_00_10, 0b01000_1_0000000000], .spawn ⟨5, 6, true, 7, false, 2, 8, true⟩),
    (0x7200, [], .done),
    (0x7240, [0x1800], .doneCtr ⟨3, false⟩),
    (0x7440, [0x1800], .waitj ⟨3, false, false, 0⟩),
    (0b0111011_001_1_00101, [0b00110_1_1_101010101], .launch ⟨true, 5, 6, true, true, 0x155⟩),
    (0b0111100_001_0_00101, [0b00110_0_00111_1_0000], .nextw ⟨5, 6, false, 7, true⟩),
    (0x7A45, [0x0002], .getid 5 2),
    (0b0111110_001_0_00000, [0b000000_1_011111111], .yield true 0x0FF)] := by
  unfold reads; decide +kernel

/-- 09 R166 to R168: vector configuration. -/
theorem test_decode_vectorConfig : reads [
    (0b1000000_001_0_00101, [0b00110_1_00000_0_0000], .vsetvl ⟨5, 6, true⟩),
    (0b1000000_001_0_00100, [0b00011_1001_000_0001], .vtag 4 3 9),
    (0b1000000_001_0_00000, [0b00110_0_00000_0_0010], .vcfg ⟨6, false⟩)] := by
  unfold reads; decide +kernel

/-- 09 R169, R171: floating arithmetic. -/
theorem test_decode_vectorFloat : reads [
    (0b1000001_010_0_00000, [0b01000_0_10000_0_0000, 0b000_00000_0_0000000], .vadd ⟨false, 0, 8, false, 16, false, 0⟩),
    (0b1000001_010_1_00001, [0b01001_0_10001_0_0001, 0b001_00000_0_0000000], .vsub ⟨true, 1, 9, false, 17, false, 1⟩),
    (0b1000001_010_0_00010, [0b01010_1_10010_0_0010, 0b010_00000_0_0000000], .vmul ⟨false, 2, 10, true, 18, false, 2⟩),
    (0b1000001_010_1_00011, [0b01011_1_10011_0_0011, 0b011_00000_0_0000000], .vdiv ⟨true, 3, 11, true, 19, false, 3⟩),
    (0b1000001_010_0_00100, [0b01100_0_10100_1_0100, 0b100_00000_0_0000000], .vmin ⟨false, 4, 12, false, 20, true, 4⟩),
    (0b1000001_010_1_00101, [0b01101_0_10101_1_0101, 0b101_00000_0_0000000], .vmax ⟨true, 5, 13, false, 21, true, 5⟩),
    (0b1000001_010_0_00110, [0b01110_0_00000_0_0110, 0b001_00000_0_0000000], .vsqrt ⟨6, 14, false, 1⟩),
    (0b1000001_010_0_00111, [0b01111_1_00000_0_0111, 0b010_00000_0_0000000], .vabs ⟨7, 15, true, 2⟩),
    (0b1000001_010_0_01000, [0b10000_0_00000_0_1000, 0b011_00000_0_0000000], .vneg ⟨8, 16, false, 3⟩),
    (0b1000001_010_1_01001, [0b10001_0_11001_0_1001, 0b001_00000_0_0000000], .vsgnj ⟨true, 9, 17, false, 25, false, 1⟩),
    (0b1000010_010_0_00000, [0b01000_0_10000_1_0000, 0b001_11000_0_0000000], .vfma ⟨false, 0, 8, false, 16, true, 24, false, 1⟩),
    (0b1000010_010_1_00001, [0b01001_0_10001_1_0001, 0b010_11001_0_0000000], .vfms ⟨true, 1, 9, false, 17, true, 25, false, 2⟩),
    (0b1000010_010_0_00010, [0b01010_0_10010_1_0010, 0b011_11010_1_0000000], .vfnma ⟨false, 2, 10, false, 18, true, 26, true, 3⟩),
    (0b1000010_010_1_00011, [0b01011_0_10011_1_0011, 0b100_11011_1_0000000], .vfnms ⟨true, 3, 11, false, 19, true, 27, true, 4⟩)] := by
  unfold reads; decide +kernel

/-- 09 R172 to R175: integer arithmetic, compares and masks. -/
theorem test_decode_vectorInt1 : reads [
    (0b1000011_010_0_00000, [0b01000_0_10000_0_0000, 0b000_00000_0_0000000], .vaddI ⟨false, 0, 8, false, 16, false, 0⟩),
    (0b1000011_010_1_00001, [0b01001_0_10001_0_0001, 0b001_00000_0_0000000], .vsubI ⟨true, 1, 9, false, 17, false, 1⟩),
    (0b1000011_010_0_00010, [0b01010_1_10010_0_0010, 0b010_00000_0_0000000], .vmulI ⟨false, 2, 10, true, 18, false, 2⟩),
    (0b1000011_010_1_00011, [0b01011_1_10011_0_0011, 0b011_00000_0_0000000], .vmulh ⟨true, 3, 11, true, 19, false, 3⟩),
    (0b1000011_010_0_00100, [0b01100_0_10100_1_0100, 0b100_00000_0_0000000], .vand ⟨false, 4, 12, false, 20, true, 4⟩),
    (0b1000011_010_1_00101, [0b01101_0_10101_1_0101, 0b101_00000_0_0000000], .vor ⟨true, 5, 13, false, 21, true, 5⟩),
    (0b1000011_010_0_00110, [0b01110_1_10110_1_0110, 0b110_00000_0_0000000], .vxor ⟨false, 6, 14, true, 22, true, 6⟩),
    (0b1000011_010_1_00111, [0b01111_1_10111_1_0111, 0b111_00000_0_0000000], .vsll ⟨true, 7, 15, true, 23, true, 7⟩),
    (0b1000011_010_0_01000, [0b10000_0_11000_0_1000, 0b000_00000_0_0000000], .vsrl ⟨false, 8, 16, false, 24, false, 0⟩),
    (0b1000011_010_1_01001, [0b10001_0_11001_0_1001, 0b001_00000_0_0000000], .vsra ⟨true, 9, 17, false, 25, false, 1⟩),
    (0b1000011_010_0_01010, [0b10010_1_11010_0_1010, 0b010_00000_0_0000000], .vminI ⟨false, 10, 18, true, 26, false, 2⟩),
    (0b1000011_010_1_01011, [0b10011_1_11011_0_1011, 0b011_00000_0_0000000], .vmaxI ⟨true, 11, 19, true, 27, false, 3⟩),
    (0b1000011_010_0_01100, [0b10100_0_11100_1_1100, 0b100_00000_0_0000000], .vadds ⟨false, 12, 20, false, 28, true, 4⟩),
    (0b1000011_010_1_01101, [0b10101_0_11101_1_1101, 0b101_00000_0_0000000], .vsubs ⟨true, 13, 21, false, 29, true, 5⟩)] := by
  unfold reads; decide +kernel
/-- 09 R172 to R175: integer arithmetic, compares and masks, continued. -/
theorem test_decode_vectorInt2 : reads [
    (0b1000011_010_0_00101, [0b00110_0_00000_0_1110, 0b000_00000_0_0000000], .vclz ⟨5, 6, false, 0⟩),
    (0b1000011_010_0_00110, [0b00111_1_00000_0_1110, 0b001_00000_0_0000001], .vctz ⟨6, 7, true, 1⟩),
    (0b1000011_010_0_00111, [0b01000_0_00000_0_1110, 0b010_00000_0_0000010], .vpopc ⟨7, 8, false, 2⟩),
    (0b1000011_010_0_01000, [0b01001_1_00000_0_1110, 0b011_00000_0_0000011], .vffs ⟨8, 9, true, 3⟩),
    (0b1000011_010_0_01001, [0b01010_0_00000_0_1110, 0b100_00000_0_0000100], .vbrev ⟨9, 10, false, 4⟩),
    (0b1000100_010_0_00001, [0b01000_0_10000_0_0000, 0b000_00000_0_0000000], .vcmpEq ⟨false, 1, 8, false, 16, false, 0⟩),
    (0b1000100_010_1_00010, [0b01001_0_10001_0_0001, 0b001_00000_0_0000000], .vcmpNe ⟨true, 2, 9, false, 17, false, 1⟩),
    (0b1000100_010_0_00011, [0b01010_1_10010_0_0010, 0b010_00000_0_0000000], .vcmpLt ⟨false, 3, 10, true, 18, false, 2⟩),
    (0b1000100_010_1_00100, [0b01011_1_10011_0_0011, 0b011_00000_0_0000000], .vcmpLe ⟨true, 4, 11, true, 19, false, 3⟩),
    (0b1000100_010_0_00101, [0b01100_0_10100_1_0100, 0b100_00000_0_0000000], .vcmpGt ⟨false, 5, 12, false, 20, true, 4⟩),
    (0b1000100_010_1_00110, [0b01101_0_10101_1_0101, 0b101_00000_0_0000000], .vcmpGe ⟨true, 6, 13, false, 21, true, 5⟩),
    (0b1000100_010_0_00111, [0b01110_1_10110_1_0110, 0b110_00000_0_0000000], .vcmpUn ⟨false, 7, 14, true, 22, true, 6⟩),
    (0b1000101_001_0_00000, [0b00001_0_00010_0_0000], .kand ⟨0, 1, false, 2, false⟩),
    (0b1000101_001_0_00001, [0b00010_1_00011_0_0001], .kor ⟨1, 2, true, 3, false⟩)] := by
  unfold reads; decide +kernel
/-- 09 R172 to R175: integer arithmetic, compares and masks, continued. -/
theorem test_decode_vectorInt3 : reads [
    (0b1000101_001_0_00010, [0b00011_0_00100_1_0010], .kxor ⟨2, 3, false, 4, true⟩),
    (0b1000101_001_0_00011, [0b00100_1_00101_1_0011], .kandn ⟨3, 4, true, 5, true⟩),
    (0b1000101_001_0_00100, [0b00101_1_00000_0_0100], .knot ⟨4, 5, true⟩),
    (0b1000101_001_0_00101, [0b00110_1_00000_0_0101], .kmov ⟨5, 6, true⟩),
    (0b1000101_001_0_00110, [0b00000_0_00000_0_0110], .kset 6),
    (0b1000101_001_0_00111, [0b00000_0_00000_0_0111], .kclr 7),
    (0b1000101_001_0_10100, [0b00001_0_00000_0_1000], .kpopc ⟨20, 1, false⟩),
    (0b1000101_001_0_10101, [0b00010_1_00000_0_1001], .kfirst ⟨21, 2, true⟩)] := by
  unfold reads; decide +kernel

/-- 09 R176 to R182, 10 R209 to R212: conversions, selects, reductions, scans and permutes. -/
theorem test_decode_vectorMove1 : reads [
    (0x8C86, [0x2000, 0x0000], .vcvt ⟨6, 4, false, 0, 0⟩),
    (0b1000110_010_0_00110, [0b00100_1_00000_0_0111, 0b010_00000_0_0000000], .vcvt ⟨6, 4, true, 7, 2⟩),
    (0b1000111_010_1_00110, [0b00100_0_00111_1_0000, 0b001_00000_0_0000000], .vscale ⟨true, 6, 4, false, 7, true, 1⟩),
    (0b1000111_010_0_00110, [0b00100_1_00000_0_0001, 0b000_00000_0_0000000], .vqnt ⟨6, 4, true, 0⟩),
    (0b1001000_010_0_00110, [0b00100_0_00111_1_0000, 0b001_00000_0_0000000], .vlut ⟨6, 4, false, 7, true, 1⟩),
    (0b1001000_010_0_00110, [0b00100_0_00000_0_0001, 0b001_00000_0_0001100], .vunpk ⟨6, 4, false, 4, true, 1⟩),
    (0b1001001_010_0_00110, [0b00100_0_00111_1_0000, 0b001_00000_0_0000000], .vsel ⟨6, 4, false, 7, true, 1⟩),
    (0b1001001_010_0_00110, [0b00100_1_00000_0_0001, 0b010_00000_0_0000000], .vmov ⟨6, 4, true, 2⟩),
    (0b1001001_010_0_00110, [0b00100_1_00000_0_0010, 0b011_00000_0_0000000], .vbcast ⟨6, 4, true, 3⟩),
    (0b1001001_010_0_00110, [0b00100_0_00111_1_0011, 0b000_00000_0_0000000], .vextr ⟨6, 4, false, 7, true⟩),
    (0b1001010_010_0_00001, [0b00010_1_00000_0_0000, 0b000_00000_0_0000000], .vredSum ⟨false, 1, 2, true, 0, false, false, 0⟩),
    (0b1001010_010_1_00010, [0b00011_1_00100_1_0001, 0b001_00000_0_0000001], .vredMin ⟨true, 2, 3, true, 4, true, true, 1⟩),
    (0b1001010_010_0_00011, [0b00100_1_00000_0_0010, 0b010_00000_0_0000000], .vredMax ⟨false, 3, 4, true, 0, false, false, 2⟩),
    (0b1001010_010_1_00100, [0b00101_1_00110_1_0011, 0b011_00000_0_0000001], .vredAnd ⟨true, 4, 5, true, 6, true, true, 3⟩)] := by
  unfold reads; decide +kernel
/-- 09 R176 to R182, 10 R209 to R212: conversions, selects, reductions, scans and permutes, continued. -/
theorem test_decode_vectorMove2 : reads [
    (0b1001010_010_0_00101, [0b00110_1_00000_0_0100, 0b100_00000_0_0000000], .vredOr ⟨false, 5, 6, true, 0, false, false, 4⟩),
    (0b1001010_010_1_00110, [0b00111_1_01000_1_0101, 0b101_00000_0_0000001], .vredXor ⟨true, 6, 7, true, 8, true, true, 5⟩),
    (0b1001011_010_0_00001, [0b00010_0_00011_0_0000, 0b000_00000_0_0000001], .vscanSum ⟨false, 1, 2, false, 3, false, true, false, 0⟩),
    (0b1001011_010_0_00010, [0b00011_0_00000_0_0001, 0b001_00000_0_0000000], .vscanMin ⟨false, 2, 3, false, 0, false, false, false, 1⟩),
    (0b1001011_010_0_00011, [0b00100_0_00101_0_0010, 0b010_00000_0_0000011], .vscanMax ⟨false, 3, 4, false, 5, false, true, true, 2⟩),
    (0b1001011_010_0_00100, [0b00101_0_00000_0_0011, 0b011_00000_0_0000010], .vscanAnd ⟨false, 4, 5, false, 0, false, false, true, 3⟩),
    (0b1001011_010_0_00101, [0b00110_0_00111_0_0100, 0b100_00000_0_0000001], .vscanOr ⟨false, 5, 6, false, 7, false, true, false, 4⟩),
    (0b1001011_010_0_00110, [0b00111_0_00000_0_0101, 0b101_00000_0_0000000], .vscanXor ⟨false, 6, 7, false, 0, false, false, false, 5⟩),
    (0b1001100_010_0_00110, [0b00100_0_00111_1_0000, 0b001_00000_0_0000000], .vperm ⟨6, 4, false, 7, true, 1⟩),
    (0b1001100_010_1_00110, [0b00100_0_00111_1_0001, 0b001_00000_0_0000000], .vslideup ⟨6, 4, false, 7, true, 1⟩),
    (0b1001100_010_1_00110, [0b00100_1_00111_0_0010, 0b010_00000_0_0000000], .vslidedn ⟨6, 4, true, 7, false, 2⟩),
    (0b1001100_010_0_00110, [0b00100_1_00000_0_0011, 0b011_00000_0_0000000], .vrev ⟨6, 4, true, 3⟩),
    (0b1001100_010_0_00110, [0b00100_0_00000_0_0100, 0b100_00000_0_0000000], .vcompress ⟨6, 4, false, 4⟩),
    (0b1001100_010_0_00110, [0b00100_1_00000_0_0101, 0b101_00000_0_0000000], .vexpand ⟨6, 4, true, 5⟩)] := by
  unfold reads; decide +kernel

/-- 10 R195 to R208: stream registers, vector accesses and transfers. -/
theorem test_decode_vectorMemory1 : reads [
    (0b1010000_001_0_00011, [0b00110_1_101_000_0000], .qcfg ⟨3, 6, true, 5⟩),
    (0b1010000_001_0_00101, [0b00011_0_111_000_0001], .qrd 5 3 7),
    (0b1010000_001_0_00011, [0b00000_0_00000_0_0010], .qrst 3),
    (0xA288, [0x1801, 0x1000], .vldStream ⟨false, true, 8, 3, 0⟩),
    (0b1010001_011_1_01000, [0b01001_0_00000_0_0000, 0b010_0_00_0000000000, 0x0040], .vld ⟨true, 8, 9, false, 2, some 0x40⟩),
    (0b1010001_010_1_01000, [0b01001_1_00000_0_0010, 0b010_0_00_0000000000], .vst ⟨true, 8, 9, true, 2, none⟩),
    (0b1010001_010_0_01000, [0b00111_0_00000_0_0011, 0b001_1_00_0000000000], .vstStream ⟨false, true, 8, 7, 1⟩),
    (0b1010010_010_1_01000, [0b01001_0_01010_1_0000, 0b001_0_11_0000000000], .vgath ⟨true, 8, 9, false, 10, true, 1, 3, none⟩),
    (0b1010010_011_0_01000, [0b01001_1_01010_0_0001, 0b001_0_10_0000000000, 0xFFF0], .vscat ⟨false, 8, 9, true, 10, false, 1, 2, some 0xFFF0⟩),
    (0b1010011_010_0_01000, [0b01001_0_00000_0_0000, 0b010_0_00_0000000000], .vlds ⟨8, 9, false, 2, none⟩),
    (0b1010011_011_1_01000, [0b01001_1_00000_0_0001, 0b010_0_00_0000000000, 0x0008], .vsts ⟨true, 8, 9, true, 2, some 8⟩),
    (0b1010011_010_0_01000, [0b01001_0_01010_1_0010, 0b001_0_01_0000000000], .vldsx ⟨8, 9, false, 10, true, 1, 1, none⟩),
    (0b1010011_010_0_01000, [0b01001_1_01010_0_0011, 0b001_0_10_0000000000], .vstsx ⟨false, 8, 9, true, 10, false, 1, 2, none⟩),
    (0b1010100_001_1_00101, [0b011_10_1_01100_0_0000], .strmVector ⟨true, 5, 3, 2, true, 12, false⟩)] := by
  unfold reads; decide +kernel
/-- 10 R195 to R208: stream registers, vector accesses and transfers, continued. -/
theorem test_decode_vectorMemory2 : reads [
    (0b1010100_001_0_00101, [0b011_00_0_01100_1_0001], .strmScratchpad ⟨false, 5, 3, 0, false, 12, true⟩),
    (0b1010100_001_0_00101, [0b111_11_1_01100_0_0010], .strmFabric ⟨false, 5, 7, 3, true, 12, false⟩),
    (0b1010100_001_0_00000, [0b000_00_0_00110_0_0011], .strmc 6),
    (0b1010100_001_0_00101, [0b000_00_0_00110_0_0100], .strmq 5 6),
    (0b1010101_010_1_00101, [0b00110_0_00111_1_0000, 0b01000_0_0000000000], .copyIn ⟨true, 5, 6, false, 7, true, 8, false⟩),
    (0b1010101_010_0_00101, [0b00110_1_00111_0_0001, 0b01000_1_0000000000], .copyOut ⟨false, 5, 6, true, 7, false, 8, true⟩)] := by
  unfold reads; decide +kernel

/-- 12: the matrix engine. -/
theorem test_decode_matrix1 : reads [
    (0xC041, [0x3000], .tshape 1 ⟨6, false⟩),
    (0xC241, [0x4800], .tld ⟨1, 9, false, 0⟩),
    (0xC282, [0x4800, 0x0040], .tldDisp ⟨2, 9, false, 0, 0x40⟩),
    (0b1100001_001_0_00011, [0b00101_0_00_1_1_00_0000], .tldMem ⟨3, 5, true⟩),
    (0b1100001_001_0_00011, [0b01001_1_11_0_0_00_0001], .tst ⟨3, 9, true, 3⟩),
    (0b1100001_010_0_00011, [0b01001_0_10_0_0_00_0001, 0xFF80], .tstDisp ⟨3, 9, false, 2, 0xFF80⟩),
    (0b1100001_001_0_00011, [0b00101_0_00_1_0_00_0001], .tstMem ⟨3, 5, false⟩),
    (0b1100010_001_0_00111, [0b00000_0_00000_0_0000], .tzero 7),
    (0b1100010_001_0_00001, [0b00000_0_00000_0_0001], .tzeroAcc 1),
    (0b1100010_001_0_00011, [0b00101_0_00000_0_0010], .tmov 3 5),
    (0xC642, [0x0400], .twld 2 4),
    (0b1100011_001_0_00011, [0b00000_010_0_0_10_0001], .twldCb 3 2),
    (0b1100011_001_0_00011, [0b00101_011_0_0_00_0010], .twldSp 3 5 3),
    (0b1100100_001_0_00001, [0b01100_1_00000_0_0001], .tcbk ⟨1, 12, true⟩)] := by
  unfold reads; decide +kernel
/-- 12: the matrix engine, continued. -/
theorem test_decode_matrix2 : reads [
    (0xC881, [0x6001, 0x0010], .tcbkDisp ⟨1, 12, false⟩ 0x10),
    (0b1100100_001_0_00000, [0b01100_0_00000_0_0000], .tcbkS ⟨0, 12, false⟩),
    (0b1100100_010_0_00001, [0b01100_0_00000_0_0000, 0x0020], .tcbkSDisp ⟨1, 12, false⟩ 0x20),
    (0xCA40, [0x0A80], .tmma ⟨0, 1, 2, true⟩),
    (0b1100101_001_0_00001, [0b00011_100_0_000_0001], .tmmaSp ⟨1, 3, 4, false⟩),
    (0xCC48, [0x0000], .tdrain ⟨8, 0, 0, false⟩),
    (0b1100110_001_0_01000, [0b00001_0_00000_0_0001], .tdrainN 8 1),
    (0b1100110_001_1_01000, [0b00001_0_00110_0_0010], .taccSet ⟨true, 8, 1, 6, false⟩),
    (0b1100110_001_0_01000, [0b00001_0_00110_1_0011], .taccAdd ⟨false, 8, 1, 6, true⟩),
    (0b1100111_001_0_00101, [0b00011_0_00000_0_0000], .tstat 5 3),
    (0b1100111_001_0_00101, [0b00000_0_00000_0_0001], .tstatIdle 5)] := by
  unfold reads; decide +kernel

/-- 19 R330, R331, 20 R343 to R347, 22: collectives, reconciliation and survivable memory. -/
theorem test_decode_fabric1 : reads [
    (0xD88C, [0x28C0, 0x3800], .bind ⟨12, 5, false, 6, false, 7⟩),
    (0xD848, [0x6001], .unbind 8 12),
    (0b1101101_010_1_00101, [0b00110_0_00111_1_0000, 0b01000_1_01001_0_10_00], .mcast ⟨true, 5, 6, false, 7, true, 8, true, 9, false, 2⟩),
    (0xE086, [0x48E0, 0x4000], .skins ⟨6, 9, false, 7, false, 8, false⟩),
    (0b1110000_001_0_00101, [0b00110_1_00111_0_0001], .skdel ⟨5, 6, true, 7, false⟩),
    (0b1110000_001_0_00101, [0b00110_0_00111_1_0010], .skclr ⟨5, 6, false, 7, true⟩),
    (0b1110001_010_0_00100, [0b00110_1_00111_0_0000, 0b00101_00000000000], .sklook ⟨4, 5, 6, true, 7, false⟩),
    (0b1110010_010_0_00001, [0b00110_0_00111_0_0000, 0x0000], .reconPull ⟨1, 6, false, 7, false⟩),
    (0b1110010_010_0_00010, [0b00110_1_00111_0_0001, 0x0000], .reconPush ⟨2, 6, true, 7, false⟩),
    (0b1110010_010_0_00011, [0b00110_0_00111_1_0010, 0x0000], .reconMerge ⟨3, 6, false, 7, true⟩),
    (0b1110010_010_0_00100, [0b00110_1_00111_1_0011, 0x0000], .reconSave ⟨4, 6, true, 7, true⟩),
    (0b1110010_010_0_00101, [0b00110_0_00111_1_0100, 0b01000_1_01001_0_0000], .reconDiff ⟨5, 6, false, 7, true, 8, true, 9, false⟩),
    (0b1110010_001_0_00101, [0b00110_1_00000_0_1000], .reconq ⟨5, 6, true⟩),
    (0b1110100_001_0_00001, [0b00110_0_00000_0_0000], .survq ⟨1, 6, false⟩)] := by
  unfold reads; decide +kernel
/-- 19 R330, R331, 20 R343 to R347, 22: collectives, reconciliation and survivable memory, continued. -/
theorem test_decode_fabric2 : reads [
    (0b1110100_001_0_00010, [0b00110_1_00000_0_0001], .survqGrp ⟨2, 6, true⟩),
    (0b1110100_001_0_00011, [0b00110_0_00000_0_0010], .survqSeal ⟨3, 6, false⟩)] := by
  unfold reads; decide +kernel

/-! ## States that meet the hypotheses of the statements -/

/-- Strand 0 running in a line of 31 heads at 0x400000. -/
def st0 : Strand := { Strand.reset with run := .active, pc := 0x400002, vstate := 3, line := some ⟨0x400000, 0x1F⟩ }
/-- That strand alone. -/
def s0 : State := { State.reset with strands := [(0, st0)] }
/-- The same with the page of 0x400000 mapped, readable, writable and executable, and s1 an address in it. -/
def s1 : State := (s0.setS 1 0x400040).readyAt 0x1F
/-- s1 with the leaf of page 0x410000 given. -/
def withLeaf (s : State) (leaf : Nat) : State := { s with mem := Memory.writeN s.mem 0x20208 8 leaf }
/-- The access that a check granted. -/
def accOf (r : Except Cause Acc × State) : Acc := match r.1 with | .ok a => a | .error _ => ⟨0, 0, ⟨0, false, 0, 0, 0⟩⟩
theorem acc_ok {r : Except Cause Acc × State} (h : r.1.isOk = true) : r = (.ok (accOf r), r.2) := by
  obtain ⟨x, s⟩ := r
  cases x with
  | ok a => rfl
  | error e => simp [Except.isOk, Except.toBool] at h
/-- The line that a target's check entered. -/
def lineOk (r : Except TrapInfo CodeLine × State) : CodeLine := match r.1 with | .ok a => a | .error _ => ⟨0, 0⟩
theorem line_ok {r : Except TrapInfo CodeLine × State} (h : r.1.isOk = true) : r = (.ok (lineOk r), r.2) := by
  obtain ⟨x, s⟩ := r
  cases x with
  | ok a => rfl
  | error e => simp [Except.isOk, Except.toBool] at h
/-- The value of a result, or d. -/
def okOf {ε α : Type} (d : α) (r : Except ε α) : α := match r with | .ok a => a | .error _ => d
theorem ok_of {ε α : Type} (d : α) {r : Except ε α} (h : r.isOk = true) : r = .ok (okOf d r) := by
  cases r with
  | ok a => rfl
  | error e => simp [Except.isOk, Except.toBool] at h
theorem ok_pair {ε α σ : Type} (d : α) {r : Except ε α × σ} (h : r.1.isOk = true) : r = (.ok (okOf d r.1), r.2) := by
  obtain ⟨x, s⟩ := r
  simpa using ok_of d h
theorem error_of {ε α : Type} {r : Except ε α} (h : r.isOk = false) : ∃ e, r = .error e := by
  cases r with
  | ok a => simp [Except.isOk, Except.toBool] at h
  | error e => exact ⟨e, rfl⟩
theorem error_pair {ε α σ : Type} {r : Except ε α × σ} (h : r.1.isOk = false) : ∃ e u, r = (.error e, u) := by
  obtain ⟨x, s⟩ := r
  obtain ⟨e, he⟩ := error_of h
  exact ⟨e, s, by simpa using he⟩
theorem ok_two {ε α β : Type} {r : Except ε (α × β)} (h : r.isOk = true) : ∃ a b, r = .ok (a, b) := by
  cases r with
  | ok a => exact ⟨a.1, a.2, rfl⟩
  | error e => simp [Except.isOk, Except.toBool] at h
theorem pair_of {α σ : Type} {r : α × σ} {a : α} (h : r.1 = a) : r = (a, r.2) := by rw [← h]
/-- The result is the error e. -/
def errIs {ε α : Type} [DecidableEq ε] (e : ε) (r : Except ε α) : Bool := match r with | .ok _ => false | .error x => decide (x = e)
theorem error_is {ε α : Type} [DecidableEq ε] {e : ε} {r : Except ε α} (h : errIs e r = true) : r = .error e := by
  cases r with
  | ok a => simp [errIs] at h
  | error x => simpa [errIs] using h
theorem unit_pair {ε σ : Type} {r : Except ε Unit × σ} (h : r.1.isOk = true) : ∃ u, r = (.ok (), u) := ⟨_, ok_pair () h⟩
theorem unit_ok {r : Res Unit} (h : r.isOk = true) : r = .ok () := by
  cases r with
  | ok a => rfl
  | error e => simp [Except.isOk, Except.toBool] at h
theorem decode_ok {h : Half} {t : List Half} {i : Instr} (e : ((decode h t).toOption == some i) = true) : decode h t = .ok i := by
  cases g : decode h t with
  | ok a => simpa [g, Except.toOption] using e
  | error a => simp [g, Except.toOption] at e
theorem mget_all {α : Type} {d : α} {m : Map α} (P : α → Prop) (hd : P d) (h : ∀ e ∈ m, P e.2) (k : Nat) : P (mget d m k) := by
  induction m with
  | nil => exact hd
  | cons e m ih =>
    obtain ⟨a, x⟩ := e
    by_cases hk : k = a
    · simpa [mget, hk] using h (a, x) (by simp)
    · simpa [mget, hk] using ih (fun e he => h e (by simp [he]))
theorem noGroups_of {s : State} (h : ∀ e ∈ s.mods, e.2.pgrp.getLsbD 0 = false) : NoGroups s := by
  intro m
  have := mget_all (d := Module.reset) (fun x => x.pgrp.getLsbD 0 = false) (by decide) h m
  simp only [groupsAt, State.modl, this]
  rfl
theorem plainHome_of {s : State} (h : ∀ e ∈ s.mods, e.2.pgrp.getLsbD 0 = false ∧ e.2.rinse.reenc = []) (hr : s.redirect = []) (hv : s.vers = []) :
    PlainHome s :=
  ⟨noGroups_of (fun e he => (h e he).1), hr, hv,
    mget_all (d := Module.reset) (fun x => x.rinse.reenc = []) (by decide) (fun e he => (h e he).2)⟩
/-- A changed strand 0. -/
def s0With (f : Strand → Strand) : State := s0.updMe f
/-- s0 with register 1 an odd address, a line's byte 0, or a head of the line at 0x400000. -/
def s0At (v : Word) : State := s0.setS 1 v

/-! ### Encoding, the step and the trap -/

theorem witness_EncodeRoundTrip : Instr.wf .halt = true ∧ encode .halt = some (0xF440 :: [0x0001]) := by decide +kernel
theorem witness_EncodeTotal : Instr.isEvent .nop = false ∧ Instr.isEvent (.idleWake 0) = true := by decide
theorem witness_DecodeExact : decode 0x7A45 [0x0002] = .ok (.getid 5 2) := decode_ok (by decide +kernel)
theorem witness_StepRunsDecoded : ∃ l u,
    let s : State := { s0 with sched := [.strand 0] }
    let t : State := { s.tick with sched := [], cur := 0 }
    (s.sched = .strand 0 :: [] ∧ (windowFirst t).me.fetching = true ∧ issueHeld (windowFirst t) = false ∧ dueFirst (windowFirst t) = none
        ∧ acquiring (windowFirst t) 0 = false)
      ∧ enterLine (windowFirst t) = (.ok l, u) ∧ decode (lineInstr l.data (offOf u.me.pc)).1 (lineInstr l.data (offOf u.me.pc)).2 = .ok .nop :=
  ⟨_, _, by decide +kernel, line_ok (by decide +kernel), decode_ok (by decide +kernel)⟩
theorem witness_StepDefaultOrder :
    let s : State := { s0 with agenda := [.idleWake 0], evTurn := true }
    s.sched = [] ∧ s.evTurn = true ∧ s.agenda = .idleWake 0 :: [] ∧ s0.sched = [] ∧ s0.evTurn = false := by decide
theorem witness_CodeLines :
    lineFault 0x1F = 0 ∧ lineFault 0x01 = 0 ∧ lineFault 0x20 = 1 ∧ lineFault 0 = 2 ∧ lineFault 0x40001F = 3 ∧ lineFault (0x01 ||| 1#512 <<< 32) = 4
    ∧ lineFault (0x01 ||| 1#512 <<< 511) = 4
    ∧ lineInstr 0x1001E (offOf s0.me.pc) = (0x0001, []) ∧ lineInstr 0x400001 (offOf s0.me.pc) = (0x0040, [0x0000])
    ∧ Straight s0 ∧ s0.me.run = .active ∧ s0.me.line = some ⟨0x400000, 0x1F⟩ ∧ lineOf s0.me.pc = 0x400000
    ∧ Straight (s0With fun st => { st with pc := 0x40003E }) ∧ lineOf 0x40003E = 0x400000 ∧ lineN 0x1F = 31 := by decide +kernel
theorem witness_TrapEntry :
    (s0.mycore.window = [] ∧ s0.me.status.nest = false ∧ NoneHeld s0 ∧ NoDirect s0 ∧ (checkTarget s0 0 0 true).1.isOk = false)
    ∧ ∃ l u, checkTarget (s1.setStrand 0 { s1.me.trapEntry { code := 1 } with tvec := 0x400002 }) 0 0x400002 true = (.ok l, u) :=
  ⟨by decide +kernel, _, _, line_ok (by decide +kernel)⟩
theorem witness_NestedTrap : let s := s0With fun st => { st with status := { st.status with nest := true } }
    s.mycore.window = [] ∧ s.me.status.nest = true := by decide +kernel
theorem witness_OperandTest :
    let e := s0With fun st => st.markEmpty 1 1
    let a := s0With fun st => { st.markEmpty 1 1 with tested := some st.pc }
    let x := s0With fun st => { st with sregs := [(2, ⟨0, true, .poison 0x400040, 0⟩)] }
    let h := s0.updCore 0 (fun c => { c with hand := [(handV 3, 1, 0)] })
    (∀ o ∈ [Opnd.s 1 true, .v 3 false], o.file = 1 → fabBusy e (coreOf e.cur) o.n = false)
    ∧ (e.me.tested ≠ some e.me.pc ∧ opFull e (.s 1 true) = false ∧ opFull e (.s 2 false) = true ∧ opFull e (.s 1 false) = false
      ∧ handed e e.cur ([Opnd.s 1 false].filterMap Opnd.key) = false)
    ∧ (a.me.tested = some a.me.pc ∧ opFull a (.s 1 true) = false ∧ scalarMark a (.s 1 true) = none)
    ∧ (opFull x (.s 2 false) = true ∧ (x.me.sreg 2).mark = .poison 0x400040 ∧ scalarMark x (.s 3 false) = none)
    ∧ handed h h.cur ([Opnd.v 3 false].filterMap Opnd.key) = true
    ∧ opFull s0 (.s 1 false) = true ∧ scalarMark s0 (.s 1 false) = none := by decide +kernel
theorem witness_ScalarRegisterFile : (31 : Reg) ≠ 0 ∧ (28 : Reg) ≠ 0 ∧ (27 : Reg) ≠ 0
    ∧ (s0With fun st => { st with status := { st.status with uiact := true } }).me.status.uiact = true ∧ s0.me.status.uiact = false := by decide

/-! ### The integer unit -/

theorem witness_LoadImmediate : Straight s0 := by decide
theorem witness_IntegerRegisterForms : Straight s0 ∧ Readable s0 [1, 2] ∧ Readable s0 [0, 0] := by decide
theorem witness_IntegerImmediateForms : Straight s0 ∧ Readable s0 [31] := by decide
theorem witness_MultiplyDivide :
    let s := (s0.setS 1 (BitVec.intMin 64)).setS 2 (-1)
    let t := (s0.setS 1 0x80000000).setS 2 0xFFFFFFFF
    Straight s ∧ Readable s [1, 2] ∧ sv s 1 = BitVec.intMin 64 ∧ sv s 2 = -1 ∧ sv s 2 ≠ 0 ∧ sv s 3 = 0
    ∧ Straight t ∧ Readable t [1, 2] ∧ (sv t 1).setWidth 32 = BitVec.intMin 32 ∧ (sv t 2).setWidth 32 = (-1 : BitVec 32)
    ∧ (sv (s0.setS 3 0x100000000) 3).setWidth 32 = (0 : BitVec 32) := by decide
theorem witness_BitCounts : Straight s0 ∧ Readable s0 [0] ∧ Readable s0 [1] := by decide
theorem witness_BitFieldsAndLea : Straight s0 ∧ Readable s0 [1, 2, 3] ∧ (0 : BitVec 6).toNat + (63 : BitVec 6).toNat + 1 ≤ 64 ∧ Readable s0 [1, 31] := by
  decide

/-! ### Scalar memory -/

/-- s1 whose next load reads late, and s1 with a load of 8 bytes at s1 checked ahead. -/
def sLate : State := s1.updMe (fun st => { st with late := true })
/-- The same with its page in the direct aperture. -/
def sLateDir : State := withLeaf ((sLate.setS 1 0x410000)) (0x41041F)
def sEarly : State := s1.updMe (fun st => { st with early := [⟨0x400040, 8, 0x4000, 5, false⟩] })
/-- A granted access. -/
def okAcc (r : Except Cause Acc × State) : Prop := ∃ a u, r = (.ok a, u)
theorem okAcc_of {r : Except Cause Acc × State} (h : r.1.isOk = true) : okAcc r := ⟨_, _, acc_ok h⟩
theorem witness_ScalarLoad : FormAt (.ld ⟨3, 1, false, false, false, 3⟩) 0 (.ld ⟨3, 1, false, false, false, 3⟩) (.ldDisp ⟨3, 1, false, false, false, 3⟩)
    ∧ (∀ s ∈ [s1, sLate, sEarly], Straight s ∧ Readable s [1] ∧ (sv s 1 + 0).toNat % 8 = 0 ∧ busyGran s s.cur (sv s 1 + 0) false = false ∧ NoneLate s ∧ NoneHeld s)
    ∧ (∀ s ∈ [s1, sLate], okAcc (checkAccess s s.cur (sv s 1 + 0) { kind := .read }) ∧ s.me.early.find? (fun x => x.va == 0x400040 && x.len == 8) = none ∧ NoDirect s)
    ∧ (∃ a u, checkAccess sLateDir sLateDir.cur (sv sLateDir 1 + 0) { kind := .read } = (.ok a, u) ∧ a.dir = true ∧ PathClear sLateDir (granOf a.pa) ∧ sLateDir.me.late = true)
    ∧ okAcc (checkAccess sEarly sEarly.cur (sv sEarly 1 + 0) { kind := .read, tag := false, scope2 := false })
    ∧ (sEarly.me.early.find? (fun x => x.va == 0x400040 && x.len == 8) = some ⟨0x400040, 8, 0x4000, 5, false⟩ ∧ s1.me.late = false ∧ sLate.me.late = true)
    ∧ NoGroups s1 := by
  refine ⟨.inl ⟨rfl, rfl⟩, by decide +kernel, fun s hs => ⟨okAcc_of ?_, ?_⟩, ⟨_, _, acc_ok ?_, ?_⟩, okAcc_of ?_, ?_, noGroups_of ?_⟩
  · revert s; decide +kernel
  · revert s; decide +kernel
  all_goals decide +kernel
theorem witness_ScalarStore : ∃ a u, FormAt (.stDisp ⟨1, false, 2, false, 0⟩ (.short 0x3F)) 0x3F (.st ⟨1, false, 2, false, 0⟩) (.stDisp ⟨1, false, 2, false, 0⟩)
    ∧ checkAccess s1 s1.cur (sv s1 1 + 0x3F) { kind := .write } = (.ok a, u) ∧ NoGroups s1
    ∧ (Straight s1 ∧ Readable s1 [1, 2] ∧ (sv s1 1 + 0x3F).toNat % 1 = 0 ∧ busyGran s1 s1.cur (sv s1 1 + 0x3F) true = false ∧ a.dir = false ∧ a.pa % 1 = 0
      ∧ PathOk s1 (coreOf s1.cur) ∧ SliceRoom s1 (coreOf s1.cur) ∧ NoneHeld s1 ∧ NoneLate s1 ∧ NoDirect s1 ∧ s1.vers = []
      ∧ unreachable u (moduleOf s1.cur) a.pa = false ∧ (s1.tag (granOf a.pa)).corrupt = false) := by
  refine ⟨_, _, .inr ⟨_, rfl, rfl⟩, acc_ok ?_, noGroups_of ?_, ?_⟩ <;> decide +kernel
theorem witness_Misaligned : Readable s1 [1, 2] ∧ (sv s1 1 + 1).toNat % 2 ≠ 0 ∧ (sv s1 1 + 4).toNat % 8 ≠ 0 := by decide +kernel
theorem witness_ScratchpadAccess :
    let s := s0.setS 1 (BitVec.ofNat 64 (Config.scratchBytes - 8))
    let h := s.updCore 0 (fun c => { c with hand := (handWords (Config.scratchBytes - 8) 8).map (fun k => (k, 1, 0)) })
    Straight s ∧ (sv s 1).toNat + 8 ≤ Config.scratchBytes ∧ (sv s 1).toNat % 8 = 0 ∧ s.mycore.scratch.wf = true ∧ Readable s [1, 2] ∧ selfBusy s = false
    ∧ handed s s.cur (handWords (sv s 1).toNat 8) = false ∧ selfBusy h = false ∧ handed h h.cur (handWords (sv h 1).toNat 8) = true := by decide +kernel
theorem witness_ScalarStore_direct : ∃ a u, checkAccess sLateDir sLateDir.cur (sv sLateDir 1 + 0) { kind := .write } = (.ok a, u)
    ∧ (a.dir = true ∧ a.pa % 8 = 0 ∧ unreachable u (moduleOf sLateDir.cur) a.pa = false ∧ Straight sLateDir ∧ Readable sLateDir [1, 2]
      ∧ busyGran sLateDir sLateDir.cur (sv sLateDir 1 + 0) true = false) := by
  refine ⟨_, _, acc_ok ?_, ?_⟩ <;> decide +kernel
theorem witness_Prefetch : (Straight s1 ∧ (s1.me.sreg 1).full = true ∧ NoneHeld s1 ∧ NoDirect s1) ∧ NoGroups s1
    ∧ ∃ c u, checkAccess (s1.setS 1 0x420000) 0 (sv (s1.setS 1 0x420000) 1 + 0) { kind := .read, touch := false } = (.error c, u) :=
  ⟨by decide +kernel, noGroups_of (by decide +kernel), error_pair (by decide +kernel)⟩
theorem witness_Arrivals :
    let d : Prod := { tok := 7, sdest := some 5, sval := 42, smark := .clean, vdest := [(3, 0, 0)], ea := 0, regs := [4] }
    let c := fun (s : State) => s.updCore 0 (fun c => { c with v := [(3, { VReg.zero with tok := 7, full := false }), (4, { VReg.zero with tok := 7, full := false })] })
    let s := c (s0With fun st => { st.markEmpty 5 7 with prods := [d] })
    let f := s0With fun st => { st.markEmpty 5 7 with prods := [{ d with home := some 0x400040, vdest := [], regs := [] }] }
    let g := s0With fun st => { st.markEmpty 5 7 with prods := [{ d with home := some 0x400040, late := some (0x400040, 8, true, true) }] }
    let l : State := { (s0With fun st => { st.markEmpty 5 7 with prods := [{ d with msg := 9 }] }) with lost := [9] }
    let r : Remote := { strand := 0, core := 1, write := [(0, [1, 2])], untag := false, mc := 0, tok := 9, dest := none, off := 0, len := 0, zext := false, ea := 0
                        vd := none, w := 0, elems := [], msg := 9 }
    let q : Remote := { r with write := [], dest := some 5, tok := 7, len := 8 }
    let w : Remote := { q with dest := none, vd := some 3, w := 32 }
    ((s.strand 0).prods[0]? = some d ∧ s.arrived d.msg = true ∧ s.lost.contains d.msg = false ∧ d.home = none
      ∧ ((s.strand 0).cell 5).tok = 7 ∧ ((s.strand 0).cell 6).tok ≠ 7 ∧ s.remote = [] ∧ (s.strand 0).prods.erase d = []
      ∧ (mget VReg.zero (s.core 0).v 3).tok = 7 ∧ (mget VReg.zero (s.core 0).v 4).tok = 7)
    ∧ ((∀ x ∈ [f, g], x.arrived 0 = true ∧ x.lost.contains 0 = false) ∧ (f.strand 0).prods[0]?.bind (·.home) = some 0x400040
      ∧ (f.strand 0).prods[0]?.map (·.late) = some none ∧ (f.strand 0).prods[0]?.bind (·.sdest) = some 5 ∧ (0x400040 : Nat) < 2 ^ 52
      ∧ (g.strand 0).prods[0]?.bind (·.home) = some 0x400040)
    ∧ ((l.strand 0).prods[0]? = some { d with msg := 9 } ∧ l.arrived 9 = true ∧ l.lost.contains 9 = true ∧ (l.strand 0).reports.length < 4)
    ∧ (({ l with remote := [r] } : State).remote.filter (fun r => r.mc = 0))[0]? = some r ∧ remoteDue { l with remote := [r] } r = true
    ∧ (r.write ≠ [] ∧ remoteLost { l with remote := [r] } r = true ∧ remoteDue { s with remote := [r] } r = true ∧ remoteLost { s with remote := [r] } r = false)
    ∧ (s.core 1).scratch.wf = true ∧ (remoteDue { s with remote := [q] } q = true ∧ remoteLost { s with remote := [q] } q = false
      ∧ handed { s with remote := [q] } 0 q.keys = false)
    ∧ (remoteDue { s with remote := [w] } w = true ∧ remoteLost { s with remote := [w] } w = false ∧ handed { s with remote := [w] } 0 w.keys = false)
    ∧ (let q := { q with core := 0 }
      let h := ({ s with remote := [q] } : State).updCore 0 (fun c => { c with hand := [(0, 1, 0)] })
      remoteDue h q = true ∧ handed h 0 q.keys = true) := by decide +kernel
theorem witness_OutboundDrain :
    let w : Wcb := ⟨0x4000, [(0x400000, 1)], [⟨0, 0x400000, 0x400000⟩], 0⟩
    let s := s0.updCore 0 (fun c => { c with wcb := [w] })
    (s.core 0).wcb[0]? = some w ∧ PathOk s 0 ∧ SliceRoom s 0 ∧ w.opened + 4096 ≤ ({ s with clk := 4096 } : State).clk ∧ s.clk < w.opened + 4096
    ∧ (let t : State := { s with adq := [⟨0x20200, 0x1800, 0, 0, 0⟩] }
      t.adq[0]? = some ⟨0x20200, 0x1800, 0, 0, 0⟩ ∧ t.arrived 0 = true ∧ eventHeld t 0x20200 = false ∧ t.lost.contains 0 = false ∧ unreachable t 0 0x20200 = false
      ∧ t.mem.wf = true ∧ t.poison.contains (0x20200 / 64) = false ∧ 0x20200 % 8 = 0 ∧ (0x20200 : Nat) < 2 ^ 52)
    ∧ (let t : State := { s with adq := [⟨0x20200, 0x1800, 0, 0, 9⟩], lost := [9] }
      t.arrived 9 = true ∧ eventHeld t 0x20200 = false ∧ t.lost.contains 9 = true ∧ (t.strand 0).reports.length < 4)
    ∧ (let t : State := { s with adq := [⟨0x20200, 0x1800, 0, 0, 0⟩], gap := [(granOf 0x20200, 1)], homeq := [⟨0, 7, none, none, 1, 8, 0x20200, 0x20200, 0x2FFFF, 5, false, false, 1, 0, 0⟩] }
      t.adq ≠ [] ∧ ∀ x ∈ t.adq, eventHeld t x.leafPa = true) := by decide +kernel
theorem witness_PlainHome : PlainHome s0 := plainHome_of (by decide +kernel) rfl rfl
theorem witness_HomeMerge :
    let m : Merge := { cells := [(0x400000, 1), (0x40003F, 2)], writers := [⟨0, 0x400000, 0x400000⟩], cluster := 0, msg := 0 }
    let o : Outbound := ⟨0, 0x4000, [(0x400000, 1)], [], false⟩
    let s : State := { s0 with outbound := [o], merges := [m] }
    let r : HomeReq := ⟨0, 7, some 5, none, 1, 8, 0x400040, 0x400040, 0x40FFFF, 5, false, false, 1, 0, 0⟩
    let h : State := { s with gap := [(0x4000, 1)], homeq := [r] }
    ((s.outbound.filter (fun o => o.cluster = 0))[0]? = some o ∧ eventHeld s (o.gran * 256) = false)
    ∧ ((h.outbound.filter (fun o => o.cluster = 0))[0]? = some o ∧ eventHeld h (o.gran * 256) = true)
    ∧ (let t : State := { h with merges := [m] }
      t.merges ≠ [] ∧ ∀ x ∈ t.merges, x.cells ≠ [] ∧ ∀ c ∈ x.cells, granOf c.1 = 0x4000 ∧ eventHeld t c.1 = true)
    ∧ (let t : State := { s with merges := [{ m with msg := 9 }], lost := [9] }
      mergeDue t { m with msg := 9 } = true ∧ t.lost.contains 9 = true ∧ (t.strand 0).reports.length < 4 ∧ dieDown t (0x10000 * 64) = false)
    ∧ (s.merges[0]? = some m ∧ mergeDue s m = true ∧ m.msg = 0 ∧ m.cells ≠ [] ∧ (∀ c ∈ m.cells, c.1 / 64 = 0x10000)
      ∧ (m.cells.map (·.1)).Nodup ∧ s.mem.wf = true ∧ s.poison.contains 0x10000 = false ∧ m.cells.length < 64 ∧ m.writers = [⟨0, 0x400000, 0x400000⟩]
      ∧ (s.strand 0).reports.length < 4) := by decide +kernel

/-! ### Control -/

theorem witness_BranchesAndCalls :
    (∃ l u, Enters s1 (s1.me.pc + 2 * (1 : BitVec 16).signExtend 64) s1.me.status.prv l u)
    ∧ (∃ l u, Enters s1 (s1.me.pc + 2 * (29 : BitVec 32).signExtend 64) s1.me.status.prv l u)
    ∧ (let s := s1.setS 2 0x40003E
      Readable s [2] ∧ (∃ l u, Enters s (sv s 2) s.me.status.prv l u) ∧ (Readable s [2, 0] ∧ Straight s
      ∧ (sv s 2 == sv s 2) = true ∧ (sv s 2 == sv s 0) = false ∧ sltAt true (sv s 0) (sv s 2) = true ∧ sltAt true (sv s 2) (sv s 0) = false
      ∧ ultAt false (sv s 0) (sv s 2) = true ∧ ultAt false (sv s 2) (sv s 0) = false)
      ∧ ∃ l u, Enters s (s.me.pc + 2 * (Imm.short 1).word) s.me.status.prv l u) :=
  ⟨⟨_, _, line_ok (by decide +kernel)⟩, ⟨_, _, line_ok (by decide +kernel)⟩, by decide +kernel, ⟨_, _, line_ok (by decide +kernel)⟩, by decide +kernel,
    ⟨_, _, line_ok (by decide +kernel)⟩⟩
/-- A state whose every transfer has target v, before a line of one head. -/
def sJump (v : Word) : State :=
  ((((s0.setS 1 v).readyAt 0x01).setS 1 v).setS 2 9).updMe (fun st =>
    { st with loopd := 1, loops := [(0, ⟨3, 2, v, st.pc, false, 0⟩)], line := some ⟨0x400000, 0x1F⟩, trap := { st.trap with epc := v }, ui := { st.ui with epc := v }
              status := { st.status with prv := true, pprv := true, uiact := true }, vec := { st.vec with vl := 8 } })
theorem witness_BadTarget :
    (∀ s ∈ [0x400003, 0x400040, 0x420002, 0x400004].map sJump,
      (Readable s [1, 2] ∧ s.me.loopd < 6 ∧ (0 : BitVec 3).toNat < s.me.loopd ∧ s.me.vec.vl.toNat < (sv s 2).toNat
        ∧ s.me.status.prv = true ∧ s.me.status.uiact = true ∧ (sv s 1 == sv s 1) = true)
      ∧ (s.me.line = some ⟨0x400000, 0x1F⟩ ∧ (0x400000 : Word) = lineOf (s.me.loop 0).fin ∧ s.me.replay = none)
      ∧ (0 < s.me.loopd ∧ (s.me.loop (s.me.loopd - 1)).fin = s.me.pc ∧ (s.me.loop (s.me.loopd - 1)).cnt ≠ 1 ∧ (s.me.loop (s.me.loopd - 1)).beg = sv s 1)
      ∧ s.me.trap.epc = sv s 1 ∧ s.me.ui.epc = sv s 1)
    ∧ (0x400003 % 2 = 1 ∧ 0x400040 % 64 = 0 ∧ (∀ v ∈ [0x420002, 0x400004], v % 2 = 0 ∧ v % 64 ≠ 0))
    ∧ ((s0.me.pc + 2 * (31 : BitVec 16).signExtend 64).toNat % 64 = 0 ∧ ((s0.me.pc + 1) + 2 * (3 : BitVec 32).signExtend 64).toNat % 2 = 1)
    ∧ (∃ e u, fetchLine (sJump 0x420002) 0 0x420002 true = (.error e, u))
    ∧ (∃ l u, fetchLine (sJump 0x400004) 0 0x400004 true = (.ok l, u) ∧ 2 * lineN l.data < offOf 0x400004) :=
  ⟨by decide +kernel, by decide +kernel, by decide +kernel, error_pair (by decide +kernel), _, _, line_ok (by decide +kernel), by decide +kernel⟩
/-- s1 at the last head of a loop's body. -/
def s1Loop (cnt : Word) (ck : Bool) : State :=
  s1.updMe (fun st => { st with loopd := 1, loops := [(0, ⟨3, cnt, 0x400002, st.pc, ck, if ck then 5 else 0⟩)] })
theorem witness_LoopBackEdge :
    let e := fun s : State => s.me.loop (s.me.loopd - 1)
    let k := (s1Loop 2 true).updMe (fun st => { st with status := { st.status with preq := true, prv := false }
                                                        cont := some ⟨1, 0, 0, 0, 1, 0, 0, 0, 0, false, [0], 0, [], none⟩ })
    (0 < (s1Loop 2 false).me.loopd ∧ (e (s1Loop 2 false)).fin = (s1Loop 2 false).me.pc ∧ (e (s1Loop 2 false)).cnt ≠ 1 ∧ (e (s1Loop 2 false)).ck = false)
    ∧ (∃ l u, Enters (s1Loop 2 false) (e (s1Loop 2 false)).beg (s1Loop 2 false).me.status.prv l u)
    ∧ (0 < k.me.loopd ∧ (e k).fin = k.me.pc ∧ (e k).cnt ≠ 1 ∧ (e k).ck = true ∧ k.me.status.preq = true ∧ k.me.status.prv = false ∧ k.me.cont.isSome = true
    ∧ k.me.bindings = []) ∧ (∃ l u, Enters k (e k).beg k.me.status.prv l u)
    ∧ (e (s1Loop 1 false)).cnt = 1 ∧ (e (s1Loop 1 false)).fin = (s1Loop 1 false).me.pc ∧ (s1Loop 1 false).me.loopd - 1 = 0 :=
  ⟨by decide +kernel, ⟨_, _, line_ok (by decide +kernel)⟩, by decide +kernel, ⟨_, _, line_ok (by decide +kernel)⟩, by decide +kernel⟩
theorem witness_LoopInstructions :
    let fin := s1.me.pc + 2 * (3 : BitVec 16).setWidth 64
    let s := s1.setS 2 9
    s1.me.loopd < 6 ∧ (∃ l u, Enters s1 fin s1.me.status.prv l u ∧ ∃ m v, Enters u (seqNextIn (lineN l.data) fin) u.me.status.prv m v)
    ∧ (Readable s [2] ∧ sv s 2 ≠ 0 ∧ (1 : BitVec 16) ≠ 0 ∧ 6 ≤ (s1.updMe fun st => { st with loopd := 6 }).me.loopd)
    ∧ (let t := s1.updMe (fun st => { st with loopd := 1, loops := [(0, ⟨3, 2, 0x400002, 0x400008, false, 0⟩)] })
      ((0 : BitVec 3).toNat < t.me.loopd ∧ Straight t ∧ t.me.line = none)
      ∧ (∃ l u, Enters t (t.me.loop 0).fin t.me.status.prv l u ∧ ∃ m v, Enters u (seqNextIn (lineN l.data) (t.me.loop 0).fin) u.me.status.prv m v)
      ∧ (let y := t.updMe (fun st => { st with line := some ⟨0x400000, 0x1F⟩ })
        y.me.line = some ⟨0x400000, 0x1F⟩ ∧ lineOf (y.me.loop 0).fin = 0x400000
        ∧ ∃ l u, Enters y (seqNextIn (lineN 0x1F) (y.me.loop 0).fin) y.me.status.prv l u)) :=
  ⟨by decide +kernel, ⟨_, _, line_ok (by decide +kernel), _, _, line_ok (by decide +kernel)⟩, by decide +kernel, by decide +kernel,
    ⟨_, _, line_ok (by decide +kernel), _, _, line_ok (by decide +kernel)⟩, by decide +kernel, by decide +kernel, ⟨_, _, line_ok (by decide +kernel)⟩⟩
theorem witness_Strip :
    let s := (s1.setS 2 8).updMe (fun st => { st with vec := { st.vec with vl := 8 } })
    let t := s.setS 2 9
    (Readable s [2] ∧ (sv s 2).toNat ≤ s.me.vec.vl.toNat ∧ Straight s ∧ Readable t [2] ∧ t.me.vec.vl.toNat < (sv t 2).toNat ∧ t.capture = false)
    ∧ ∃ l u, Enters t (t.me.pc + 2 * (4 : BitVec 16).signExtend 64) t.me.status.prv l u :=
  ⟨by decide +kernel, ⟨_, _, line_ok (by decide +kernel)⟩⟩
theorem witness_TrapInstructions :
    let s := s0.setS 1 (-1)
    Readable s [1, 0] ∧ (sv s 1 == sv s 1) = true ∧ (sv s 1 == sv s 0) = false ∧ (sv s 1).slt (sv s 0) = true ∧ (sv s 0).slt (sv s 1) = false
    ∧ (sv s 0).ult (sv s 1) = true ∧ (sv s 1).ult (sv s 0) = false ∧ Straight s := by decide
theorem witness_Returns :
    let s := s1.updMe (fun st => { st with status := { st.status with prv := true, uiact := true }, trap := { st.trap with epc := 0x400002 }
                                           ui := { st.ui with epc := 0x400004 } })
    let t := s1.updMe (fun st => { st with status := { st.status with prv := false } })
    let b := s.updMe (fun st => { st with trap := { st.trap with epc := 0x420002 } })
    (s.me.status.prv = true ∧ t.me.status.prv = false ∧ s.me.status.uiact = true ∧ t.me.status.uiact = false ∧ b.me.status.prv = true)
    ∧ (∃ l u, Enters s s.me.trap.epc s.me.status.pprv l u)
    ∧ (∃ l u, checkHeads s s.cur s.me.trap.epc s.me.status.pprv = (.ok l, u)
      ∧ ∃ m v, Enters u (seqNextIn (lineN l.data) s.me.trap.epc) s.me.status.pprv m v)
    ∧ (∃ e u, checkHeads b b.cur b.me.trap.epc b.me.status.pprv = (.error e, u)) ∧ ∃ l u, Enters s s.me.ui.epc s.me.status.prv l u :=
  ⟨by decide +kernel, ⟨_, _, line_ok (by decide +kernel)⟩, ⟨_, _, line_ok (by decide +kernel), _, _, line_ok (by decide +kernel)⟩,
    error_pair (by decide +kernel), _, _, line_ok (by decide +kernel)⟩
theorem witness_RegisterPrivilege :
    (s0With fun st => { st with status := { st.status with prv := false } }).me.status.prv = false
    ∧ 0x100 ≤ (0x100 : BitVec 12).toNat ∧ 0x200 ≤ (0x200 : BitVec 12).toNat ∧ s0.me.status.prv = true := by decide
theorem witness_SystemRegisters :
    let may := fun (n : BitVec 12) => n.toNat < (if s0.me.status.prv then 0x200 else 0x100)
    let u := s0With fun st => { st with status := { st.status with prv := false } }
    let k := s0.me.uibk 0
    let e := s0With fun st => { st with sregs := [(k, ⟨0, false, .clean, 3⟩)] }
    let x := s0With fun st => { st with sregs := [(k, ⟨0, true, .poison 0x40, 0⟩)] }
    let y := s0With fun st => { st with sregs := [(k, ⟨0, true, .peel 0x40, 0⟩)] }
    ((y.me.cell (y.me.uibk 0)).full = true ∧ (y.me.cell (y.me.uibk 0)).mark = .peel 0x40) ∧ Straight s0 ∧ s0.mycore.window = [] ∧ may 0x1FF ∧ s0.mycore.mx.queue = [] ∧ vecOut s0 s0.cur = false ∧ may 0x024 ∧ s0.me.status.prv = true ∧ Readable s0 [1]
    ∧ Straight (s0.updMe (fun st => sysWrite st 0x024 (sv s0 1))) ∧ (0x0FF : BitVec 12).toNat < (if u.me.status.prv then 0x200 else 0x100)
    ∧ may 0x02C ∧ ((s0.me.cell k).full = true ∧ (s0.me.cell k).mark = .clean) ∧ (e.me.cell (e.me.uibk 0)).full = false
    ∧ ((x.me.cell (x.me.uibk 0)).full = true ∧ (x.me.cell (x.me.uibk 0)).mark = .poison 0x40) ∧ s0.vbusy (coreOf s0.cur) = false := by decide +kernel
theorem witness_RegisterReadBack : ∀ n ∈ [0x104, 0x105, 0x030, 0x102, 0x103, 0x020, 0x022, 0x109, 0x108, 0x121, 0x100, 0x024],
    n < 0x200 ∧ sysAssigned (BitVec.ofNat 12 n) = true := by decide
theorem witness_TlbiIdleHalt :
    let s := s0With fun st => { st with status := { st.status with intdb := true }, run := .waiting }
    let r := s0With fun st => { st with reports := [⟨5, 0⟩] }
    let q := s0With fun st => { st with status := { st.status with preq := true } }
    let x := s0With fun st => { st with ui := { st.ui with uie := true, pend := 1 } }
    let two : State := { s0 with strands := [(0, st0), (1, st0), (383, st0), (384, st0)] }
    Straight s0 ∧ s0.me.status.prv = true ∧ Readable s0 [1]
    ∧ (383 ∈ two.strands.map (·.1) ∧ unitOf 4 383 = unitOf 4 two.cur) ∧ (384 ∈ two.strands.map (·.1) ∧ unitOf 4 384 ≠ unitOf 4 two.cur)
    ∧ unitOf 1 1 = unitOf 1 two.cur ∧ unitOf 0 1 ≠ unitOf 0 two.cur
    ∧ s.me.status.intdb = true ∧ r.me.reports ≠ [] ∧ q.me.status.preq = true ∧ (x.me.ui.uie = true ∧ x.me.ui.pend ≠ 0)
    ∧ (s0With fun st => { st with status := { st.status with prv := false } }).me.status.prv = false ∧ s0.me.wakes = false ∧ s0.me.prods = [] ∧ s0.me.atomics = 0 ∧ s0.remote = [] ∧ s0.xfers = [] ∧ (s0.hamper (moduleOf s0.cur)).nextw = []
    ∧ drainQueued s0 s0.cur = false := by decide +kernel
theorem witness_IdleWake :
    let s := s0With fun st => { st with run := .waiting, tested := some st.pc, line := some ⟨0x400000, 0xF4400001⟩, status := { st.status with intdb := true } }
    Straight s ∧ s.me.status.prv = true ∧ s.me.status.intdb = true ∧ s.me.atIdle = true := by decide +kernel

/-! ### Atomics and turnaround -/

theorem witness_AtomicIssue : ∃ a u, checkAccess s1 s1.cur (sv s1 1 + dispWord none) { kind := .atomic, tag := false } = (.ok a, u) ∧ NoGroups s1
    ∧ (Straight s1 ∧ NoneLate s1 ∧ NoneHeld s1 ∧ NoDirect s1 ∧ Readable s1 [1, 2] ∧ busyAtomic s1 s1.cur (sv s1 1 + dispWord none) = false ∧ s1.me.atomics < 8 ∧ (sv s1 1 + dispWord none).toNat % 8 = 0
      ∧ Readable s1 [3]) :=
  ⟨_, _, acc_ok (by decide +kernel), noGroups_of (by decide +kernel), by decide +kernel⟩
/-- An APPEND of words, AMO.ADD or CAS on its way to 0x400040 for register 5. -/
def req (op sz : Nat) : HomeReq := ⟨0, 7, some 5, none, op, sz, 0x400040, 0x400040, 0x40FFFF, 5, false, false, 1, 0, 0⟩
/-- A state with that request and, at 0x400040, the word v. -/
def sReq (op sz v : Nat) : State :=
  { (s0With fun st => { st.markEmpty 5 7 with atomics := 1 }) with homeq := [req op sz], mem := Memory.writeN [] 0x400040 8 v }
theorem witness_AtomicAtHome : ∀ x ∈ [(1, 8, 5), (9, 4, 0), (9, 8, 1), (10, 4, 0x200000002), (10, 4, 0x300000002), (0, 4, 0), (8, 8, 7)],
    ∀ y ∈ [(false, 5), (true, 5), (false, 1)],
    let r : HomeReq := { req x.1 x.2.1 with dir := y.1, share := y.2 }
    let s := { sReq x.1 x.2.1 x.2.2 with homeq := [r] }
    let s0 := activate (leaveQueue s r) (paModule r.pa) r.pa
    let d := drainGroup (if r.dir then dropCopies s0 (granOf r.pa) (ownCopy (coreOf r.strand)) else s0) (granOf r.pa) 5 r.strand
    s.homeq[0]? = some r ∧ atomicDue s r = true ∧ heldAt s r.pa = false ∧ s.lost.contains r.msg = false
    ∧ unreachable s (moduleOf r.strand) r.pa = false ∧ s.mem.wf = true ∧ (r.sz = 4 ∨ r.sz = 8) ∧ r.pa % r.sz = 0 ∧ r.pa < 2 ^ 52
    ∧ r.dest = some 5 ∧ (5 ≠ 0 ∧ r.tok ≠ 0 ∧ ((s.strand r.strand).cell 5).tok = r.tok) ∧ d.poison.contains (r.pa / 64) = false ∧ r.pa % 8 = 0
    ∧ (d.tag (granOf r.pa)).corrupt = false ∧ NoneHeld s ∧ onQueuePage s r.pa = false := by decide +kernel
theorem witness_AtomicAtHome_home : ∀ (r : HomeReq) (op sz v : Nat), PlainHome { sReq op sz v with homeq := [r] } := fun _ _ _ _ =>
  plainHome_of (by simp [sReq, s0With, s0, State.updMe, State.setStrand, State.reset, State.updStrand]) rfl rfl
theorem witness_AtomicAtHome_append :
    (2 ^ 33 + 2) / 2 ^ 32 ≤ (2 ^ 33 + 2) % 2 ^ 32 ∧ (3 * 2 ^ 32 + 2) % 2 ^ 32 < (3 * 2 ^ 32 + 2) / 2 ^ 32
    ∧ 0x400040 + 8 + (3 * 2 ^ 32 + 2) % 2 ^ 32 * 4 ≤ 0x40FFFF := by decide
theorem witness_TurnEvent :
    let s : State := { s1 with tags := [(0x5000, ⟨7, 5, false, 0, 0⟩)] }
    let w := s1.updCore 0 (fun c => { c with wcb := [⟨0x4000, [(0x400000, 1)], [⟨0, 0x400000, 0x400000⟩], 0⟩] })
    let d := fun (g l : Nat) => turnDrain (catchUpFor s g) g l 0
    (((d 0x4000 2).tag 0x4000).corrupt = false ∧ ((d 0x4000 2).tag 0x4000).within 0x4000 2 0 = true)
    ∧ (((d 0x5000 2).tag 0x5000).corrupt = false ∧ ((d 0x5000 2).tag 0x5000).within 0x5000 2 0 = false)
    ∧ (∀ l ∈ [0, 1, 5], ((d 0x4000 l).tag 0x4000).corrupt = false) ∧ (s.vers.map (·.1)).Pairwise (· < ·)
    ∧ (((turnDrain (catchUpFor w 0x4000) 0x4000 1 0).tag 0x4000).corrupt = false ∧ w.vers = [] ∧ NoneHeld w ∧ SliceRoom w (coreOf 0)
      ∧ granOf 0x400000 = 0x4000 ∧ pendingByte w (coreOf 0) 0x400000 ≠ none
      ∧ (w.inbound.filter (fun x => x.cluster = false ∧ x.unit = coreOf 0)).length ≤ Config.l1Granules) := by decide +kernel
theorem witness_TurnEvent_groups : NoGroups s1 := noGroups_of (by decide +kernel)
/-- s1 with a region of s2 bytes at s1. -/
def sRegion (len : Word) : State := s1.setS 2 len
/-- The request of a TURN has arrived, is lost, or has still to set off. -/
def sAsked (s : State) (lost : Bool) : State := { s.updMe (fun st => { st with asked := some 3 }) with tokens := 3, lost := if lost then [3] else [] }
theorem witness_TurnRequest : (sAsked s1 false).me.asked = some 3 ∧ (sAsked s1 false).arrived 3 = true ∧ ({ sAsked s1 false with transit := [3] } : State).arrived 3 = false
    ∧ s1.me.asked = none := by decide +kernel
theorem witness_RegionGranule_asked : ∃ acc u, let s := sRegion 0x200
    checkAccess s s.cur (sv s 1) turnAsk = (.ok acc, u)
    ∧ (let t := noteVers u acc
      (sAsked t false).me.asked = some 3 ∧ (sAsked t false).arrived 3 = true ∧ (sAsked t false).lost.contains 3 = false ∧ unreachable (sAsked t false) 0 acc.pa = false
      ∧ (sAsked t true).arrived 3 = true ∧ (sAsked t true).lost.contains 3 = true ∧ t.me.asked = none) := by
  refine ⟨_, _, acc_ok ?_, ?_⟩ <;> decide +kernel
theorem witness_RegionGranule : ∃ acc u, let s := sRegion 0x200
    checkAccess s s.cur (sv s 1) turnAsk = (.ok acc, u) ∧ okAcc (checkAccess u s.cur (sv s 1) turnAsk)
    ∧ (Straight s ∧ Readable s [1, 2] ∧ (1 : Reg) ≠ 0 ∧ (2 : Reg) ≠ 0 ∧ (1 : Reg) ≠ 2 ∧ sv s 2 ≠ 0 ∧ eventHeld u acc.pa = false
      ∧ (∀ l ∈ [0, 3, 5], groupOut u l s.cur (granOf acc.pa) = false) ∧ acc.vers = false ∧ s.me.status.prv = true ∧ sv (sRegion 0) 2 = 0) := by
  refine ⟨_, _, acc_ok ?_, okAcc_of ?_, ?_⟩ <;> decide +kernel
/-- A granule whose group's writes, or whose queue, have to be waited for. -/
theorem witness_RegionGranule_waits : ∃ acc u,
    let s : State := { sRegion 0x200 with homeq := [req 1 8] }
    checkAccess s s.cur (sv s 1) turnAsk = (.ok acc, u) ∧ sv s 2 ≠ 0 ∧ (groupOut u 3 s.cur (granOf acc.pa) || eventHeld u acc.pa) = true := by
  refine ⟨_, _, acc_ok ?_, ?_⟩ <;> decide +kernel
/-- The end of the region falls at a granule's end, inside it, and past it. -/
theorem witness_RegionGranule_ends : ∀ len ∈ [1, 0xC0, 0xC1, 0x200], let s := sRegion (BitVec.ofNat 64 len)
    (sv s 1).toNat / 256 * 256 + 256 = 0x400100 ∧ (sv s 1).toNat + (sv s 2).toNat = 0x400040 + len := by decide +kernel
/-- s1 with a versioned page at 0x420000, and s1 its last granule. -/
def sVers (addr : Word) (v : Vers) : State :=
  { (s1.setS 1 addr).setS 2 0x100 with mem := Memory.writeN (Memory.writeN s1.mem 0x20210 8 0x42125F) 0x20218 8 0x43125F, vers := [(0x42, v)] }
theorem witness_Publish : ∀ v ∈ [(⟨false, false, 0, 3, 0, 0x43, 5, []⟩ : Vers), ⟨true, true, 2, 3, 0, 0x43, 5, []⟩, ⟨false, false, 2, 3, 0, 0x43, 5, []⟩,
      ⟨false, false, 0, 3, 0, 0x43, 5, [(9, false)]⟩, ⟨false, false, 0, 3, 1, 0x43, 5, []⟩],
    ∃ acc u, let s := sAsked (sVers 0x42FF00 v) false
    checkAccess s s.cur (sv s 1) turnAsk = (.ok acc, u)
    ∧ (Straight s ∧ Readable s [1, 2] ∧ sv s 2 ≠ 0 ∧ groupOut u 3 s.cur (granOf acc.pa) = false ∧ eventHeld u acc.pa = false
      ∧ acc.vers = true ∧ (sv s 1).toNat % 65536 / 256 = 255)
    ∧ turnAt u acc 3 (sv s 1) = .ok (okOf s (turnAt u acc 3 (sv s 1)))
    ∧ (let x := gapEvent (okOf s (turnAt u acc 3 (sv s 1))) (granOf acc.pa)
      let w := x.versOf (pteFrame acc.leaf)
      let first := w.before (waiterKey s s.cur) true = []
      (w.snaps = 0 ∧ w.cu = 0 ∧ first ∧ (reresolve x 0x42 0x43).2 = []) ∨ (w.snaps = 0 ∧ w.cu ≠ 0 ∧ first) ∨ (w.snaps ≠ 0 ∧ first ∧ canYield x.me = false)
        ∨ (¬ first ∧ canYield x.me = false)) := by
  intro v hv
  refine ⟨_, _, acc_ok ?_, ?_, ok_of _ ?_, ?_⟩ <;> revert v <;> decide +kernel
theorem witness_Snapshots : ∀ len ∈ [0x100, 0x10000, 0x10001], ∃ acc u, let s := (sVers 0x420000 ⟨false, false, 65534, 0, 0, 0x43, 5, []⟩).setS 2 (BitVec.ofNat 64 len)
    checkAccess s s.cur (sv s 1) turnAsk = (.ok acc, u)
    ∧ (Straight s ∧ Readable s [1, 2] ∧ (1 : Reg) ≠ 0 ∧ (1 : Reg) ≠ 2 ∧ sv s 2 ≠ 0 ∧ s.me.yielded = none
      ∧ acc.vers = true ∧ (u.versOf (pteFrame acc.leaf)).pend = false ∧ (u.versOf (pteFrame acc.leaf)).snaps < 65535
      ∧ ((u.versOf (pteFrame acc.leaf)).before (waiterKey s s.cur) false).any (·.2) = false) := by
  intro v hv
  refine ⟨_, _, acc_ok ?_, ?_⟩ <;> revert v <;> decide +kernel
theorem witness_Snapshots_plain : ∃ acc u, let s := sRegion 0x100
    checkAccess s s.cur (sv s 1) turnAsk = (.ok acc, u) ∧ (Straight s ∧ Readable s [1, 2] ∧ sv s 2 ≠ 0 ∧ s.me.yielded = none ∧ acc.vers = false) :=
  ⟨_, _, acc_ok (by decide +kernel), by decide +kernel⟩
theorem witness_CatchUpAndSwap :
    let s := sVers 0x42FF00 ⟨false, false, 0, 3, 0x8000000000000000000000000000000000000000000000000000000000000000, 0x43, 5, []⟩
    let q := (sVers 0x42FF00 ⟨false, true, 0, 3, 0, 0x43, 5, [(waiterKey s1 0, true)]⟩).updMe (fun st =>
      { st with run := .waiting, line := some ⟨0x400000, 0x01 ||| (0x6061#512 <<< 16) ||| (0x1180#512 <<< 496)⟩ })
    255 < 256 ∧ (s.versOf 0x42).cu.getLsbD 255 = true ∧ (∀ j : Fin 255, (s.versOf 0x42).cu.getLsbD j = false) ∧ s.mem.wf = true
    ∧ (eventHeld s ((0x43 * 256 + 255) * 256) = false ∧ dieDown s (0x42 * 65536) = false
      ∧ eventHeld { s with gap := [(0x43 * 256 + 255, 1)], homeq := [{ req 1 8 with pa := (0x43 * 256 + 255) * 256 }] } ((0x43 * 256 + 255) * 256) = true)
    ∧ 0x42 ≠ (s.versOf 0x42).back ∧ (∀ e ∈ s.mods, e.2.pgrp.getLsbD 0 = false ∧ e.2.rinse.reenc = [])
    ∧ (q.versOf 0x42).pend = true ∧ (q.versOf 0x42).snaps = 0 ∧ (q.versOf 0x42).cu = 0
    ∧ q.strands.findSome? (fun e => (atPublish q e.1 0x42).map (fun r => (e.1, r))) = some (0, 1, 2) ∧ Straight ({ q with cur := 0 } : State) := by
  decide +kernel
theorem witness_Fences :
    let b := s0With fun st => { st with prods := [{ tok := 7, sdest := some 5, sval := 42, smark := .clean, vdest := [], ea := 0 }] }
    let r : HomeReq := req 1 8
    let w : State := { sReq 1 8 0 with homeq := [{ r with msg := 4 }], transit := [4], tokens := 4 }
    let x : ProtStore := ⟨0x400000, 0x400000, 8⟩
    let grp := fun (st : Nat) => (s0With fun st => { st with prot := [x] }).updMod 0 (fun m =>
      { m with pgrp := 1, groups := [(2, ⟨[0, 1, 2], 2, st, 0, 3, 0x400000, 65536, 0⟩)] })
    let o : State := { grp 1 with deltas := [⟨0, 2, 0, 0, 5, [0], 0⟩] }
    let f := fun (s : State) => drainOwn (flushAtomics s s.cur) s.cur
    let d := fun (s : State) => drainProt (f s) s.cur
    let own := fun (t : State) => t.homeq.any (fun r => r.strand == 0)
    (Straight s0 ∧ outstanding s0 s0.cur = false ∧ outstanding b b.cur = true ∧ own s0 = false ∧ own (f s0) = false)
    ∧ (Straight w ∧ own (f w) = true ∧ queuedStores w w.cur = [] ∧ mine w w.cur = [] ∧ own (d w) = true)
    ∧ (∀ r ∈ (sReq 1 8 0).homeq, (sReq 1 8 0).arrived r.msg = true ∧ r.msg ≤ (sReq 1 8 0).tokens)
    ∧ (∀ s ∈ [s0, grp 1, grp 2, o], Straight s ∧ queuedStores s s.cur = [] ∧ mine s s.cur = [] ∧ own (d s) = false)
    ∧ ((d s0).me.prot.find? (storeLost (d s0)) = none ∧ (d s0).me.prot.any (deltaOut (d s0)) = false)
    ∧ ((d o).me.prot.find? (storeLost (d o)) = none ∧ (d o).me.prot.any (deltaOut (d o)) = true)
    ∧ (d (grp 2)).me.prot.find? (storeLost (d (grp 2))) = some x := by decide +kernel

/-! ### The scheduler -/

/-- A continuation of grid 1, virtual strand 0 of a group of two strands at CORE. -/
def cont0 : Cont := ⟨1, 0, 0, 0, 2, 1, 1, 0, 0, true, [0, 1], 0, [], none⟩
/-- Grid 1: one group of two strands, two spawned continuations allowed, tiles 3 by 1. -/
def grid0 : Grid :=
  { id := 1, code := 0x400002, frame := 0, sjoin := 0, savebase := 0x401000, tx := 3, ty := 1, pri := 0, spc := true, gcore := 1, glvl := 1, ngrp := 1
    savesz := 2, spq := 2, vp := 0, root := 0, spawned := 0, live := 2, undispatched := 0, nextTile := 0, finished := [] }
/-- s1 running that continuation at U. -/
def sCont : State :=
  (s1.updMe fun st => { st with cont := some cont0, status := { st.status with prv := false } }).updHamper 0 (fun h => { h with grids := [grid0] })
/-- sCont with its continuation changed. -/
def sContWith (f : Cont → Cont) : State := sCont.updMe (fun st => { st with cont := st.cont.map f })
theorem witness_Waits :
    let s := (s0.setS 1 0x8).setS 2 0xFFFFFFFF00000000
    let t := s.setS 2 1
    Straight s ∧ Readable s [1, 2] ∧ (spCheck s s.cur (sv s 1) 8).toOption = some 0 ∧ (spCheck s s.cur (sv s 1) 4).toOption = some 0
    ∧ remoteBusy s 0 = false ∧ handed s s.cur (handWords (spOff (sv s 1)) 8) = false ∧ handed s s.cur (handWords (spOff (sv s 1)) 4) = false
    ∧ (scratchRead s 0 (spOff (sv s 1)) 8).2 = false ∧ (scratchRead s 0 (spOff (sv s 1)) 4).2 = false
    ∧ (s.core 0).scratch.readN (spOff (sv s 1)) 8 ≠ (sv s 2).toNat % 2 ^ 64 ∧ (s.core 0).scratch.readN (spOff (sv s 1)) 4 = (sv s 2).toNat % 2 ^ 32
    ∧ (t.core 0).scratch.readN (spOff (sv t 1)) 4 ≠ (sv t 2).toNat % 2 ^ 32 := by decide +kernel
theorem witness_Barriers :
    let b := barOf sCont cont0 1
    let u := sContWith (fun c => { c with arrived := [(1, 1)], barIn := some 0x400002 })
    let uc : Cont := { cont0 with arrived := [(1, 1)], barIn := some 0x400002 }
    let d := u.updHamper 0 (fun h => { h with bars := [{ b with phase := 1 }] })
    sCont.me.cont = some cont0 ∧ (1 : BitVec 3).toNat ≤ cont0.glvl ∧ (0 : BitVec 3).toNat ≤ cont0.glvl ∧ Straight sCont ∧ (1 : BitVec 3) ≠ 0
    ∧ (fenceAll sCont).isOk = true ∧ cont0.vsi ∉ b.arrived ∧ mget 0 cont0.arrived 1 = 0 ∧ cont0.barIn = none ∧ sCont.me.saveDue = none
    ∧ u.me.cont = some uc ∧ (barOf u uc 1).phase < mget 0 uc.arrived 1
    ∧ d.me.cont = some uc ∧ 0 < mget 0 uc.arrived 1 ∧ mget 0 uc.arrived 1 ≤ (barOf d uc 1).phase ∧ uc.barIn = some d.me.pc
    ∧ gridOf d 0 1 = some grid0
    ∧ (let e := sCont.updHamper 0 (fun h => { h with bars := [{ b with arrived := [0] }] })
      e.me.cont = some cont0 ∧ cont0.vsi ∈ (barOf e cont0 1).arrived ∧ cont0.barIn ≠ some e.me.pc)
    ∧ (let x : Barrier := { b with arrived := [0, 1] }
      let y := sCont.updHamper 0 (fun h => { h with bars := [x, { x with lvl := 2 }] })
      x ∈ (y.hamper 0).bars ∧ x.grid = 1 ∧ x.lvl = 1 ∧ x.arrived ≠ [] ∧ (∀ v ∈ x.members, v ∈ x.arrived ∨ v ∈ grid0.finished)
      ∧ { x with lvl := 2 } ∈ (y.hamper 0).bars) := by decide +kernel
/-- A launch record in memory at 0x400040: one group of one strand at SELF, its code at 0x400002. -/
def launchWord : Nat := 0x400002 + 0x410000 * 2 ^ 192 + (1 + 2 ^ 32) * 2 ^ 256 + (1 + 2 ^ 32) * 2 ^ 320 + 2 ^ 32 * 2 ^ 384
/-- sCont with that record. -/
def sLaunch (v : Nat) : State := { sCont with mem := Memory.writeN sCont.mem 0x400040 64 v }
theorem witness_Spawn :
    let f := sCont.updGrid 0 1 (fun g => { g with spawned := 2 })
    Straight sCont ∧ (fenceAll sCont).isOk = true ∧ sCont.me.cont = some cont0 ∧ Readable sCont [1, 2, 3] ∧ gridOf sCont 0 1 = some grid0
    ∧ grid0.spawned < grid0.spq ∧ gridOf f 0 1 = some { grid0 with spawned := 2 } ∧ ({ grid0 with spawned := 2 } : Grid).spq ≤ 2 := by decide +kernel
/-- s when its strand's earlier accesses are performed. -/
def fenced (s : State) : State := okOf s (fenceAll s)
theorem witness_Launch : ∃ a u x, let s := sLaunch launchWord
    s.me.cont.isSome = true ∧ (fenceAll s).isOk = true ∧ Readable s [1] ∧ (sv s 1).toNat % 64 = 0 ∧ busyGran (fenced s) s.cur (sv s 1) false = false
    ∧ checkAccess (fenced s) s.cur (sv s 1) { kind := .read } = (.ok a, u) ∧ readAcc u a (sv s 1) 64 = ((launchWord, false), x)
    ∧ ∃ id y, launchRec x 0 launchWord x.me.ptroot = .ok (id, y) :=
  ⟨_, _, _, by decide +kernel, by decide +kernel, by decide +kernel, by decide +kernel, by decide +kernel, acc_ok (by decide +kernel), pair_of (by decide +kernel),
    ok_two (by decide +kernel)⟩
/-- A record of no group, and a store with every entry taken. -/
theorem witness_Launch_refused : ∃ a u x, let s := sLaunch 1
    Straight s ∧ (fenceAll s).isOk = true ∧ checkAccess (fenced s) s.cur (sv s 1) { kind := .read } = (.ok a, u)
    ∧ readAcc u a (sv s 1) 64 = ((1, false), x) ∧ launchRec x 0 1 x.me.ptroot = .error 3 :=
  ⟨_, _, _, by decide +kernel, by decide +kernel, acc_ok (by decide +kernel), pair_of (by decide +kernel), error_is (by decide +kernel)⟩
theorem witness_Launch_full : ∃ a u x,
    let s := (sLaunch launchWord).updHamper 0 (fun h => { h with slots := 2 })
    s.me.cont.isSome = true ∧ (fenceAll s).isOk = true ∧ checkAccess (fenced s) s.cur (sv s 1) { kind := .read } = (.ok a, u)
    ∧ readAcc u a (sv s 1) 64 = ((launchWord, false), x) ∧ launchRec x 0 launchWord x.me.ptroot = .error 2 ∧ canYield x.me = true :=
  ⟨_, _, _, by decide +kernel, by decide +kernel, acc_ok (by decide +kernel), pair_of (by decide +kernel), error_is (by decide +kernel), by decide +kernel⟩
/-- sCont with the counter at 0x400040 at v. -/
def sCount (v : Nat) : State := { sCont with mem := Memory.writeN sCont.mem 0x400040 8 v }
/-- What a read of the counter gives when it fails. -/
def noCount : Acc × Nat × Nat × State := (⟨0, 0, ⟨0, false, 0, 0, 0⟩⟩, 0, 0, s0)
theorem count_ok {r : Res (Acc × Nat × Nat × State)} {b c : Nat} (h : r.isOk = true) (hb : (okOf noCount r).2.1 = b) (hc : (okOf noCount r).2.2.1 = c) :
    r = .ok ((okOf noCount r).1, b, c, (okOf noCount r).2.2.2) := by
  subst hb hc
  exact ok_of noCount h
theorem witness_JoinAndDone : ∀ v ∈ [0, 1, 2 ^ 48 - 1, 65534 * 2 ^ 48 + 1],
    ∃ a u, let s := sCount v
    s.me.cont = some cont0 ∧ Straight s ∧ Readable s [1] ∧ s.homeq.any (fun r => r.strand == s.cur) = false ∧ (fenceAll s).isOk = true ∧ cont0.join = 0
    ∧ counterRead s (sv s 1) = .ok (a, v % 2 ^ 48, v / 2 ^ 48, u) ∧ writesOut u s.cur (granOf a.pa) = false ∧ canYield u.me = true ∧ v / 2 ^ 48 < 65535
    ∧ (doneEvent (fenced s) (sv s 1)).isOk = true := by
  intro v hv
  refine ⟨_, _, ?_, ?_, ?_, ?_, ?_, rfl, count_ok ?_ ?_ ?_, ?_, ?_, ?_, ?_⟩ <;> revert v <;> decide +kernel
theorem witness_Done_join : ∃ u, let s := (sCount 2).updMe (fun st => { st with cont := some { cont0 with join := 0x400040 } })
    s.me.cont = some { cont0 with join := 0x400040 } ∧ (fenceAll s).isOk = true ∧ ({ cont0 with join := 0x400040 } : Cont).join ≠ 0
    ∧ doneEvent (fenced s) 0x400040 = .ok u :=
  ⟨_, by decide +kernel, by decide +kernel, by decide +kernel, ok_of s0 (by decide +kernel)⟩
/-- The counter of sB decremented, then JOIN's. -/
theorem witness_Done_both : ∃ v u, let s := (sCount 2).updMe (fun st => { st with cont := some { cont0 with join := 0x400048 } })
    let t : State := { s with mem := Memory.writeN s.mem 0x400048 8 1 }
    t.me.cont = some { cont0 with join := 0x400048 } ∧ (fenceAll t).isOk = true ∧ Readable t [1] ∧ sv t 1 = 0x400040
    ∧ counterWait (fenced t) 0x400048 = .ok () ∧ doneEvent (fenced t) (sv t 1) = .ok v ∧ doneEvent v 0x400048 = .ok u :=
  ⟨_, _, by decide +kernel, by decide +kernel, by decide +kernel, by decide +kernel, unit_ok (by decide +kernel), ok_of s0 (by decide +kernel),
    ok_of s0 (by decide +kernel)⟩
/-- A continuation record of virtual strand v of grid 1, at CODE 0x400002, not resumed, in place pl. -/
def rec0 (v : Nat) (pl : Place) : Rec := ⟨0x400002, 0, 0, v, 1, false, 1, 0, false, pl, 0, 0, false, .none, none, [], [], [], 0, false⟩
/-- A NEXTW of strand 0 for grid g on its way, and one answered. -/
def nextw0 (g : Word) : NextW := ⟨0, none, g, 0, 8, 5, some 5, 7, 0, none⟩
theorem witness_NextwGetidYield :
    let q := fun (g : Word) => sCont.updHamper 0 (fun h => { h with nextw := [nextw0 g] })
    let e := sCont.updHamper 0 (fun h => { h with nextw := [nextw0 1], grids := [{ grid0 with nextTile := 3 }] })
    let w := sCont.updHamper 0 (fun h => { h with nextw := [{ nextw0 1 with arrive := 9 }] })
    let r := sCont.updHamper 0 (fun h => { h with nextw := [{ nextw0 1 with reply := some 2 }] })
    let y := sCont.updHamper 0 (fun h => { h with recs := [rec0 2 .device] })
    Straight s0 ∧ Readable s0 [1, 2] ∧ (spCheck s0 s0.cur (sv s0 2) 4).toOption = some 0
    ∧ (arrivedNextw (q 1))[0]? = some (0, nextw0 1) ∧ nextw0 1 ∈ ((q 1).hamper 0).nextw ∧ arrivedNextw w = []
    ∧ (∀ x ∈ arrivedNextw (q 1), x.1 = 0 → x.2.grid = (nextw0 1).grid → x.2.before (nextw0 1) = false)
    ∧ gridOf (q 1) 0 1 = some grid0 ∧ grid0.nextTile < grid0.tx * grid0.ty ∧ gridOf e 0 1 = some { grid0 with nextTile := 3 }
    ∧ (arrivedNextw (q 9))[0]? = some (0, nextw0 9) ∧ gridOf (q 9) 0 9 = none
    ∧ ((allNextw r).filter (fun x => x.2.reply.isSome))[0]? = some (0, { nextw0 1 with reply := some 2 })
    ∧ sCont.me.cont = some cont0 ∧ Straight sCont ∧ (canYield sCont.me && eligible sCont cont0) = false ∧ (canYield y.me && eligible y cont0) = true := by
  decide +kernel
/-- The page of 0x400000 as a launch queue page, with TAIL at 1 and the record of launchWord in its first slot. -/
def sQueue : State :=
  { (sLaunch launchWord).updHamper 0 (fun h => { h with regs := [(3, ⟨0x42, 0⟩)] }) with
    mem := Memory.writeN (Memory.writeN [] 0x420000 8 1) 0x420040 64 launchWord }
theorem witness_LaunchQueues :
    let s := s1.setS 2 0x40000D
    let w := (s1.setS 2 0xC).updHamper 0 (fun h => { h with regs := [(3, ⟨0x42, 0⟩)] })
    s.me.status.prv = true ∧ Straight s ∧ Readable s [2] ∧ lqRefusal s (sv s 2) = 0 ∧ (sv s 2).getLsbD 0 = true
    ∧ lqRefusal w (sv w 2) = 0 ∧ (sv w 2).getLsbD 0 = false ∧ lqRefusal s 0x41000D ≠ 0
    ∧ (sQueue.hamper 0).regs.find? (fun r => r.1 = 3) = some (3, ⟨0x42, 0⟩) ∧ (homeRead sQueue (0x42 * 65536 + 8) 8).1 < (homeRead sQueue (0x42 * 65536) 8).1
    ∧ (homeRead sQueue (0x42 * 65536 + 64) 64).2 = false ∧ sQueue.mem.wf = true ∧ sQueue.poison = [] := by decide +kernel
theorem witness_LaunchQueues_record : PlainHome sQueue ∧ ∃ id u, launchRec sQueue 0 (homeRead sQueue (0x42 * 65536 + 64) 64).1 0 = .ok (id, u) :=
  ⟨plainHome_of (by decide +kernel) (by decide +kernel) (by decide +kernel), ok_two (by decide +kernel)⟩

/-! ### Placement, saves and interrupts -/

/-- Strand 2 idle beside sCont, with one record waiting. -/
def sPlace (r : Rec) : State :=
  (({ sCont with strands := sCont.strands ++ [(2, { Strand.reset with run := .idle })] } : State)).updHamper 0 (fun h => { h with recs := [r] })
/-- The record of a member that ran on strand 2. -/
def rec1 (v : Nat) : Rec := { rec0 v .device with res := true, cont := some { cont0 with vsi := v, rank := 1, members := [0, 2] }, last := 2 }
theorem witness_Placement : ∃ c lay, let s := sPlace (rec0 2 .device)
    (s.hamper 0).recs[0]? = some (rec0 2 .device) ∧ inPlaceOk s 0 (rec0 2 .device) = false ∧ choose s 0 = some (c, lay) ∧ c.k = 0
    ∧ (∀ x ∈ startsWith s 0 0 (rec0 2 .device), x.2.bad = false) ∧ layoutOk s 0 c (availFor s 0 (candidates s 0) c) [2] = true ∧ (rec0 2 .device).cont = none :=
  ⟨⟨0, 0, 0, 0, none, 0, 1, 1, true, []⟩, [2], by decide +kernel⟩
theorem witness_Placement_restored :
    let r := { rec1 2 with cont := some { cont0 with vsi := 2, gsize := 1, spc := false, glvl := 0, members := [2] } }
    let s := sPlace r
    let c : Cand := ⟨0, 0, 0, 0, none, 0, 1, 1, true, [(0, r)]⟩
    (s.hamper 0).recs[0]? = some r ∧ inPlaceOk s 0 r = false ∧ choose s 0 = some (c, [2]) ∧ (∀ x ∈ startsWith s 0 0 r, x.2.bad = false)
    ∧ layoutOk s 0 c (availFor s 0 (candidates s 0) c) [2] = true ∧ r.cont.isSome = true := by decide +kernel
theorem witness_Placement_inPlace : ∀ b ∈ [false, true],
    let r := { rec1 1 with bad := b }
    let s := (sPlace r).updHamper 0 (fun h => { h with reserved := [(2, 1, 1)] })
    (s.hamper 0).recs[0]? = some r ∧ inPlaceOk s 0 r = true ∧ r.bad = b := by decide +kernel
theorem witness_Placement_pwait :
    let r := rec0 2 (.cluster 0)
    ((sPlace r).hamper 0).recs[0]? = some r ∧ r.clus.isSome = true ∧ r.clk + ((sPlace r).hamper 0).pwait ≤ ({ sPlace r with clk := 1024 } : State).clk := by
  decide +kernel
theorem witness_Placement_preempts :
    let r := { rec0 2 .device with pri := 1 }
    let s : State := { (sCont.updHamper 0 (fun h => { h with recs := [r] })) with clk := 1024 }
    let c : Cand := ⟨0, 1, 0, 0, none, 0, 1, 1, true, []⟩
    (s.hamper 0).recs[0]? = some r ∧ candOf s 0 0 r = some c ∧ c.clk + (s.hamper 0).pwait ≤ s.clk
    ∧ layoutFor s 0 c (availFor s 0 (candidates s 0) c) = none ∧ victims s 0 c = some [0] ∧ (s.strand 0).cont.isSome = true := by decide +kernel
theorem witness_FreshDispatch :
    let s := (sPlace (rec0 2 .device)).updStrand 2 (fun st => { st with start := some (rec0 2 .device) })
    (s.strand 2).start = some (rec0 2 .device) ∧ gridOf s (moduleOf 2) (rec0 2 .device).grid = some grid0 ∧ (rec0 2 .device).res = false
    ∧ (s.strand 2).run = .idle := by decide +kernel
/-- sCont with its save area at a, its request and what makes a save due. -/
def sSave (a : Word) : State := sCont.updMe (fun st => { st with saveptr := a, status := { st.status with preq := true } })
/-- The save area lies on a page of the direct aperture, whose bytes go to their home at once. -/
theorem witness_SaveLeavesStrand : ∃ w,
    let b := saveBase (withLeaf (sSave 0x410000) 0x41145F) 0
    let st := b.strand 0
    writeRecord b 0 st.saveptr (recordOf (endBindings b 0) 0 { st with status := { st.status with preq := false } } st.pc 0 Live.none) = (.ok (), w) :=
  unit_pair (by decide +kernel)
theorem witness_SaveAbandoned :
    let b := saveBase (sSave 0x420000) 0
    let st := b.strand 0
    st.status.nest = false
    ∧ ∃ e w, writeRecord b 0 st.saveptr (recordOf (endBindings b 0) 0 { st with status := { st.status with preq := false } } st.pc 0 Live.none) = (.error e, w) :=
  ⟨by decide +kernel, error_pair (by decide +kernel)⟩
/-- A STRM of strand 0 that went with a saved context. -/
def xferSaved : Xfer :=
  { strand := 0, saved := some (1, 0), kind := .strm, num := 5, dest := some 5, tok := 7, ui := false, port := .sp 0 0 8, q := [0, 0, 0, 0, 0, 0, 0, 0]
    unit := false, esz := 8, out := false, count := 1, done := 1, data := [], vtok := 0, stop := none, prv := false, root := 0, pages := [] }
theorem witness_Saves :
    let l := (sSave 0x401000).updMe (fun st => { st with landed := some 5 })
    let f := (sSave 0x401000).updMe (fun st => { st with saveDue := some 0x16 })
    let n := f.updMe (fun st => { st with prods := [{ tok := 7, sdest := some 5, sval := 42, smark := .clean, vdest := [(3, 0, 0)], ea := 0 }] })
    let y := (sSave 0x401000).updMe (fun st => { st with yielded := some ⟨none, .device, false⟩ })
    let z := (sSave 0x401000).updMe (fun st => { st with yielded := some ⟨some 5, .store, false⟩ })
    let w : State := { sSave 0x401000 with clk := 1048576 }
    ((l.strand 0).landed = some 5 ∧ (l.strand 0).cont = some cont0 ∧ canYield (l.strand 0) = true ∧ (l.strand 0).status.preq = true ∧ saveReady l 0 = true)
    ∧ (∀ x ∈ [f, n], (x.strand 0).saveDue = some 0x16 ∧ (x.strand 0).cont = some cont0 ∧ (x.strand 0).status.prv = false)
    ∧ (saveReady (pushAll f 0) 0 = true ∧ saveReady (pushAll n 0) 0 = false)
    ∧ ((y.strand 0).yielded = some ⟨none, .device, false⟩ ∧ saveReady y 0 = true ∧ (z.strand 0).yielded = some ⟨some 5, .store, false⟩ ∧ saveReady z 0 = true)
    ∧ ((w.strand 0).status.preq = true ∧ (w.strand 0).landed = none ∧ (w.strand 0).saveDue = none ∧ (w.strand 0).preqClk + 1048576 ≤ w.clk)
    ∧ (({ sCont with xfers := [xferSaved] } : State).xfers.filter (fun x => x.saved.isSome))[0]? = some xferSaved := by decide +kernel
theorem witness_ContextRestore : ∀ y ∈ [false, true],
    let r := { rec1 0 with after := y }
    let s := (({ sPlace r with mem := sCont.mem } : State)).updStrand 2 (fun st => { st with start := some r })
    ((s.strand 2).start = some r ∧ gridOf s (moduleOf 2) r.grid = some grid0 ∧ r.res = true ∧ (s.strand 2).run = .idle
      ∧ (s.hamper (moduleOf 2)).nextw = [])
    ∧ ∃ cs u, readRecord (s.setStrand 2 { s.strand 2 with ptroot := grid0.root, tlb := [], status := { (s.strand 2).status with prv := false } }) 2
        (grid0.saveArea r.vsi) r.live.units = (.ok cs, u) := by
  intro y hy
  refine ⟨?_, _, _, ok_pair [] ?_⟩ <;> revert y <;> decide +kernel
theorem witness_Interrupts :
    let i := sCont.updMe (fun st => { st with status := { st.status with ie := true, intdb := true } })
    let r := sCont.updMe (fun st => { st with status := { st.status with ie := true }, reports := [⟨1, 0x40⟩, ⟨5, 0x80⟩, ⟨5, 0⟩, ⟨5, 1⟩] })
    (i.strand 0).takesInt i.clk = true ∧ (i.core 0).window = [] ∧ (i.strand 0).status.nest = false ∧ (i.strand 0).status.intdb = true ∧ (i.strand 0).reports = []
    ∧ (i.strand 0).reports.length < 4 ∧ (r.strand 0).takesInt r.clk = true ∧ (r.strand 0).reports = ⟨1, 0x40⟩ :: [⟨5, 0x80⟩, ⟨5, 0⟩, ⟨5, 1⟩]
    ∧ 4 ≤ (r.strand 0).reports.length ∧ ((r.modl (moduleOf 0)).log.length < 4096) := by decide +kernel
theorem witness_Interrupts_user : ∃ l u,
    let s := sCont.updMe (fun st => { st with ui := { st.ui with uie := true, pend := 0xC0000000, vec := 0x400004 } })
    let st := s.strand 0
    checkTarget (s.updStrand 0 (fun st => { st with replay := none })) 0 st.ui.vec false = (.ok l, u)
    ∧ (st.takesUser s.clk = true ∧ st.ui.pend.getLsbD 30 = true ∧ ∀ j, j < 30 → st.ui.pend.getLsbD j = false) :=
  ⟨_, _, line_ok (by decide +kernel), by decide +kernel⟩

/-! ### Vector instructions -/

/-- s0 with VL = 4 and every vector register of tag t. -/
def sVec (t : Nat) : State :=
  s0With fun st => { st with vec := { st.vec with vl := 4, vtag := BitVec.ofNat 128 ((List.range 32).foldl (fun x _ => 16 * x + t) 0) } }
/-- sVec with the tags of v0 and v1 given. -/
def sVec2 (t a b : Nat) : State :=
  (sVec t).updMe (fun st => { st with vec := { st.vec with vtag := (st.vec.vtag >>> 8 <<< 8) ||| BitVec.ofNat 128 (16 * b + a) } })
/-- sVec with mask register 1 at 0b0101. -/
def sMask (t : Nat) : State := (sVec t).updCore 0 (fun c => { c with k := [(1, ⟨5, true, 0, 0⟩)] })
theorem witness_VectorStateOff : usesVector (.vqnt ⟨1, 2, false, 0⟩) = true ∧ (s0With fun st => { st with vstate := 0 }).me.vstate = 0 := by decide
theorem witness_VectorConfiguration :
    let b := s0With fun st => { st with vec := { st.vec with vl := 8 }, bindings := [⟨4, 1, 0, 4, 0, 0, [], 0, [], 0⟩] }
    let f : State := { s0 with xfers := [{ xferSaved with saved := none, port := .fab 0 4 }] }
    Straight s0 ∧ s0.me.vstate ≠ 0 ∧ Readable s0 [1] ∧ (0 : Reg).toNat + (31 : Reg).toNat < 32 ∧ (4 : Reg).toNat + (3 : Reg).toNat < 32
    ∧ (∀ j < 8, 4 ≤ j → nameOk s0 j = true ∧ fabBusy s0 0 j = false) ∧ nameOk b 4 = false
    ∧ (Straight f ∧ f.me.vstate ≠ 0 ∧ (∀ j < 8, 4 ≤ j → nameOk f j = true) ∧ fabBusy f 0 4 = true) := by decide +kernel
theorem witness_ElementRun :
    let v := sVec 13
    let p := (sVec 13).updCore 0 (fun c => { c with v := [(2, ⟨0, true, 1, 0⟩)] })
    let m := (sVec 13).updCore 0 (fun c => { c with k := [(1, ⟨5, true, 1, 0⟩)] })
    Straight v ∧ writable v (group 1 32 v.me.nvl) = true ∧ NoPoison v 0 [(2, 32)] [] ∧ NoPoison (sMask 13) 1 [(2, 32)] [] ∧ activeElems (sMask 13) 1 = [0, 2]
    ∧ 0 ∈ activeElems p 0 ∧ (elemPoisoned p 0 [(2, 32)] [] 0).isSome = true ∧ (∀ x ∈ activeElems p 0, ¬ x < 0)
    ∧ 0 ∈ activeElems m 1 ∧ (elemPoisoned m 1 [(2, 32)] [] 0).isSome = true
    ∧ (elemPoisoned p 0 [(3, 32)] (scaleUse (some 2) 3 32) 0).isSome = true := by decide +kernel
theorem witness_ElementRun_later :
    let p := ((sVec 13).updMe (fun st => { st with vec := { st.vec with vl := 18 } })).updCore 0 (fun c => { c with v := [(2, ⟨0, true, 2, 0⟩)] })
    Straight p ∧ writable p (group 1 32 p.me.nvl) = true ∧ 16 ∈ activeElems p 0
    ∧ (∀ x ∈ activeElems p 0, x < 16 → elemPoisoned p 0 [(2, 32)] [] x = none) ∧ (elemPoisoned p 0 [(2, 32)] [] 16).isSome = true := by decide +kernel
theorem witness_ElementsWritten : (([(0, true), (2047, false)] : List (Nat × Bool)).map (·.1)).Nodup ∧ 0 < 32
    ∧ (([(0, 1), (511, 2)] : List (Nat × Nat)).map (·.1)).Nodup ∧ (writeGroup (sVec 13) 1 32 512 [(0, 1), (511, 2)]) ≠ [] := by decide +kernel
/-- What RunsElements asks of an instruction with destination group (d, w) and sources srcs. -/
def ready (s : State) (gate : Res Unit) (d w : Nat) (km : BitVec 3) (srcs : List (Nat × Nat)) (sc : List ScaleUse) : Prop :=
  Straight s ∧ s.me.vstate ≠ 0 ∧ gate = .ok () ∧ writable (settled s) (group d w (settled s).me.nvl) = true ∧ NoPoison (settled s) km srcs sc
    ∧ elemRange (settled s).me = [0, 1, 2, 3]
theorem ready_of {s : State} {gate : Res Unit} {d w : Nat} {km : BitVec 3} {srcs : List (Nat × Nat)} {sc : List ScaleUse} (hg : gate.isOk = true)
    (h : Straight s ∧ s.me.vstate ≠ 0 ∧ writable (settled s) (group d w (settled s).me.nvl) = true ∧ NoPoison (settled s) km srcs sc
      ∧ elemRange (settled s).me = [0, 1, 2, 3]) : ready s gate d w km srcs sc :=
  ⟨h.1, h.2.1, unit_ok hg, h.2.2⟩
theorem witness_FloatVector :
    (∀ o ∈ [(⟨false, 1, 2, false, 3, false, 0⟩ : V3), ⟨true, 1, 2, false, 3, false, 0⟩],
      let v := settled (sVec 13)
      ready (sVec 13) (floatGate v o.d o.b o.fb (some (rc3 o)) o.km) 1 32 o.km (floatSrcs v o.b (some (rc3 o)))
        (scaleUse (scaleReg v.me false false) o.b.toNat 32 ++ scaleUse (rightScale v (some (rc3 o))) o.c.toNat (tagWidth (rightTag v o.b (some (rc3 o))))))
    ∧ ready (sMask 13) (floatGate (settled (sMask 13)) 1 2 false none 1) 1 32 1 (floatSrcs (settled (sMask 13)) 2 none)
        (scaleUse (scaleReg (settled (sMask 13)).me false false) 2 32) := by
  refine ⟨?_, ready_of (by decide +kernel) (by decide +kernel)⟩
  intro o ho
  rcases List.mem_cons.mp ho with rfl | ho
  · exact ready_of (by decide +kernel) (by decide +kernel)
  · rw [List.mem_singleton.mp ho]
    exact ready_of (by decide +kernel) (by decide +kernel)
theorem witness_FusedVector : let o : V4 := ⟨false, 1, 2, false, 3, false, 4, false, 0⟩
    let v := settled (sVec 13)
    ready (sVec 13) (fusedGate v o) 1 32 0 (fusedSrcs v o)
      (scaleUse (scaleReg v.me false false) 2 32 ++ scaleUse (scaleReg v.me true false) 3 (tagWidth ((rc4 o).tag v.me (v.me.tag 2)))) :=
  ready_of (by decide +kernel) (by decide +kernel)
/-- Finite values that are multiples of 2^-3, a divisor that is 0 and one that is not; a root's operand. -/
theorem witness_FloatTable : (FV.fin true 5 2 false).ExactFrom (-3) ∧ (FV.fin false 0 0 false).ExactFrom (-3) ∧ (FV.fin true 5 2 false).units (-3) ≠ 0
    ∧ (FV.fin false 0 0 false).units (-3) = 0 ∧ (3 : Nat) ≠ 0 ∧ (3 : Nat) < 2 ^ 64 :=
  ⟨⟨true, 5, 2, rfl, by decide⟩, ⟨false, 0, 0, rfl, by decide⟩, by decide, by decide, by decide, by decide⟩
theorem witness_Rounding : (∀ mode < 5, (-3 : Int) ≤ -2 ∧ (-3 : Int) ≤ 1 ∧ mode < 5) ∧ (7 : Nat) ≠ 0
    ∧ ∀ t ∈ [8, 9, 11, 12, 13, 14], 1 < 2 ^ tagWidth t ∧ (decodeElem t 1).isNan = false := by decide +kernel
theorem witness_IntegerVector :
    (let o : V3 := ⟨false, 1, 2, false, 3, false, 0⟩;
      ready (sVec 4) (intGate (settled (sVec 4)) o) 1 32 0 (srcs3 o (settled (sVec 4))) [])
    ∧ (let o : V2 := ⟨1, 2, false, 1⟩;
      ready (sMask 4) (unaryGate (settled (sMask 4)) o) 1 32 1 [(2, 32)] []) :=
  ⟨ready_of (by decide +kernel) (by decide +kernel), ready_of (by decide +kernel) (by decide +kernel)⟩
/-- An integer conversion without scales, and a word of 32 bits that is not 0. -/
theorem witness_IntegerTable : tagInt ((sVec2 4 4 5).me.tag 0) = true ∧ tagInt ((sVec2 4 4 5).me.tag 1) = true
    ∧ scaleReg (sVec2 4 4 5).me false false = none ∧ 12 < 2 ^ 32 ∧ 12 ≠ 0 := by decide +kernel
theorem witness_VectorCompare : ∀ x ∈ [(4, 0), (13, 6), (4, 5)], let o : VCmpOps := ⟨false, 2, 2, false, 3, false, 1⟩
    let v := settled (sMask x.1)
    Straight (sMask x.1) ∧ (sMask x.1).me.vstate ≠ 0 ∧ cmpGate v x.2 o = .ok () ∧ NoPoison v 1 (cmpSrcs o v) (cmpScales o v) := by
  intro x hx
  refine ⟨?_, ?_, unit_ok ?_, ?_⟩ <;> revert x <;> decide +kernel
theorem witness_MaskOperations : let v := settled (sMask 13)
    Straight (sMask 13) ∧ (sMask 13).me.vstate ≠ 0 ∧ operands v [.k 1 false, .k 7 true] = .ok () ∧ maskSrcPoison v [1, 7] = none
    ∧ operands v [.k 1 true] = .ok () ∧ maskSrcPoison v [1] = none :=
  ⟨by decide +kernel, by decide +kernel, unit_ok (by decide +kernel), by decide +kernel, unit_ok (by decide +kernel), by decide +kernel⟩
theorem witness_VectorConversions :
    (let o : CvtOps := ⟨1, 2, false, 7, 0⟩;
      ready (sVec 13) (cvtGate (settled (sVec 13)) o) 1 32 0 [(2, 32)] (scaleUse (scaleReg (settled (sVec 13)).me false false) 2 32))
    ∧ (let o : V3 := ⟨true, 1, 2, false, 3, false, 0⟩;
      ready (sVec 13) (scaleGate (settled (sVec 13)) o) 1 32 0 (scaleSrcs (settled (sVec 13)) o) [])
    ∧ ready (sVec 13) (movGate (settled (sVec 13)) ⟨1, 2, false, 0⟩) 1 32 0 [(2, 32)] []
    ∧ ready (sVec 13) (bcastGate (settled (sVec 13)) ⟨1, 2, false, 0⟩) 1 32 0 [] [] :=
  ⟨ready_of (by decide +kernel) (by decide +kernel), ready_of (by decide +kernel) (by decide +kernel), ready_of (by decide +kernel) (by decide +kernel),
    ready_of (by decide +kernel) (by decide +kernel)⟩
theorem witness_VectorLookups_vqnt : let s := sVec2 13 15 0
    let q := qntStart (settled s)
    Straight s ∧ s.me.vstate ≠ 0 ∧ qntGate (settled s) ⟨1, 2, false, 0⟩ = .ok () ∧ writable q (q.me.cfg 16 12 :: group 1 8 q.me.nvl) = true
    ∧ NoPoison q 0 [(2, 32)] [] :=
  ⟨by decide +kernel, by decide +kernel, unit_ok (by decide +kernel), by decide +kernel, by decide +kernel⟩
theorem witness_VectorLookups :
    let v := settled (sVec 4)
    let m := settled (sMask 4)
    Straight (sVec 4) ∧ (sVec 4).me.vstate ≠ 0
    ∧ (lutGate v ⟨1, 2, false, 3, false, 0⟩ = .ok () ∧ writable v (group 1 32 v.me.nvl) = true
      ∧ ∀ e ∈ activeElems v 0, lutPoison v ⟨1, 2, false, 3, false, 0⟩ e = none)
    ∧ (unpkGate v ⟨1, 2, false, 4, true, 0⟩ = .ok () ∧ ∀ e ∈ activeElems v 0, unpkPoison v ⟨1, 2, false, 4, true, 0⟩ e = none)
    ∧ (selGate m ⟨1, 2, false, 3, false, 1⟩ = .ok () ∧ writable m (group 1 32 m.me.nvl) = true
      ∧ ∀ e ∈ elemRange m.me, maskPoison m 1 e = none ∧ srcPoison m [(selSource m ⟨1, 2, false, 3, false, 1⟩ e, 32)] e = none)
    ∧ (extrGate v ⟨1, 2, false, 0, false⟩ = .ok () ∧ (sv v 0).toNat < v.me.nvl ∧ srcPoison v [(2, 32)] (sv v 0).toNat = none)
    ∧ v.me.nvl ≤ (sv (settled ((sVec 4).setS 5 4)) 5).toNat :=
  ⟨by decide +kernel, by decide +kernel, ⟨unit_ok (by decide +kernel), by decide +kernel, by decide +kernel⟩, ⟨unit_ok (by decide +kernel), by decide +kernel⟩,
    ⟨unit_ok (by decide +kernel), by decide +kernel, by decide +kernel⟩, ⟨unit_ok (by decide +kernel), by decide +kernel, by decide +kernel⟩, by decide +kernel⟩
theorem witness_ReductionsAndScans :
    let v := settled (sVec 13)
    let m := settled (sMask 4)
    let r := RedOps.spec ⟨false, 1, 2, false, 3, false, true, 0⟩ 0
    let q := ScanOps.spec ⟨false, 1, 2, false, 0, false, false, true, 1⟩ 5
    Straight (sVec 13) ∧ (sVec 13).me.vstate ≠ 0 ∧ redIssue v r 1 = .ok () ∧ writable v [1] = true ∧ redPoison v r (redActive v 0) = none
    ∧ scanGate m q = .ok () ∧ writable m (group 1 32 m.me.nvl) = true ∧ redPoison m q (redActive m 1) = none :=
  ⟨by decide +kernel, by decide +kernel, unit_ok (by decide +kernel), by decide +kernel, by decide +kernel, unit_ok (by decide +kernel), by decide +kernel,
    by decide +kernel⟩
theorem witness_IntegerReductions : (RedOps.spec ⟨false, 1, 2, false, 0, false, false, 0⟩ 2).flt (sVec 4).me = false
    ∧ (RedOps.spec ⟨false, 1, 2, false, 0, false, false, 0⟩ 2).op < 3 := by decide +kernel
theorem witness_Permutes : let s := sVec 4
    let v := settled s
    let w := settled (sMask 4)
    Straight s ∧ s.me.vstate ≠ 0 ∧ writable v (group 1 32 v.me.nvl) = true
    ∧ (permIssue v 1 2 false [(3, false)] [] 0 = .ok () ∧ permPoison v 2 [3] 0 (permIndex v 3 0) = none)
    ∧ (permIssue v 1 2 false [] [.s 4 false] 0 = .ok () ∧ permPoison v 2 [] 0 (permUp v (sv v 4).toNat 0) = none
      ∧ permPoison v 2 [] 0 (permDown v (sv v 4).toNat 0) = none)
    ∧ (permIssue v 1 2 false [] [] 0 = .ok () ∧ permPoison v 2 [] 0 (permRev v 0) = none)
    ∧ (permIssue w 1 2 false [] [] 1 = .ok () ∧ packPoison w 1 = none ∧ permPoison w 2 [] 0 (permPack w 1) = none
      ∧ permPoison w 2 [] 1 (permSpread w 1) = none) :=
  ⟨by decide +kernel, by decide +kernel, by decide +kernel, ⟨unit_ok (by decide +kernel), by decide +kernel⟩,
    ⟨unit_ok (by decide +kernel), by decide +kernel, by decide +kernel⟩, ⟨unit_ok (by decide +kernel), by decide +kernel⟩,
    ⟨unit_ok (by decide +kernel), by decide +kernel, by decide +kernel, by decide +kernel⟩⟩
/-- An instruction of strand 0 in the window, squashed n times. -/
def entry0 (n : Nat) : VEntry :=
  ⟨0, 0x400002, [(1, 7, 0)], [], 1, 0, true, 1, 0, n, true, some (5, 3, { val := 0, full := true, mark := .clean, tok := 0 }), [2], [], 0, 0, 1, 0, [], []⟩
theorem witness_WindowChecks :
    let e := entry0 1
    let s := s0.updCore 0 (fun c => { c with window := [e] })
    let r : VResult := { e.result with flags := 2 }
    let q : VResult := { e.result with flags := 4 }
    let z : VResult := { e.result with flags := 8 }
    (s.core 0).window = e :: [] ∧ r ≠ e.result ∧ e.result ∈ [e.result, r, e.result, q]
    ∧ (∀ y ∈ [e.result, r, e.result, q], y ≠ e.result → [e.result, r, e.result, q].count y < [e.result, r, e.result, q].count e.result)
    ∧ [e.result, r, q, z].Nodup ∧ [e.result, r, e.result, r].count e.result = 2 ∧ [e.result, r, e.result, r].count r = 2
    ∧ coreOf e.strand = 0 ∧ (s.strand e.strand).status.nest = false ∧ e.before = [] ∧ ({ e with took := [] } : VEntry).took = []
    ∧ 2 ≤ (entry0 2).squashes ∧ ¬ 2 ≤ e.squashes ∧ (1, 7, 0) ∈ e.dest ∧ (e.dest.map (·.1)).Nodup ∧ s.boundAt 0 1 = none := by decide +kernel

/-! ### Streams, vector accesses and transfers -/

/-- s1 with VL = 4, every vector register of tag t, and stream q3 over four words at 0x400040. -/
def sMem (t : Nat) : State :=
  s1.updMe (fun st => { st with vec := { st.vec with vl := 4, vtag := BitVec.ofNat 128 ((List.range 32).foldl (fun x _ => 16 * x + t) 0) }
                                qregs := [(24, 0x400040), (25, 4), (28, 4 + 2 ^ 32), (29, 1)] })
theorem witness_StreamRegisters : Straight s0 ∧ Readable s0 [1] ∧ (6 : BitVec 3) ≠ 7
    ∧ ((sMem 13).me.qpos 3).toNat < (sMem 13).me.qtot 3 ∧ ¬ (s0.me.qpos 3).toNat < s0.me.qtot 3 := by decide +kernel
/-- A vector load, then a store, at place pl passes its checks. -/
def accessible (v : State) (d : Nat) (ops : List Opnd) (pl : VPlace) : Prop :=
  dataOk v d = true ∧ operands v (ops ++ maskOps 0) = .ok () ∧ LoadFree v d pl ∧ Unhurried v d 0 pl false ∧ (loadRun v d 0 pl).stop = none
    ∧ Unhurried v d 0 pl true ∧ (storeRun v d 0 pl).stop = none
theorem accessible_of {v : State} {d : Nat} {ops : List Opnd} {pl : VPlace} (ho : (operands v (ops ++ maskOps 0)).isOk = true)
    (h : dataOk v d = true ∧ LoadFree v d pl ∧ Unhurried v d 0 pl false ∧ (loadRun v d 0 pl).stop.isNone = true ∧ Unhurried v d 0 pl true
      ∧ (storeRun v d 0 pl).stop.isNone = true) : accessible v d ops pl :=
  ⟨h.1, unit_ok ho, h.2.1, h.2.2.1, Option.isNone_iff_eq_none.mp h.2.2.2.1, h.2.2.2.2.1, Option.isNone_iff_eq_none.mp h.2.2.2.2.2⟩
theorem witness_VectorMemory : let v := settled (sMem 4)
    (Straight (sMem 4) ∧ (sMem 4).me.vstate ≠ 0 ∧ indexOk v 9 = true)
    ∧ accessible v 8 [.s 1 false] (.base (sv v 1 + dispWord (some 8))) ∧ accessible v 8 [] (.stream 3 true)
    ∧ accessible v 8 (dataOps v 8 false) (.stream 3 false)
    ∧ accessible v 8 (.s 1 false :: dataOps v 9 false) (.index (sv v 1 + dispWord none) 9 (v.me.tag 9) 2) := by
  refine ⟨?_, accessible_of ?_ ?_, accessible_of ?_ ?_, accessible_of ?_ ?_, accessible_of ?_ ?_⟩ <;> decide +kernel
theorem some_of {α : Type} {x : Option (Nat × α)} {e : Nat} (h : (x.map (·.1)) = some e) : ∃ t, x = some (e, t) := by
  cases x with
  | none => simp at h
  | some y => exact ⟨y.2, by simp at h; rw [← h]⟩
/-- The fourth element of a load at the end of the page lies on the next, which is not mapped. -/
theorem witness_VectorAccessStops : let v := sMem 13
    let pl := VPlace.base 0x40FFF4
    LoadFree v 8 pl ∧ Unhurried v 8 0 pl false ∧ (∃ t, (loadRun v 8 0 pl).stop = some (3, t)) ∧ Unhurried v 8 0 pl true
    ∧ ∃ t, (storeRun v 8 0 pl).stop = some (3, t) :=
  ⟨by decide +kernel, by decide +kernel, some_of (by decide +kernel), by decide +kernel, some_of (by decide +kernel)⟩
/-- A vector scratchpad access at place pl passes its checks. -/
def spAccessible (v : State) (d : Nat) (ops : List Opnd) (pl : VPlace) : Prop :=
  (dataOk v d = true ∧ LoadFree v d pl ∧ SpClear v d (spRun v d 0 pl []).es ∧ spOwnBusy v (spRun v d 0 pl [(d, 32)]).es = false)
  ∧ operands v (ops ++ maskOps 0) = .ok () ∧ (spRun v d 0 pl []).stop = none ∧ (spRun v d 0 pl [(d, 32)]).stop = none
theorem spAccessible_of {v : State} {d : Nat} {ops : List Opnd} {pl : VPlace} (ho : (operands v (ops ++ maskOps 0)).isOk = true)
    (h : dataOk v d = true ∧ LoadFree v d pl ∧ SpClear v d (spRun v d 0 pl []).es ∧ spOwnBusy v (spRun v d 0 pl [(d, 32)]).es = false)
    (hs : (spRun v d 0 pl []).stop.isNone = true ∧ (spRun v d 0 pl [(d, 32)]).stop.isNone = true) : spAccessible v d ops pl :=
  ⟨h, unit_ok ho, Option.isNone_iff_eq_none.mp hs.1, Option.isNone_iff_eq_none.mp hs.2⟩
/-- sVec in a group of two cores, s1 an offset in the second. -/
def sFar : State := (((sVec 4).updMe fun st => { st with cont := some { cont0 with glvl := 2, spc := false, members := [0, 2] } }).updHamper 0 (fun h =>
  { h with grids := [grid0] })).setS 1 (selAddr 1 0)
theorem witness_VectorScratchpad : let v := settled (sVec 4)
    let f := settled sFar
    let b := fun (v : State) => VPlace.base (sv v 1 + dispWord none)
    let x := VPlace.index 0 9 4 2
    (Straight (sVec 4) ∧ (sVec 4).me.vstate ≠ 0 ∧ indexOk v 9 = true ∧ spCores v (spRun v 8 0 (b v) []).es = [] ∧ spCores v (spRun v 8 0 x []).es = [])
    ∧ spAccessible v 8 [.s 1 false] (b v) ∧ spAccessible v 8 (.s 1 false :: dataOps v 8 false) (b v)
    ∧ spAccessible v 8 (.s 1 false :: dataOps v 9 false) x ∧ spAccessible v 8 (.s 1 false :: (dataOps v 9 false ++ dataOps v 8 false)) x
    ∧ spAccessible f 8 [.s 1 false] (b f)
    ∧ (Straight sFar ∧ sFar.me.vstate ≠ 0 ∧ spCores f (spRun f 8 0 (b f) []).es = [1] ∧ f.me.cutAt = none
      ∧ ∀ j ∈ group 8 (tagWidth (f.me.tag 8)) f.me.nvl, f.boundAt (coreOf f.cur) j = none) := by
  refine ⟨?_, ?_, ?_, ?_, ?_, ?_, ?_⟩ <;> first | refine spAccessible_of ?_ ?_ ?_ <;> decide +kernel | decide +kernel
/-- sMem with v3 bound to a record. -/
def sBound : State := (sMem 13).updMe (fun st => { st with bindings := [⟨3, 1, 0, 4, 0, 0, [], 0, [], 0⟩] })
theorem witness_TransferIssue :
    let s := sMem 13
    let v := settled s
    let b := sBound.setS 5 3
    let n := (s.setS 6 64).setS 7 0
    (Straight s ∧ s.me.vstate ≠ 0 ∧ v.me.tag 8 ≠ 15 ∧ tagWidth (v.me.tag 8) = 32 ∧ groupOk v 8 32 v.me.nvl = true ∧ dispatchRoom v = true
      ∧ (∀ e < v.me.nvl, (VPlace.stream 3 false).past v e = true ∨ srcPoison v [(8, 32)] e = none) ∧ writable v (group 8 32 v.me.nvl) = true)
    ∧ operands v (groupOps 8 32 v.me.nvl false) = .ok ()
    ∧ (spRange s (sv s 2) (s.me.nvl * 4) = .ok 0 ∧ spRange n (sv n 2) 64 = .ok 0 ∧ spRange n (sv n 2) 0 = .ok 0)
    ∧ (Readable s [2] ∧ (sv s 2).toNat % 4 = 0 ∧ windowBusy s (.sp 0 (spOff (sv s 2)) (s.me.nvl * 4)) = false ∧ remoteBusy s 0 = false
      ∧ handed s s.cur (handWords (spOff (sv s 2)) (s.me.nvl * 4)) = false)
    ∧ (b.me.vstate ≠ 0 ∧ Readable b [5] ∧ (b.me.bindings.find? (fun x => x.reg = (sv b 5).toNat)).isSome = true ∧ tagWidth (b.me.tag 3) = 32
      ∧ b.me.nvl % 4 = 0 ∧ dispatchRoom b = true)
    ∧ (Readable n [1, 2, 6] ∧ Readable n [1, 2, 7] ∧ (sv n 1).toNat % 8 = 0 ∧ (sv n 2).toNat % 8 = 0 ∧ (sv n 6).toNat % 8 = 0 ∧ (sv n 7).toNat = 0
      ∧ dispatchRoom n = true ∧ windowBusy n (.sp 0 (spOff (sv n 2)) 64) = false ∧ remoteBusy n 0 = false
      ∧ handed n n.cur (handWords (spOff (sv n 2)) 64) = false) :=
  ⟨by decide +kernel, unit_ok (by decide +kernel), ⟨rfl, rfl, rfl⟩, by decide +kernel⟩
/-- A STRM of strand 0 outstanding, for status register 5. -/
def xfer0 : Xfer := { xferSaved with saved := none, done := 0 }
theorem witness_TransferEnd :
    let s : State := { s0With (fun st => st.markEmpty 5 7) with xfers := [xfer0] }
    (mine s 0)[0]? = some xfer0 ∧ movable s xfer0 = true ∧ xferNamed s 0 3 = some xfer0 ∧ xfer0.dest = some 5 ∧ 5 ≠ 0 ∧ xfer0.tok ≠ 0
    ∧ ((s.strand xfer0.strand).cell 5).tok = xfer0.tok ∧ Straight s ∧ onStatus s 5 = [xfer0] ∧ onStatus s 6 = [] := by decide +kernel
/-- sCont with an MCAST's operands: from 0 to 0x1000, 64 bytes, to group core 0. -/
def sMcast (len sel : Word) : State := ((((sContWith (fun c => { c with glvl := 2 })).setS 1 0).setS 2 0x1000).setS 3 len).setS 4 sel
theorem witness_Multicast :
    let s := sMcast 64 1
    let z := sMcast 0 1
    let e := sMcast 64 0
    let r : Remote := { strand := 0, core := 0, write := [(0, [1, 2])], untag := true, mc := 7, tok := 0, dest := none, off := 0, len := 0, zext := false, ea := 0
                        vd := none, w := 0, elems := [], msg := 0 }
    let x : Xfer := { xfer0 with kind := .mcast }
    let t : State := { s0 with remote := [r], xfers := [x] }
    Straight s ∧ Readable s [1, 2, 3, 4] ∧ (sv s 1).toNat % 64 = 0 ∧ (sv s 2).toNat % 64 = 0 ∧ (sv s 3).toNat % 64 = 0
    ∧ mcastIndexes (sv s 4) 0 ≠ [] ∧ (sv s 3).toNat ≠ 0 ∧ (sv s 1).toNat + 64 ≤ Config.scratchBytes ∧ (sv s 2).toNat + 64 ≤ Config.scratchBytes
    ∧ (∀ j ∈ mcastIndexes (sv s 4) 0, (spCore s s.cur (selAddr j (sv s 2).toNat)).isSome = true) ∧ windowBusy s (.sp (coreOf s.cur) 0 64) = false
    ∧ selfBusy s = false ∧ handed s s.cur (handWords (sv s 1).toNat 64) = false
    ∧ (∀ d ∈ windowData s (coreOf s.cur) 0 1 64, d.2 = false) ∧ (sv z 3).toNat = 0 ∧ mcastIndexes (sv e 4) 0 = []
    ∧ (t.remote.filter (fun r => r.mc ≠ 0 ∧ r.strand = 0))[0]? = some r ∧ t.xfers.find? (fun x => x.tok = r.mc) = some x ∧ remoteDue t r = true
    ∧ startable t x = true ∧ remoteLost t r = false := by decide +kernel

/-! ### The matrix engine -/

/-- sMem with descriptors, a stream of two rows of 64 bytes in q3, and the engine's other state. -/
def sMx (desc : Map (BitVec 32)) (f : Matrix → Matrix) : State :=
  ((sMem 13).updMe (fun st => { st with qregs := [(24, 0x400000), (25, 64), (28, 2 + 2 ^ 32), (29, 1)] })).updCore 0 (fun c =>
    { c with mx := f { c.mx with desc := desc } })
theorem witness_TileState :
    let s := ((sMx [] id).setS 2 0x10F7F).setS 3 0x80
    let e := sMx [] (fun m => { m with queue := [.latchCb 0 64 1 0 0 [] 0, .zeroTile 1, .zeroTile 2] })
    let o : Outbound := ⟨0, 0x4000, [(0x400000, 1)], [⟨0, 0x400000, 0x400000⟩], false⟩
    let w : State := { s with outbound := [o], gap := [(0x4000, 1)], homeq := [⟨0, 7, some 5, none, 1, 8, 0x400040, 0x400040, 0x40FFFF, 5, false, false, 1, 0, 0⟩] }
    (handed s s.cur [handT 7] = false ∧ ownGranules (drainCore s) 0 = [] ∧ ownGranules (drainCore s) 1 = [] ∧ (mx w).queue = []
      ∧ ¬ (ownGranules (drainCore w) 0 = []))
    ∧ Straight s ∧ s.me.vstate ≠ 0 ∧ Readable s [2] ∧ (sv s 2).setWidth 32 &&& descReserved = 0 ∧ (mx s).queue.length < 4
    ∧ Readable s [3] ∧ (sv s 3).setWidth 32 &&& descReserved ≠ 0 ∧ mget 0 (mx s).stain.tiles 7 = 0 ∧ (mx s).queue = [] ∧ (mx e).queue.length < 4 := by
  decide +kernel
theorem witness_EngineOrder : (mx s0).queue.length < 4 ∧ (mx s0).queue = [] ∧ (∀ t rb k cbm row w bad, MOp.zeroTile 0 ≠ .latchCb t rb k cbm row w bad)
    ∧ ∀ n, MOp.zeroTile 0 ≠ .fill n :=
  ⟨by decide +kernel, by decide +kernel, fun _ _ _ _ _ _ _ h => (nomatch h), fun _ h => (nomatch h)⟩
theorem witness_TileScratchpad :
    let s := (sMx [(1, 0x301)] id).setS 2 0x80
    let r := s.updCore 0 (fun c => { c with swz := [(3, 2)] })
    spRange s (sv s 2 + 0) 128 = .ok 0
    ∧ (Straight s ∧ s.me.vstate ≠ 0 ∧ Readable s [2] ∧ dRb ((mx s).dsc 1) = 64 ∧ dRows ((mx s).dsc 1) = 2 ∧ swLegal 0 64 = true ∧ swLegal 2 64 = true
      ∧ (sv s 2 + 0).toNat % 64 = 0 ∧ (sv s 2 + (0x40 : BitVec 16).signExtend 64).toNat % 64 = 0 ∧ remoteBusy s 0 = false
      ∧ handed s s.cur (handWords (spOff (sv s 2 + 0)) 128) = false
      ∧ (∀ u ∈ spUnits (spOff (sv s 2 + 0)) 128, mget 0 (s.core 0).swz u = 0) ∧ (mx s).queue = [] ∧ handed s s.cur [handT 1] = false
      ∧ spUnits (spOff (sv r 2 + 0)) 128 = [2] ++ 3 :: [] ∧ (∀ x ∈ [2], mget 0 (r.core 0).swz x = 0) ∧ mget 0 (r.core 0).swz 3 ≠ 0) :=
  ⟨rfl, by decide +kernel⟩
theorem witness_TileMemory : let s := sMx [(1, 0x300)] id
    (Straight s ∧ s.me.vstate ≠ 0 ∧ (mx s).queue.length < 4 ∧ dRb ((mx s).dsc 1) = 64 ∧ dRows ((mx s).dsc 1) = 1)
    ∧ (rowAddrs s 3 64 1 = [0x400000] ∧ rowBusy s true 0x400000 = false ∧ rowBusy s false 0x400000 = false ∧ handed s s.cur [handT 1] = false)
    ∧ (gatherRows s 3 64 1 .read).stop = none ∧ (gatherRows s 3 64 1 .write).stop = none := by
  refine ⟨?_, ?_, Option.isNone_iff_eq_none.mp ?_, Option.isNone_iff_eq_none.mp ?_⟩ <;> decide +kernel
theorem witness_WeightLatches :
    let ds : Map (BitVec 32) := [(0, 0x10F01), (1, 0x300), (2, 0x200)]
    let m := mx (sMx ds id)
    let c := mx (sMx ds (fun m => { m with iMctl := 1 }))
    let g := mx (sMx ds (fun m => { m with iMctl := 1, tiles := [(1, ⟨BitVec.ofNat 262144 ((2 ^ 512 - 1) / 15 * 4), 0⟩)] }))
    (∀ x < 0 + fmtTiles 2, 0 ≤ x → dEw (m.dsc x) = fmtEw 2 ∧ dRb (m.dsc x) = 128 * fmtLen 2 / fmtTiles 2 ∧ dRows (m.dsc x) = 2)
    ∧ dEw (m.dsc 2) = 0 ∧ dRows (m.dsc 2) * dRb (m.dsc 2) % 48 = 0 ∧ dRows (m.dsc 2) * dRb (m.dsc 2) / 48 ≤ 128
    ∧ dEw (m.dsc 0) = fmtEw 2 ∧ dRb (m.dsc 0) = 128 * fmtLen 2 ∧ 2 * dRows (m.dsc 0) % 4 = 0 ∧ 2 * dRows (m.dsc 0) ≤ 128 ∧ dEw (m.dsc 1) = 0
    ∧ dRb (m.dsc 1) = 64 ∧ dRows (m.dsc 1) = 2 * dRows (m.dsc 0) / 4 ∧ m.iMctl.getLsbD 0 = false
    ∧ c.iMctl.getLsbD 0 = true ∧ c.queue = [] ∧ spFirstBad c 1 4 = some 0 ∧ g.iMctl.getLsbD 0 = true ∧ g.queue = [] ∧ spFirstBad g 1 4 = none
    ∧ ∀ op ∈ [MOp.latch 0 1 2 2, .latchCb 2 64 1 0 0 [] 0, .latchSp 0 1 4 2], handed (sMx ds id) 0 op.reads = false := by
  decide +kernel
theorem witness_Codebooks :
    let s := (sMem 13).setS 2 0x20
    let f := s.updCore 0 (fun c => { c with mx := { c.mx with slots := [(0, ⟨2, 0, false⟩)] } })
    let g := s.updCore 0 (fun c => { c with mx := { c.mx with slots := [(0, ⟨1, 0, false⟩)], queue := [.latchCb 0 64 2 1 0 [] 0] } })
    let h := s.updCore 0 (fun c => { c with mx := { c.mx with slots := [(0, ⟨2, 0, false⟩)], queue := [.latchCb 0 64 2 1 0 [] 0] } })
    let e := s.updCore 0 (fun c => { c with mx := { c.mx with slots := [(0, ⟨2, 0, false⟩)], queue := [.latchCb 0 64 1 1 0 [] 0] } })
    (∃ a u, access s (sv s 1 + 0) { kind := .read } = .ok (a, u)) ∧ spRange s (sv s 2 + 0) 16 = .ok 0
    ∧ (Straight s ∧ s.me.vstate ≠ 0 ∧ Readable s [1, 2] ∧ (mx s).queue.length < 4 ∧ (mx f).queue.length < 4 ∧ ((mx s).slot 0).st ≠ 1 ∧ ((mx f).slot 0).st = 2
      ∧ cbPending (mx f) 0 = false ∧ (sv s 1 + 0).toNat % 16 = 0 ∧ (sv s 2 + 0).toNat % 16 = 0 ∧ remoteBusy s 0 = false
      ∧ handed s s.cur (handWords (spOff (sv s 2 + 0)) 16) = false
      ∧ ((g.core 0).mx.slot 0).st = 1 ∧ (g.core 0).mx.toRun = .latchCb 0 64 2 1 0 [] 0 :: [] ∧ ((g.core 0).mx.slot (cbSlot 1 0)).st ≠ 2
      ∧ ((h.core 0).mx.slot (cbSlot 1 0)).st = 2 ∧ 0 + 1 < 2 ∧ (h.core 0).mx.toRun = .latchCb 0 64 2 1 0 [] 0 :: [] ∧ (e.core 0).mx.toRun = .latchCb 0 64 1 1 0 [] 0 :: []
      ∧ ((e.core 0).mx.slot (cbSlot 1 0)).st = 2) :=
  ⟨ok_two (by decide +kernel), rfl, by decide +kernel⟩
/-- sMx whose array holds f8 weights and whose tile 1 is one of their activations. -/
def sMul : State := sMx [(1, 0x10F00)] (fun m => { m with iLatch := ⟨true, 2, 128, true, false⟩ })
theorem witness_MatrixMultiply :
    let s := sMul
    let v := settled s
    let d := (mx s).dsc 1
    let b := settled (s.setS 5 127)
    (viewOf v 8 1 = .ok false ∧ operands v (.s 2 false :: groupOps 8 32 v.me.nvl false) = .ok ())
    ∧ (Straight s ∧ s.me.vstate ≠ 0 ∧ (mx s).queue.length < 4 ∧ dEw d = fmtEw 2 ∧ 1 ≤ dRb d / fmtLen 2 ∧ (mx s).iLatch.valid = true
      ∧ dRb d / fmtLen 2 ≤ (mx s).iLatch.k ∧ fmtPairs (mx s).iLatch.wf 2 = true ∧ (mx s).iLatch.sp = true
      ∧ handed s s.cur (MOp.mma 1 1 2 (dRows d) (dRb d) (dRb d / fmtLen 2) false).reads = false ∧ handed v v.cur ((viewBanks false 1).map handA) = false
      ∧ Readable v [2] ∧ (((sv v 2).toNat : Int) + ((v.me.nvl : Int) - 1) / 128 ≤ 127)
      ∧ (((sv b 5).toNat : Int) + ((b.me.nvl : Int) - 1) / 128 ≤ 127) ∧ (((mx v).iDrow.toNat : Int) + ((v.me.nvl : Int) - 1) / 128 ≤ 127)
      ∧ writable v (group 8 32 v.me.nvl) = true ∧ handed v v.cur [] = false)
    ∧ ∀ e < v.me.nvl, srcPoison v [(8, 32)] e = none ∧ (mget 0 (mx v).stain.banks (bankAt false 1 (e % 128))).getLsbD ((sv v 2).toNat + e / 128) = false :=
  ⟨⟨rfl, unit_ok (by decide +kernel)⟩, by decide +kernel, by decide +kernel⟩

/-! ### Collectives, Dexlink and outside masters -/

theorem ok_pr {ε α β : Type} (d : α × β) {r : Except ε (α × β)} (h : r.isOk = true) : r = .ok ((okOf d r).1, (okOf d r).2) := ok_of d h
/-- No access. -/
def noAcc : Acc × State := (⟨0, 0, ⟨0, false, 0, 0, 0⟩⟩, s0)
/-- A collective record at 0x400040: four sums of f32 at pos, its one member strand 0's v12, the level DOMAIN or l. -/
def recWord (pos l : Nat) : Nat :=
  pos + 4 * 2 ^ 64 + 16 * 2 ^ 128 + (4 + 2 ^ 32) * 2 ^ 192 + 0x400080 * 2 ^ 256 + (2 ^ 32 + l * 2 ^ 24 + 13) * 2 ^ 320
/-- sMem with that record and bindings bs. -/
def sRec (pos l : Nat) (bs : List Binding) : State :=
  { (sMem 13).updMe (fun st => { st with bindings := bs }) with
    mem := Memory.writeN (Memory.writeN (sMem 13).mem 0x400040 64 (recWord pos l)) 0x400080 8 0x180000 }
/-- A binding of v r to another record. -/
def bind0 (r : Nat) : Binding := ⟨r, 1, 0, 4, 0, 0, [], 0, [], 0⟩
/-- The record that a BIND reads. -/
def bindRd (s : State) : (Nat × Bool) × State :=
  let x := okOf noAcc (access (settled s) (sv (settled s) 1) { kind := .read })
  readAcc x.2 x.1 (sv (settled s) 1) 64
/-- Its member table. -/
def bindMs (s : State) : List Nat × State := okOf ([], s0) (readMembers (bindRd s).2 (recDw (bindRd s).1.1 4) (recNmem (bindRd s).1.1))
theorem witness_Bindings : ∀ x ∈ [(0x400100, 5, []), (0x400100, 4, []), (0x420000, 5, []), (0x400100, 5, [bind0 4, bind0 5])],
    ∃ a u w ms, let s := sRec x.1 x.2.1 x.2.2
    let v := settled s
    (Straight s ∧ s.me.vstate ≠ 0 ∧ ownsV v.mycore.vpart v.cur 12 = true ∧ isChannel v.mycore.vpart 12 = false ∧ v.boundAt (coreOf v.cur) 12 = none
      ∧ writable v [12] = true ∧ (sv v 1).toNat % 64 = 0)
    ∧ operands v [.s 1 false, .s 2 false] = .ok () ∧ access v (sv v 1) { kind := .read } = .ok (a, u)
    ∧ (readAcc u a (sv v 1) 64).1.2 = false
    ∧ readMembers (readAcc u a (sv v 1) 64).2 (recDw (readAcc u a (sv v 1) 64).1.1 4) (recNmem (readAcc u a (sv v 1) 64).1.1) = .ok (ms, w) := by
  intro x hx
  refine ⟨_, _, _, _, ?_, unit_ok ?_, ok_pr noAcc ?_, ?_, ok_pr ([], s0) ?_⟩ <;> revert x <;> decide +kernel
/-- Which of BIND's outcomes each of those records has: bound, CBADREC, CBADAREA, CNOPORT. -/
theorem witness_Bindings_outcomes :
    let chk := fun s => checkArea (bindMs s).2 (bindRd s).1.1 false
    let ok := fun s => recOk (bindMs s).2 (bindRd s).1.1 (bindMs s).1 12 (sv (settled s) 2).toNat
    (ok (sRec 0x400100 5 []) = true ∧ (chk (sRec 0x400100 5 [])).1.isSome = true ∧ (chk (sRec 0x400100 5 [])).2.me.bindings.length < 2)
    ∧ ok ((sRec 0x400100 5 []).setS 2 1) = false ∧ (ok (sRec 0x420000 5 []) = true ∧ (chk (sRec 0x420000 5 [])).1 = none)
    ∧ (ok (sRec 0x400100 4 []) = true ∧ (chk (sRec 0x400100 4 [])).1 = none)
    ∧ (ok (sRec 0x400100 5 [bind0 4, bind0 5]) = true ∧ 2 ≤ (chk (sRec 0x400100 5 [bind0 4, bind0 5])).2.me.bindings.length
      ∧ (chk (sRec 0x400100 5 [bind0 4, bind0 5])).1.isSome = true) := by decide +kernel
theorem witness_Unbind : let s := (sMem 13).updMe (fun st => { st with bindings := [bind0 3] })
    s.me.bindings.find? (fun b => b.reg = 3) = some (bind0 3) ∧ (bind0 3).w = s.me.nvl ∧ fabBusy s (coreOf s.cur) 3 = false
    ∧ (settled s).me.bindings.find? (fun b => b.reg = 3) = some (bind0 3) ∧ pushesOut (settled s) (settled s).cur (bind0 3) = 0 := by decide +kernel
/-- The group 2 of modules 0, 1 and 2 on the 192 KiB from 0x400000, in a state and with a lost index. -/
def grp (st lostix : Nat) : PGroup := ⟨[0, 1, 2], 2, st, lostix, 3, 0x400000, 0x30000, 0⟩
/-- A state in which every module has that group, and die 0 lets each in. -/
def withGrp (s : State) (g : PGroup) : State := [0, 1, 2, 3].foldl (fun s m => s.updMod m (fun x =>
  { x with pgrp := 1, groups := [(2, g)], access := (List.range 4).map (fun e => ⟨0, e, 0x1FC0000001F⟩) })) s
/-- A use of a record of two members and four positions, position 0's first member's contribution on its way. -/
def coll0 : Coll :=
  { key := 1, pa := 0x400040, nmem := 2, tot := 4, op := 0, tag := 13, lvl := 5
    place := [(0x400100, 0x400100, false), (0x400104, 0x400104, false), (0x400108, 0x400108, false), (0x40010C, 0x40010C, true)]
    members := [(0, 3), (1, 3)], joined := [0, 1], next := [], wait := [⟨0, 0, 0x3F800000, false, 0, 0⟩], results := [] }
theorem witness_CollectiveEvents :
    let b := { bind0 3 with pend := [(7, 0)] }
    let s := { (sMem 13).updMe (fun st => { st with bindings := [b] }) with colls := [coll0] }
    let y : Contrib := ⟨0, 0, 0x3F800000, false, 0, 0⟩
    let c := { coll0 with next := [(0, 1)], wait := [{ y with member := 1 }], results := [(0, (1, false)), (1, (2, false)), (2, (3, false)), (3, (4, false))] }
    let here := fun (s : State) (c : Coll) (pos : Nat) (x : Contrib) => decide (x.pos = pos ∧ x.member = mget 0 c.next pos ∧ s.arrived x.msg = true)
    let s1 : State := { s with colls := s.colls.map (fun z => if z.key = 1 then { z with wait := z.wait.erase y } else z) }
    let h : State := { withGrp s (grp 1 255) with strands := [(0, { s.me with sealing := some (sealMark (grp 1 255) 0) })] }
    let g := { bind0 3 with groups := [(7, 0, 0)] }
    let t := settle ((sMem 13).updMe (fun st => { st with bindings := [g] })) (coreOf 0)
    let e := settle (t.updCore 0 (fun c => { c with v := [(3, ⟨0, false, 0, 9⟩)] })) (coreOf 0)
    ((s.strand 0).bindings.find? (fun b => b.reg = 3) = some b ∧ b.pend = (7, 0) :: [] ∧ s.colls.find? (fun c => c.key = b.coll) = some coll0)
    ∧ coll0.wait.find? (here s coll0 1) = none
    ∧ (coll0.wait.find? (here s coll0 0) = some y ∧ heldAt s 0x400100 = false ∧ s.lost.contains y.msg = false
      ∧ unreachable s1 (moduleOf y.strand) 0x400100 = false ∧ tableAllows s1 (moduleOf y.strand) 0x400100 .atomic = true)
    ∧ (coll0.wait.find? (here h coll0 0) = some y ∧ heldAt h 0x400100 = true)
    ∧ ((c.wait.find? (here s c 0)).isSome = true ∧ c.nmem ≤ mget 0 c.next 0 + 1)
    ∧ ((s.strand 0).bindings.find? (fun b => b.reg = 3 ∧ b.coll = 1) = some b ∧ (groupReady c b.w b.got).isSome = true)
    ∧ ((t.strand 0).bindings.find? (fun b => b.reg = 3) = some g ∧ g.groups = (7, 0, 0) :: [] ∧ (mget VReg.zero (t.core (coreOf 0)).v 3).full = true)
    ∧ ((e.strand 0).bindings.find? (fun b => b.reg = 3) = some g ∧ (mget VReg.zero (e.core (coreOf 0)).v 3).full = false ∧ e.arrived 0 = true
      ∧ castHeld e 0 = false ∧ e.lost.contains 0 = false)
    ∧ (let b2 : Binding := { bind0 4 with groups := [(8, 0, 6)] }
      let g2 : Binding := { bind0 3 with groups := [(7, 0, 9)] }
      let p : Packet := ⟨6, .response, 5, 0, [], 0, false, 2⟩
      let k : State := { (e.updMe (fun st => { st with bindings := [g2, b2] })).updCore 0 (fun c => { c with v := [(3, ⟨0, false, 0, 9⟩), (4, ⟨0, false, 0, 9⟩)] }) with net := [p, { p with msg := 9 }] }
      (k.strand 0).bindings.find? (fun b => b.reg = 3) = some g2 ∧ k.arrived 9 = true ∧ (mget VReg.zero (k.core (coreOf 0)).v 3).full = false
      ∧ (mget VReg.zero (k.core (coreOf 0)).v 4).full = false ∧ castHeld k 9 = true) := by decide +kernel
theorem witness_DexlinkRetry :
    let x := linkOf s0 0 24
    let p := portAt s0 0 0
    let d := setPort s0 0 0 { p with up := false }
    let r := setLinkOf s0 0 24 { x with replay := [(0, 1, 0), (1, 0, 0)], tx := 2 }
    let f : Flit := ⟨0, 0, 2, 0, true, true⟩
    let k : Packet := ⟨5, .request, 0, 0, [⟨0, 0, .xp, .vc0⟩], 0, false, 0⟩
    let n : State := { s0 with net := [k, { k with esc := true }, { k with path := [] }], clk := 64 }
    portUp s0 0 24 = true ∧ (f.crcOk = true ∧ f.seq.toNat = x.rx ∧ f.room = true ∧ f.type.toNat ≤ 2) ∧ 2 < ({ f with type := 3 } : Flit).type.toNat
    ∧ ({ f with crcOk := false } : Flit).crcOk = false ∧ ({ f with seq := 1 } : Flit).seq.toNat ≠ x.rx ∧ ({ f with type := 1 } : Flit).type = 1
    ∧ (linkOf r 0 24).replay = (0, 1, 0) :: [(1, 0, 0)] ∧ (linkOf r 0 24).ackClk + 2048 ≤ ({ r with clk := 2048 } : State).clk ∧ portUp d 0 24 = false
    ∧ (portAt (setPort s0 0 0 { p with lanes := 2 }) 0 0).lanes - 1 < 2
    ∧ (n.net[0]? = some k ∧ k.esc = false ∧ k.path ≠ [] ∧ k.since + 64 ≤ n.clk ∧ ¬ k.since + 64 ≤ ({ n with clk := 63 } : State).clk)
    ∧ n.net[1]? = some { k with esc := true } ∧ n.net[2]? = some { k with path := [] } := by decide +kernel
/-- A master at endpoint 256 that the access table of compute die 0 lets in. -/
def sHost : State := s0.updMod 0 (fun m => { m with access := [⟨0, 256, 0x1FC0000001F⟩] })
theorem witness_OutsideMasters :
    let b : State := { sHost with poison := [0x10001] }
    let t : State := { sHost with tags := [(0x4000, ⟨7, 0, false, 0, 3⟩)] }
    let asks := fun (s : State) (ep pa : Nat) (op : HostOp) (k : Kind) => hostAllowed s ep pa 8 k && hostReaches s pa 8 && hostShape op pa 8
    let lets := fun (s : State) (ep : Nat) => asks s ep 0x400040
    let old := fun (s : State) => homeReadN (drainGroup (serveDegraded s 0x400040) (granOf 0x400040) 5 0) 0x400040 8
    (∀ op ∈ [HostOp.swap, .add, .band, .bor, .bxor, .min, .max, .minu, .maxu, .cas 0, .append], lets sHost 256 op .atomic = true ∧ op ≠ .write)
    ∧ (lets sHost 256 .write .write = true ∧ lets sHost 257 .write .write = false ∧ hostShape .swap 0x400042 4 = false)
    ∧ (∀ x ∈ (old sHost).2, x = false) ∧ (∃ x ∈ (old b).2, x = true)
    ∧ (hostNew (.cas 0) 8 0 1 = some 1 ∧ hostNew (.cas 0) 8 1 1 = none)
    ∧ hostAllowed sHost 256 0x400040 8 .read = true ∧ hostReaches sHost 0x400040 8 = true
    ∧ ((sHost.tag 0x4000).corrupt = true ∨ (sHost.tag 0x4000).allows (if (sHost.tag 0x4000).gl = 7 then 0 else 5) = true)
    ∧ ¬ ((t.tag 0x4000).corrupt = true ∨ (t.tag 0x4000).allows (if (t.tag 0x4000).gl = 7 then 0 else 5) = true) := by decide +kernel

/-! ### The Unpick and the Darning engine -/

/-- The class 1 whose table of 16 slots stands at 0x410000. -/
def cls1 : SkClass := { cls := 1, base := 0x410000, frames := [0x41], log2n := 4, log2m := 3, hash := [], fprint := 0, share := 5, cells := [], clearing := false, gen := 1 }
/-- A strand at S on a page of set tables, the header of that class at its start, s1 its address. -/
def sSet : State :=
  let s := ((withLeaf s1 0x41115F).setS 1 0x410000).updMe (fun st => { st with status := { st.status with prv := true } })
  { s.updMod 0 (fun m => { m with classes := [cls1] }) with mem := Memory.writeN s.mem 0x410000 8 0x401 }
theorem witness_SetTableIssue : ∀ w ∈ [true, false], ∃ a u, Straight sSet ∧ Readable sSet [1, 2, 3] ∧ sv sSet 1 = 0x410000
    ∧ skHeader sSet 0x410000 w = .ok (a, u) ∧ u.me.atomics < 8 := by
  intro w hw
  refine ⟨_, _, ?_, ?_, ?_, ok_pr noAcc ?_, ?_⟩ <;> revert w <;> decide +kernel
/-- A request on that table on its way to the home. -/
def req1 (op : Nat) (k v : Word) : HomeReq := ⟨0, 1, some 5, if op = 13 then some 6 else none, op, 8, 0x410000, 0x410000, 0x410000, 5, false, false, k, v, 0⟩
/-- sSet with that request. -/
def sSkReq (r : HomeReq) : State := { sSet.updMe (fun st => { st with atomics := 1 }) with homeq := [r] }
/-- The state in which the request acts at the home, and what it gives there. -/
def drainedOf (s : State) (r : HomeReq) : State := atomicEvent (serveDegraded (leaveQueue s r) r.pa) (granOf r.pa) r.share 0 r.strand false r.ea
def resOf (s : State) (r : HomeReq) : SkRes := tableRequest (drainedOf s r) (moduleOf r.strand) r.pa ⟨r.strand, 0, r.ea⟩ r.op r.arg r.exp
theorem witness_SetTableAtHome :
    (∀ op ∈ [11, 12, 13], let r := req1 op 0 0
      (sSkReq r).homeq[0]? = some r ∧ 11 ≤ r.op ∧ atomicDue (sSkReq r) r = true ∧ heldAt (sSkReq r) r.pa = false ∧ (sSkReq r).lost.contains r.msg = false
      ∧ unreachable (sSkReq r) (moduleOf r.strand) r.pa = false
      ∧ (resOf (sSkReq r) r).bad = false ∧ (resOf { sSkReq r with poison := [0x10401] } r).bad = true)
    ∧ (let r := req1 11 emptyKey 0
      let d := drainedOf { sSkReq r with mods := [] } r
      (tableRead d r.pa).2 = false ∧ errIs 1 (classAt d 0 r.pa) = true ∧ (tableRead (drainedOf (sSkReq r) r) r.pa).2 = false
      ∧ (classAt (drainedOf (sSkReq r) r) 0 r.pa).isOk = true ∧ r.arg = emptyKey) := by decide +kernel
/-- sSet with 14 entries counted and slot 3 empty. -/
def sFull : State := { sSet with mem := Memory.writeN (Memory.writeN sSet.mem 0x410008 8 14) (0x410000 + 64 + 48) 8 emptyKey.toNat }
theorem witness_SketchAndTable :
    let f := fun (s : State) (k : Word) => findKey s cls1 k
    (f sSet 0).bad = false ∧ (tableRead sSet (cls1.pa 8)).2 = false ∧ (f sSet 0).slot = some 0
    ∧ tableRead sSet (cls1.pa (64 + 16 * 0 + 8)) = (0, false) ∧ BitVec.ofNat 64 0 = (0 : Word)
    ∧ (f sSet 5).bad = false ∧ (f sSet 5).slot = none ∧ (f sSet 5).free = none
    ∧ (f sFull 5).bad = false ∧ (tableRead sFull (cls1.pa 8)).2 = false ∧ (f sFull 5).slot = none ∧ (f sFull 5).free = some 3
    ∧ 7 * 2 ^ cls1.log2n / 8 ≤ (tableRead sFull (cls1.pa 8)).1 % 2 ^ 32 := by decide +kernel
/-- A ticket of mode mode at a stage, of class 1. -/
def tick1 (mode stage : Nat) : Ticket :=
  { Ticket.new sSet mode 1 1 with num := 0, peer := 1, f := 2, stage := stage, buf := 0x900000 }
/-- sSet with a ticket. -/
def sTick (x : Ticket) : State := (sSet.updMod 0 (fun m => { m with tickets := [x] })).updMe (fun st => { st with tickets := [x.num] })
theorem skclr_gate : ∃ ps u, skclrGate (sSet.setS 2 0x401) 0x410000 0x401 = .ok (ps, u) ∧ skclrRefusal u 0x401 = none ∧ skclrRefusal u 0 = some 8 :=
  ⟨_, _, ok_pr ([], s0) (by decide +kernel), by decide +kernel, by decide +kernel⟩
/-- One read of the hash tables by DIR, with nothing changed by its check. -/
def hashRead (s : State) (p : Nat) (va : Word) : Bool :=
  match checkAccess s p va { kind := .read, prv := some true, tag := false, via := some .atomic } with
  | (.ok x, t) => decide (t = s) && x.dir && decide (s.answers (paModule x.pa) = moduleOf p) && !unreachable s (moduleOf p) x.pa
      && (degradedAt s x.pa).isNone && !(s.tag (granOf x.pa)).corrupt && !(homeRead s x.pa 8).2
  | (.error _, _) => false
theorem hashDword_ok {s : State} {p : Nat} {va : Word} (h : hashRead s p va = true) (pas : List Nat) (ws : List Word) :
    ∃ pa w, hashDword p va (s, pas, .ok ws) = (s, pas ++ [pa], .ok (ws ++ [w])) := by
  unfold hashRead at h
  split at h
  · next x t hx =>
    simp only [Bool.and_eq_true, decide_eq_true_eq, Bool.not_eq_true', Option.isNone_iff_eq_none] at h
    obtain ⟨⟨⟨⟨⟨⟨rfl, hd⟩, ha⟩, hu⟩, hg⟩, hc⟩, hb⟩ := h
    refine ⟨x.pa, BitVec.ofNat 64 (homeRead t x.pa 8).1, ?_⟩
    simp [hashDword, hx, hd, hu, ha, engineTake, serveDegraded, sendFlit, sendMsg, hg, hb, hc]
  · cases h
theorem tableRead_snd (r : TableRead) : (tableDone r).2 = r.2.2 := rfl
theorem readHash_snd (s : State) (p : Nat) (va : Word) :
    (readHash s p va).2 = (hashTables s p va).2.2 := tableRead_snd _
theorem hash_ok {s : State} {p : Nat} {va : Word} (h : ∀ i < 2048, hashRead s p (va + BitVec.ofNat 64 (8 * i)) = true) :
    (readHash s p va).2.isOk = true := by
  have key : ∀ (l : List Nat) (pas : List Nat) (ws : List Word), (∀ i ∈ l, i < 2048) →
      (l.foldl (fun acc i => hashDword p (va + BitVec.ofNat 64 (8 * i)) acc) (s, pas, .ok ws)).2.2.isOk = true := by
    intro l
    induction l with
    | nil => intro _ _ _; rfl
    | cons i l ih =>
      intro pas ws hl
      obtain ⟨pa, w, he⟩ := hashDword_ok (h i (hl i (by simp))) pas ws
      rw [List.foldl_cons, he]
      exact ih _ _ (fun j hj => hl j (by simp [hj]))
  have hr : ∀ i ∈ List.range 2048, i < 2048 := fun i hi => by simpa using hi
  rw [readHash_snd, hashTables]
  generalize List.range 2048 = l at hr ⊢
  exact key l [] [] hr
theorem hash_error {s : State} {p : Nat} {va : Word}
    (h : (checkAccess s p va { kind := .read, prv := some true, tag := false, via := some .atomic }).1.isOk = false) :
    ∃ c, (readHash s p va).2 = .error c := by
  have key : ∀ (l : List Nat) (t : State) (pas : List Nat) (c : Nat),
      (l.foldl (fun acc i => hashDword p (va + BitVec.ofNat 64 (8 * i)) acc) (t, pas, .error c)).2.2 = .error c := by
    intro l t pas c
    induction l with
    | nil => rfl
    | cons i l ih => rw [List.foldl_cons]; exact ih
  obtain ⟨e, u, he⟩ := error_pair h
  refine ⟨e.code, ?_⟩
  rw [readHash_snd, hashTables]
  have hl : ∃ l, List.range 2048 = 0 :: l := ⟨_, List.range_succ_eq_map⟩
  generalize List.range 2048 = l at hl ⊢
  obtain ⟨l, rfl⟩ := hl
  rw [List.foldl_cons]
  have h0 : hashDword p (va + BitVec.ofNat 64 (8 * 0)) (s, [], .ok []) = (u, [], .error e.code) := by simp [hashDword, he]
  rw [h0]
  exact key _ _ _ _
theorem withRoot_same {α : Type} {s : State} {p : Nat} {root : Word} {f : State → State × α} (h : (s.strand p).ptroot = root) :
    withRoot s p root f = f s := by simp [withRoot, h]
theorem witness_ClassClear :
    ((s0With fun st => { st with status := { st.status with prv := false } }).me.status.prv = false ∧ sSet.me.status.prv = true ∧ Straight sSet ∧ Readable sSet [1, 2]
      ∧ ∃ ps u, skclrGate (sSet.setS 2 0x401) 0x410000 0x401 = .ok (ps, u) ∧ skclrRefusal u 0x401 = none ∧ skclrRefusal u 0 = some 8)
    ∧ (let x := tick1 5 0
      ticketAt (sTick x) 0 0 = some x ∧ x.mode = 5 ∧ x.stage ≠ 4
      ∧ (∀ c ∈ (({ sTick x with mods := [] } : State).modl 0).classes, ¬ (c.cls = x.cls ∧ c.gen = x.gen))
      ∧ ((sTick x).modl 0).classes.find? (fun c => c.cls = x.cls ∧ c.gen = x.gen) = some cls1
      ∧ ∃ code, (withRoot (sTick x) x.strand x.root (fun s => readHash s x.strand x.buf)).2 = .error code) :=
  ⟨⟨by decide +kernel, by decide +kernel, by decide +kernel, by decide +kernel, skclr_gate⟩, by decide +kernel, by decide +kernel, by decide +kernel,
    by decide +kernel, by decide +kernel, by rw [withRoot_same (by decide +kernel)]; exact hash_error (by decide +kernel)⟩
/-- The same ticket with hash tables on a page with DIR whose translation stands in the strand's cache. -/
def sHash : State :=
  (s0.updMod 0 (fun m => { m with classes := [cls1], tickets := [{ tick1 5 0 with buf := 0x410000 }], access := [⟨0, 0, 0x1FC0000001F⟩] })).updMe (fun st =>
    { st with tickets := [0], tlb := [⟨0x410000, false, 0x41145F, 0x20208, 0⟩] })
/-- The reads of a quarter of the tables. -/
abbrev QuarterReads (k : Nat) : Prop := ∀ a < 8, ∀ b < 64, hashRead sHash 0 (0x410000 + BitVec.ofNat 64 (8 * (64 * (8 * k + a) + b))) = true
theorem hash_reads_first : QuarterReads 0 := by decide +kernel
theorem hash_reads_second : QuarterReads 1 := by decide +kernel
theorem hash_reads_third : QuarterReads 2 := by decide +kernel
theorem hash_reads_last : QuarterReads 3 := by decide +kernel
theorem hash_reads {k : Nat} (hk : k < 4) : QuarterReads k := by
  obtain rfl | rfl | rfl | rfl : k = 0 ∨ k = 1 ∨ k = 2 ∨ k = 3 := by omega
  · exact hash_reads_first
  · exact hash_reads_second
  · exact hash_reads_third
  · exact hash_reads_last
theorem witness_ClassClear_tables : ticketAt sHash 0 0 = some { tick1 5 0 with buf := 0x410000 } ∧ (sHash.modl 0).classes.find? (fun c => c.cls = 1 ∧ c.gen = 1) = some cls1
    ∧ (withRoot sHash 0 (tick1 5 0).root (fun s => readHash s 0 0x410000)).2.isOk = true := by
  refine ⟨by decide +kernel, by decide +kernel, ?_⟩
  rw [withRoot_same (by decide +kernel)]
  refine hash_ok (fun i hi => ?_)
  have := hash_reads (k := i / 512) (by omega) (i / 64 % 8) (by omega) (i % 64) (by omega)
  rwa [show 64 * (8 * (i / 512) + i / 64 % 8) + i % 64 = i by omega] at this


/-- sSet ready for a reconciliation of fold size 4 with peer 1 or the buffer at 0x400000. -/
def sRecon : State :=
  let s := sSet.updMe (fun st => { st with sksz := 2 })
  { s with mem := Memory.writeN s.mem 0x400000 8 0x102 }
/-- No range. -/
def noGate : (Nat × List Tlb × Nat) × State := ((0, [], 0), s0)
theorem recon_gate : ∀ x ∈ [(0, 1), (1, 0), (2, 1), (3, 0x400000), (4, 0x400000)],
    ∃ g u, reconGate sRecon x.1 0x410000 (BitVec.ofNat 64 x.2) 0x400200 2 = .ok (g, u)
      ∧ (reconClass u x.1 g.1 g.2.2 (BitVec.ofNat 64 x.2)).isOk = (x.1 != 1) := by
  intro x hx
  refine ⟨_, _, ok_pr noGate ?_, ?_⟩ <;> revert x <;> decide +kernel
theorem witness_Reconciliations :
    (Straight sRecon ∧ Readable sRecon [1, 2, 3, 4] ∧ sv sRecon 1 = 0x410000
      ∧ ∀ x ∈ [(0, 1), (1, 0), (2, 1), (3, 0x400000), (4, 0x400000)],
        ∃ g u, reconGate sRecon x.1 0x410000 (BitVec.ofNat 64 x.2) 0x400200 2 = .ok (g, u)
          ∧ (reconClass u x.1 g.1 g.2.2 (BitVec.ofNat 64 x.2)).isOk = (x.1 != 1))
    ∧ (sRecon.me.tickets.contains 0 = false ∧ Straight (sTick (tick1 0 4)) ∧ Readable (sTick (tick1 0 4)) [2] ∧ (sv (sTick (tick1 0 4)) 2).toNat = 0
      ∧ (sTick (tick1 0 4)).me.tickets.contains 0 = true ∧ ticketAt (sTick (tick1 0 4)) 0 0 = some (tick1 0 4) ∧ (tick1 0 4).stage = 4
      ∧ ticketAt (sTick (tick1 0 1)) 0 0 = some (tick1 0 1) ∧ (tick1 0 1).stage ≠ 4) :=
  ⟨⟨by decide +kernel, by decide +kernel, by decide +kernel, recon_gate⟩, by decide +kernel⟩
/-- A ticket beside the class of module 1. -/
def sPeer (x : Ticket) (c : SkClass) : State := (sTick x).updMod 1 (fun m => { m with classes := [c] })
theorem witness_ReconciliationStages :
    (∀ y ∈ [0, 1, 2, 3], let x := tick1 0 y
      ticketAt (sTick x) 0 0 = some x ∧ x.mode ≠ 5 ∧ x.stage < 4 ∧ ticketClass (sTick x) 0 x = some cls1 ∧ ticketClass { sTick x with mods := [] } 0 x = none)
    ∧ (let x := tick1 0 1
      let u := fun (s : State) => sendFlit ((ticketStrand s x).elim s (drainOwn s)) 0 x.peer
      accessesOut (sTick x) 0 x = false ∧ accessesOut { sTick x with homeq := [req1 12 0 0] } 0 x = true
      ∧ ticketClass (u (sTick x)) 0 x = some cls1 ∧ peerClass (u (sTick x)) 0 x = none
      ∧ (∀ q ∈ [cls1, { cls1 with fprint := 1 }, { cls1 with log2m := 1 }, { cls1 with share := 3 }],
        ticketClass (u (sPeer x q)) 0 x = some cls1 ∧ peerClass (u (sPeer x q)) 0 x = some q)
      ∧ (cls1.fprint = cls1.fprint ∧ x.f ≤ cls1.log2m ∧ 4 ≤ cls1.share))
    ∧ (let x := { tick1 0 3 with peel := [(0, 1, true)], phase := 0 }
      let y : Ticket := { x with phase := 9 }
      (tick1 0 3).peel[(tick1 0 3).ix]? = none ∧ x.stage = 3 ∧ x.peel[x.ix]? = some (0, 1, true) ∧ ticketAt (sPeer x cls1) 0 0 = some x
      ∧ ticketClass (sPeer x cls1) 0 x = some cls1 ∧ peerClass (sPeer x cls1) 0 x = some cls1 ∧ (nextApply x).isSome = true
      ∧ nextApply y = none ∧ (applyTable (sPeer x cls1) 0 cls1 13 0 1).bad = false
      ∧ (applyTable { sPeer x cls1 with poison := [0x10401] } 0 cls1 13 0 1).bad = true) := by decide +kernel
/-- A strand at S on the protected page 0x410000 of that group. -/
def sPar (g : PGroup) : State :=
  withGrp (((withLeaf s1 0x200000004100DF).setS 1 0x410000).updMe (fun st => { st with status := { st.status with prv := true } })) g
/-- What survq's check of a state gives. -/
def survOf (s : State) : Acc × State := ⟨accOf (checkAccess s s.cur (sv s 1) survAsk), (checkAccess s s.cur (sv s 1) survAsk).2⟩
/-- A module cut off from member 1, a poisoned input, a stripe held by a seal, and one that is marked. -/
def sCut : State := (sPar (grp 1 255)).updMod 0 (fun m => { m with unreach := [1] })
def sBad : State := { sPar (grp 1 255) with poison := [2 ^ 38 * 2 + 0x10400] }
def sHeld : State := (sPar (grp 1 255)).updMe (fun st => { st with sealing := some (sealMark (grp 1 255) 1) })
def sMarked : State := (sPar (grp 1 255)).updMod 1 (fun m => { m with unsurv := [(2, 1)] })
/-- A state in which no module gives another anything. -/
def shut (s : State) : State := [0, 1, 2, 3].foldl (fun s m => s.updMod m (fun x => { x with access := [] })) s
theorem surv_checks : ∀ s ∈ [s1, sPar (grp 1 255), sPar (grp 2 2), sCut, sBad, sHeld, sMarked],
      (Straight s ∧ Readable s [1] ∧ s.me.status.prv = true) ∧ checkAccess s s.cur (sv s 1) survAsk = (.ok (survOf s).1, (survOf s).2) := by
  intro s hs
  refine ⟨?_, acc_ok ?_⟩ <;> revert s <;> decide +kernel
theorem witness_Survivability :
    (∀ s ∈ [s1, sPar (grp 1 255), sPar (grp 2 2), sCut, sBad, sHeld, sMarked],
      (Straight s ∧ Readable s [1] ∧ s.me.status.prv = true) ∧ checkAccess s s.cur (sv s 1) survAsk = (.ok (survOf s).1, (survOf s).2))
    ∧ (let at_ := fun (s : State) => stripeAt (survOf s).2 (paModule (survOf s).1.pa) ((survOf s).1.pa % 2 ^ 44)
      (survOf s1).1.prot = false ∧ (∀ g ∈ [grp 1 255, grp 2 2], (survOf (sPar g)).1.prot = true ∧ at_ (sPar g) = some (2, g, 1, 0))
      ∧ memberCut (survOf (sPar (grp 1 255))).2 (grp 1 255) = false ∧ memberCut (survOf sCut).2 (grp 1 255) = true
      ∧ (reconstruct (survOf (sPar (grp 1 255))).2 (grp 1 255) 1 1 (64 * 0) 64).2 = false ∧ (reconstruct (survOf sBad).2 (grp 1 255) 1 1 (64 * 0) 64).2 = true
      ∧ sealRefused (survOf (sPar (grp 1 255))).2 (grp 1 255) 1 = none ∧ (sealRefused (shut (survOf (sPar (grp 1 255))).2) (grp 1 255) 1).isSome = true
      ∧ (survOf (sPar (grp 1 255))).2.me.sealing = none ∧ (survOf sHeld).2.me.sealing = some (sealMark (grp 1 255) 1)
      ∧ (survOf sHeld).2.strands.any (fun e => e.2.sealing == some (sealMark (grp 1 255) 1)) = true
      ∧ holderNow (survOf sMarked).2 (grp 1 255) 1 = 1 ∧ ((survOf sMarked).2.modl 1).unsurv.contains (2, 1) = true)
    ∧ (s0With fun st => { st with status := { st.status with prv := false } }).me.status.prv = false
    ∧ 15 < (sv sSet 1).toNat ∧ (sv sSet 3).toNat ≤ 15 :=
  ⟨surv_checks, by decide +kernel⟩
/-- sHeld whose strand joins at a counter in the stripe that the seal holds. -/
def sHeldJoin : State :=
  { sHeld.updMe (fun st => { st with cont := some { cont0 with join := 0x410000 } }) with mem := Memory.writeN sHeld.mem 0x410000 8 2 }
def isWait {α : Type} (r : Res α) : Bool := match r with | .error (.wait _) => true | _ => false
theorem wait_of {α : Type} {r : Res α} (h : isWait r = true) : ∃ w, r = .error (.wait w) := by
  unfold isWait at h
  split at h
  · exact ⟨_, rfl⟩
  · cases h
theorem witness_Done_held : sHeldJoin.me.cont = some { cont0 with join := 0x410000 } ∧ fenceAll sHeldJoin = .ok (fenced sHeldJoin)
    ∧ Readable sHeldJoin [1] ∧ ∃ w, counterRead (fenced sHeldJoin) 0x410000 = .error (.wait w) :=
  ⟨by decide +kernel, ok_of s0 (by decide +kernel), by decide +kernel, wait_of (by decide +kernel)⟩
/-- A delta of group 2's stripe 1 from module 0. -/
def delta1 : Delta := ⟨0, 2, 1, 0, 5, [0], 0⟩
theorem witness_Survivability_due : ∃ d ∈ [delta1, { delta1 with msg := 3 }], ({ sHeld with transit := [3] } : State).arrived d.msg = false :=
  ⟨{ delta1 with msg := 3 }, by decide +kernel⟩
theorem witness_ParityEvents :
    (let s := { sPar (grp 1 255) with deltas := [delta1] }
      let h := holderNow s (grp 1 255) 1
      (s.deltas.drop 0).find? (fun d => s.arrived d.msg && deltaReaches s d) = some delta1
      ∧ (groupsAt s (s.answers 0)).find? (fun e => e.1 = 2) = some (2, grp 1 255)
      ∧ tableAllows s (s.answers 0) (h * 2 ^ 44 + 0x400000 + 1 * 65536 + 0) .atomic = true
      ∧ ¬ (((grp 1 255).state = 2 ∨ ((grp 1 255).state = 3 ∧ (grp 1 255).done ≤ 1)) ∧ 1 % ((grp 1 255).k + 1) = (grp 1 255).lostix)
      ∧ s.poison.contains ((h * 2 ^ 44 + 0x410000) / 64) = false ∧ s.mem.wf = true)
    ∧ (let pa := 2 ^ 44 + 0x420000
      let o : Outbound := ⟨0, pa / 256, [(pa, 7)], [⟨0, pa, 0x420000⟩], false⟩
      let s := { sPar (grp 2 1) with outbound := [o] }
      granOf pa = granOf (pa + 1 - 1) ∧ degradedAt s pa ≠ none
      ∧ s.outbound.find? (fun (o : Outbound) => o.writers.any (fun w => w.strand == 0) && (cellsOf pa 1 7).all (fun c => o.cells.contains c)) = some o)
    ∧ (let s := sPar (grp 3 1)
      (groupsAt s 3).find? (fun e => e.1 = 2) = some (2, grp 3 1) ∧ (grp 3 1).state = 3 ∧ (grp 3 1).repl = 3 ∧ (grp 3 1).done < (grp 3 1).size / 65536
      ∧ rebuildRefused s 3 (grp 3 1) = none ∧ (rebuildRefused (shut s) 3 (grp 3 1)).isSome = true ∧ (groupsAt (shut s) 3).find? (fun e => e.1 = 2) = some (2, grp 3 1)
      ∧ s.mem.wf = true ∧ (grp 3 1).base + (grp 3 1).size ≤ 2 ^ 44 ∧ (∀ ix ≤ 2, s.answers ((grp 3 1).members.getD ix 0) ≠ 3)
      ∧ (s.modl 3).groups.find? (fun e => e.1 = 2) = some (2, grp 3 1)) := by decide +kernel
/-- A delta whose parity row is poisoned, and one whose parity is the lost member's. -/
theorem witness_ParityEvents_marked :
    let s : State := { sPar (grp 1 255) with poison := [(2 ^ 44 + 0x410000) / 64] }
    let l := sPar (grp 2 1)
    (groupsAt s (s.answers 0)).find? (fun e => e.1 = 2) = some (2, grp 1 255) ∧ (cellRead s (holderNow s (grp 1 255) 1 * 2 ^ 44 + 0x410000) 64).2 = true
    ∧ tableAllows s (s.answers 0) (holderNow s (grp 1 255) 1 * 2 ^ 44 + 0x410000) .atomic = true
    ∧ (groupsAt l (l.answers 0)).find? (fun e => e.1 = 2) = some (2, grp 2 1) ∧ (grp 2 1).state = 2 ∧ 1 % ((grp 2 1).k + 1) = (grp 2 1).lostix := by
  decide +kernel
/-- Three descriptors of group tables at 0x410000: one of STATE 0, one that is valid and one with K below 2. -/
def sTable : State :=
  let mem := Memory.writeN s0.mem 0x410040 64 (0x020100 + (0x00FF0102 + 0x400000 * 2 ^ 64 + 0x30000 * 2 ^ 128) * 2 ^ 128)
  { s0 with mem := Memory.writeN mem 0x410080 64 (0x0100 + (0x00FF0101 + 0x500000 * 2 ^ 64 + 0x20000 * 2 ^ 128) * 2 ^ 128) }
theorem witness_GroupTable : let d := fun (i : Nat) => descOf (sTable.mem.readN (0x410000 + 64 * i) 64)
    (0x410001 &&& 0x000FFFFFFFFFFC01 &&& 0x000FFFFFFFFFFC00 : Word).toNat = 0x410000 ∧ (d 0).state = 0 ∧ Claim.DescValid sTable 0 0x410000 1
    ∧ ¬ ((d 2).state = 0 ∨ Claim.DescValid sTable 0 0x410000 2) := by
  refine ⟨by decide, by decide +kernel, ?_, ?_⟩
  · unfold Claim.DescValid; dsimp only
    and_intros <;> decide +kernel
  · rintro (h | ⟨-, -, h, -⟩) <;> revert h <;> decide +kernel

/-! ### Rinse, the pager, the management controller and the invariant -/

/-- A state in which module 0's bank 5 has a re-encoding at a stage. -/
def sRe (n : Nat) : State := s0.updMod 0 (fun m => { m with rinse := { m.rinse with reenc := [(5, ⟨n, 0, []⟩)] } })
theorem witness_MemoryUpkeep :
    areaOf 0xF0000000000 = .mailbox ∧ areaOf (2 ^ 43) = .nothing ∧ areaOf 0x400000 ≠ .nothing ∧ areaOf 0x400000 ≠ .mailbox
    ∧ (mget .none ((sRe 1).modl 0).rinse.reenc 5).state = 1 ∧ (mget .none ((sRe 2).modl 0).rinse.reenc 5).state = 2
    ∧ 0 ∉ (mget .none ((sRe 2).modl 0).rinse.reenc 5).rows
    ∧ (let h : State := { s1 with gap := [(0x4000, 1)], homeq := [⟨0, 7, some 5, none, 1, 8, 0x400040, 0x400040, 0x40FFFF, 5, false, false, 1, 0, 0⟩] }
      eventHeld s1 0x400000 = false ∧ eventHeld h 0x400000 = true)
    ∧ s1.mem.wf = true ∧ (∀ e ∈ s1.cores, e.2.wcb = []) ∧ s1.merges = [] ∧ s1.outbound = [] := by decide +kernel
theorem witness_MemoryUpkeep_row : 0 < Config.bankRows := Nat.succ_pos _
/-- The stripe of an address at a module's controllers. -/
def stripeOf (s : State) (pa : Nat) : Option (Nat × PGroup × Nat × Nat) := stripeAt s (paModule (knownAs s pa)) (knownAs s pa % 2 ^ 44)
theorem witness_MemoryUpkeep_scrub :
    let s := sPar (grp 1 255)
    let r := fun (s : State) => reconstruct (foldStripe s 2 1) (grp 1 255) (memberIx (grp 1 255) (paModule (knownAs s 0x410000))) 1 0 64
    stripeOf s1 0x400000 = none ∧ stripeOf s 0x410000 = some (2, grp 1 255, 1, 0) ∧ stripeOf s (2 ^ 44 + 0x410000) = some (2, grp 1 255, 1, 0)
    ∧ stripeOf sBad 0x410000 = some (2, grp 1 255, 1, 0) ∧ stripeOf (sPar (grp 2 2)) 0x410000 = some (2, grp 2 2, 1, 0)
    ∧ memberIx (grp 1 255) (paModule (knownAs s (2 ^ 44 + 0x410000))) = 1 % 3 ∧ memberIx (grp 1 255) (paModule (knownAs s 0x410000)) ≠ 1 % 3
    ∧ (r s).2 = false ∧ (r sBad).2 = true ∧ s.mem.wf = true ∧ retiredAt s 0x400000 = false := by decide +kernel
/-- The frame that a bank under re-encoding has retired. -/
theorem witness_MemoryUpkeep_retired : retiredAt (sRe 2) ((Config.retiredFrame 5).toNat * 65536) = true := by
  have h := (Config.retiredFrame 5).isLt
  generalize hf : (Config.retiredFrame 5).toNat = f at h ⊢
  have hm : paModule (f * 65536) = 0 := by unfold paModule; omega
  have ho : f * 65536 % 2 ^ 44 / 65536 = f := by omega
  have hr : ((sRe 2).modl 0).rinse.reenc = [(5, ⟨2, 0, []⟩)] := by decide
  simp only [retiredAt, hm, ho, hr, Config.retiredFrames, hf, List.any_cons, List.contains_cons, BEq.rfl, Bool.true_or, Nat.le_refl, decide_true, Bool.and_self]
theorem witness_PatrolPolicy : 1 ≤ 1 ∧ 168 ≤ 168 ∧ 16 ≤ 16 ∧ 65535 ≤ 65535 := by decide
/-- A state in which module 0's controller runs its firmware, with f on its state. -/
def sMgmt (f : Mgmt → Mgmt) : State := s0.updMod 0 (fun m => { m with mgmt := f { m.mgmt with boot := 2 } })
/-- An image that the fused key's holder has signed, or one that does not read. -/
def image (readable : Bool) (version : Nat) : BootImage := ⟨readable, [1, 2], [3], Config.slhDsaSign [3] [1, 2], version⟩
theorem witness_Boot_runs :
    let s := sMgmt fun g => { g with minVersion := 3, fuses := { g.fuses with keyHash := Config.keyHash [3] } }
    let i := image true 3
    i.readable = true ∧ Config.keyHash i.key = (s.modl 0).mgmt.fuses.keyHash ∧ Config.slhDsaVerify i.key i.bytes i.signature = true
    ∧ (s.modl 0).mgmt.minVersion ≤ i.version :=
  ⟨rfl, rfl, by simp [image, Config.slhDsaVerify], by decide⟩
theorem witness_Boot :
    let s := sMgmt fun g => { g with minVersion := 3 }
    ¬ ((s.modl 0).mgmt.minVersion ≤ (image true 2).version) ∧ (image false 3).readable = false
    ∧ (s.modl 0).mgmt.boot = 2 ∧ (s.modl 0).mgmt.released = false ∧ 5 < 6 ∧ 1023 < 1024 ∧ moduleOf 383 = 0 ∧ moduleOf 384 = 1 := by decide +kernel
/-- A request of command c with operand v in module 0's mailbox, rung. -/
def sRung (c v : Nat) : State :=
  let s := sMgmt id
  { s with mem := Memory.writeN (Memory.writeN (Memory.writeN s.mem (mboxAt 0 0) 1 1) (mboxAt 0 0x100) 1 c) (mboxAt 0 0x108) 8 v }
/-- That request taken by the controller. -/
def sCmd (c v : Nat) : State := (sRung c v).updMgmt 0 (fun g => { g with cmd := some c, asker := 256 })
theorem witness_Mailbox :
    (∀ c ∈ [0, 1, 2, 3, 4, 5, 6, 7, 8], ((sRung c 0).modl 0).mgmt.boot = 2 ∧ ((sRung c 0).modl 0).mgmt.cmd = none
      ∧ (sRung c 0).mem.readN (mboxAt 0 0) 1 = 1 ∧ requestN (sRung c 0) 0 0 1 = c ∧ ((sCmd c 0).modl 0).mgmt.cmd = some c)
    ∧ (s0.modl 0).mgmt.boot = 0 ∧ (sMgmt id).mem.readN (mboxAt 0 0) 1 ≠ 1
    ∧ (let s := (sRung 3 0).updMgmt 0 (fun g => { g with boot := 1 })
      (s.modl 0).mgmt.boot = 1 ∧ ¬ (pcieEp = pcieEp ∧ (requestN s 0 0 1 = 1 ∨ requestN s 0 0 1 = 2)))
    ∧ (∀ c ∈ [3, 4], haltedStrand ((sCmd c 0).updMe (fun st => { st with run := .halted })) 0 = some 0)
    ∧ (requestN (sCmd 3 0) 0 16 8 = 0 ∧ requestN { sCmd 3 0 with mem := Memory.writeN (sCmd 3 0).mem (mboxAt 0 0x110) 8 32 } 0 16 8 = 31 + 1)
    ∧ ((0x12 : Nat) = 0x12 ∧ 0x99 ∉ [0x81, 0x82, 0x83, 0x84, 0xE0, 0xE1, 0xE3, 0xE4, 0xE5] ∧ 1 ≤ 4)
    ∧ (∀ w ∈ [1200, 3300], requestN (sCmd 5 w) 0 8 8 = w) ∧ requestN (sCmd 5 1199) 0 8 8 = 1199
    ∧ (let s := (sCmd 7 0).updMod 0 (fun m => { m with access := [⟨5, 256, 0x10⟩] })
      (s.modl 0).mgmt.boot = 2 ∧ (s.modl 0).mgmt.asker < 1024 ∧ (accessEntry s 0 5 (s.modl 0).mgmt.asker).getLsbD 4 = true)
    ∧ (s0.mem.wf = true ∧ (∀ b ∈ [255, 0], b < 256) ∧ [255, 0].length ≤ 4096) := by decide +kernel
theorem witness_Thermal : areaOf 0x400000 = .die 0 ∧ paModule 0x400000 = 0 ∧ moduleOf s0.cur = 0 ∧ (s0.modl 0).log.length < 4096 ∧ 0 ∈ s0.strands.map (·.1) ∧ moduleOf 384 ≠ 0 := by decide
theorem witness_StepKeepsInvariant : ∃ t, let s : State := { s0 with sched := [.strand 0] }
    s.Inv ∧ step s = .next t := by
  have h : (match step { s0 with sched := [.strand 0] } with | .next t => t.me.pc == 0x400004 | _ => false) = true := by decide +kernel
  split at h
  · next t ht => exact ⟨t, ⟨⟨by decide +kernel, fun _ he => by cases he⟩, fun _ he => (by cases he), fun _ he => by cases he⟩, ht⟩
  · cases h

end Sys2Proof.Tests
end

section
/-! ## Words and fields (02 R35 to R39): what each field reads from the words the encoder writes -/
namespace Sys2Proof
open BitVec

@[simp] theorem getLsbD_bit1_zero (b : Bool) : (bit1 b).getLsbD 0 = b := by cases b <;> rfl

/-! ### The head -/

@[simp] theorem headMaj_mkHead {maj : Nat} (tl : Nat) (q : Bool) (d : Reg) (hmaj : maj < 128) : headMaj (mkHead maj tl q d) = maj := by
  simp [-Nat.reduceAdd, headMaj, mkHead, extractLsb'_append_eq_of_le, extractLsb'_eq_self, Nat.mod_eq_of_lt hmaj]
@[simp] theorem headTl_mkHead (maj : Nat) {tl : Nat} (q : Bool) (d : Reg) (htl : tl < 8) : headTl (mkHead maj tl q d) = tl := by
  simp [-Nat.reduceAdd, headTl, mkHead, extractLsb'_append_eq_of_le, extractLsb'_append_eq_of_add_le, extractLsb'_eq_self, Nat.mod_eq_of_lt htl]
@[simp] theorem headQ_mkHead (maj tl : Nat) (q : Bool) (d : Reg) : headQ (mkHead maj tl q d) = q := by
  simp only [headQ, mkHead, getLsbD_append, Nat.reduceLT, reduceIte, Nat.reduceSub, getLsbD_bit1_zero]
@[simp] theorem headD_mkHead (maj tl : Nat) (q : Bool) (d : Reg) : headD (mkHead maj tl q d) = d := by
  simp [-Nat.reduceAdd, headD, mkHead, extractLsb'_append_eq_of_add_le, extractLsb'_eq_self]

/-! ### The operand halfword -/

section
variable (b : Reg) (fb : Bool) (c : Reg) (fc : Bool) (m : BitVec 4)

@[simp] theorem oB_mkO : oB (mkO b fb c fc m) = b := by
  simp [-Nat.reduceAdd, oB, mkO, extractLsb'_append_eq_of_le, extractLsb'_eq_self]
@[simp] theorem oFb_mkO : oFb (mkO b fb c fc m) = fb := by
  simp only [oFb, mkO, getLsbD_append, Nat.reduceLT, reduceIte, Nat.reduceSub, getLsbD_bit1_zero]
@[simp] theorem oC_mkO : oC (mkO b fb c fc m) = c := by
  simp [-Nat.reduceAdd, oC, mkO, extractLsb'_append_eq_of_le, extractLsb'_append_eq_of_add_le, extractLsb'_eq_self]
@[simp] theorem oFc_mkO : oFc (mkO b fb c fc m) = fc := by
  simp only [oFc, mkO, getLsbD_append, Nat.reduceLT, reduceIte, Nat.reduceSub, getLsbD_bit1_zero]
@[simp] theorem oM_mkO : oM (mkO b fb c fc m) = m := by
  simp [-Nat.reduceAdd, oM, mkO, extractLsb'_append_eq_of_add_le, extractLsb'_eq_self]

end

/-! ### A register and its F bit (06 R104, 07 R131, 10 R207, 17 R298) -/

section
variable (r : Reg) (f : Bool)

@[simp] theorem oB_regWord : oB (r ++ bit1 f ++ 0#10) = r := by
  simp [-Nat.reduceAdd, oB, extractLsb'_append_eq_of_le, extractLsb'_eq_self]
@[simp] theorem oFb_regWord : oFb (r ++ bit1 f ++ 0#10) = f := by
  simp only [oFb, getLsbD_append, Nat.reduceLT, reduceIte, Nat.reduceSub, getLsbD_bit1_zero]

end

/-! ### Modifier bits of the low four bits of O (06 R107, R109, 17 R297, 19 R331) -/

section
variable (p q : Bool) (z : BitVec 2) (l : BitVec 3)

@[simp] theorem bit0_flagLow : (0#3 ++ bit1 p : BitVec 4)[0] = p := by
  simp only [← getLsbD_eq_getElem, getLsbD_append, Nat.reduceLT, reduceIte, getLsbD_bit1_zero]
@[simp] theorem low2_low : (0#2 ++ z : BitVec 4).extractLsb' 0 2 = z := by
  simp [-Nat.reduceAdd, extractLsb'_append_eq_of_add_le, extractLsb'_eq_self]
@[simp] theorem high2_low : (0#2 ++ z : BitVec 4).extractLsb' 2 2 = 0#2 := by
  simp [-Nat.reduceAdd, extractLsb'_append_eq_of_le]
@[simp] theorem high2_high : (z ++ 0#2 : BitVec 4).extractLsb' 2 2 = z := by
  simp [-Nat.reduceAdd, extractLsb'_append_eq_of_le, extractLsb'_eq_self]
@[simp] theorem low2_modifiers : (bit1 p ++ bit1 q ++ z : BitVec 4).extractLsb' 0 2 = z := by
  simp [-Nat.reduceAdd, extractLsb'_append_eq_of_add_le, extractLsb'_eq_self]
@[simp] theorem bit2_modifiers : (bit1 p ++ bit1 q ++ z : BitVec 4)[2] = q := by
  simp only [← getLsbD_eq_getElem, getLsbD_append, Nat.reduceLT, reduceIte, Nat.reduceSub, getLsbD_bit1_zero]
@[simp] theorem bit3_modifiers : (bit1 p ++ bit1 q ++ z : BitVec 4)[3] = p := by
  simp only [← getLsbD_eq_getElem, getLsbD_append, Nat.reduceLT, reduceIte, Nat.reduceSub, getLsbD_bit1_zero]
@[simp] theorem low2_zeroModifier : (0#1 ++ bit1 q ++ z : BitVec 4).extractLsb' 0 2 = z := by
  simp [-Nat.reduceAdd, extractLsb'_append_eq_of_add_le, extractLsb'_eq_self]
@[simp] theorem bit2_zeroModifier : (0#1 ++ bit1 q ++ z : BitVec 4)[2] = q := by
  simp only [← getLsbD_eq_getElem, getLsbD_append, Nat.reduceLT, reduceIte, Nat.reduceSub, getLsbD_bit1_zero]
@[simp] theorem toNat_level : (0#1 ++ l : BitVec 4).toNat = l.toNat := by
  simp [-Nat.reduceAdd, toNat_append]
@[simp] theorem low3_level : (0#1 ++ l : BitVec 4).extractLsb' 0 3 = l := by
  simp [-Nat.reduceAdd, extractLsb'_append_eq_of_add_le, extractLsb'_eq_self]

end

/-! ### Short register numbers in a register field -/

section
variable (x : BitVec 3) (a : BitVec 1) (z : BitVec 2)

@[simp] theorem lo3_r3 : lo3 (r3 x) = x := by
  simp [-Nat.reduceAdd, lo3, r3, extractLsb'_append_eq_of_add_le, extractLsb'_eq_self]
@[simp] theorem lo1_r1 : lo1 (r1 a) = a := by
  simp [-Nat.reduceAdd, lo1, r1, extractLsb'_append_eq_of_add_le, extractLsb'_eq_self]
@[simp] theorem low2_reg : (0#3 ++ z : Reg).extractLsb' 0 2 = z := by
  simp [-Nat.reduceAdd, extractLsb'_append_eq_of_add_le, extractLsb'_eq_self]

end

/-! ### Tail 1 of a bit field and of an atomic (06 R104, 15 R266) -/

section
variable (p q : Bool) (u v : BitVec 6)

@[simp] theorem lenm1_extWord : (0#4 ++ u ++ v : Half).extractLsb' 6 6 = u := by
  simp [-Nat.reduceAdd, extractLsb'_append_eq_of_le, extractLsb'_append_eq_of_add_le, extractLsb'_eq_self]
@[simp] theorem pos_extWord : (0#4 ++ u ++ v : Half).extractLsb' 0 6 = v := by
  simp [-Nat.reduceAdd, extractLsb'_append_eq_of_add_le, extractLsb'_eq_self]
@[simp] theorem acq_amoWord : (0#13 ++ bit1 p ++ 1#1 ++ bit1 q : Half)[2] = p := by
  simp only [← getLsbD_eq_getElem, getLsbD_append, Nat.reduceLT, reduceIte, Nat.reduceSub, getLsbD_bit1_zero]
@[simp] theorem szd_amoWord : (0#13 ++ bit1 p ++ 1#1 ++ bit1 q : Half)[0] = q := by
  simp only [← getLsbD_eq_getElem, getLsbD_append, Nat.reduceLT, reduceIte, getLsbD_bit1_zero]

end

/-! ### Checkpoints, loop entries and stream masks (07 R122 to R126, 17 R296) -/

section
variable (b : Reg) (fb ckv : Bool) (cki : BitVec 9) (lv : BitVec 3) (m : BitVec 4) (qm : BitVec 8)

@[simp] theorem oB_mkCk : oB (mkCk b fb ckv cki) = b := by
  simp [-Nat.reduceAdd, oB, mkCk, extractLsb'_append_eq_of_le, extractLsb'_eq_self]
@[simp] theorem oFb_mkCk : oFb (mkCk b fb ckv cki) = fb := by
  simp only [oFb, mkCk, getLsbD_append, Nat.reduceLT, reduceIte, Nat.reduceSub, getLsbD_bit1_zero]
@[simp] theorem ckv_mkCk : (mkCk b fb ckv cki)[9] = ckv := by
  simp only [← getLsbD_eq_getElem, mkCk, getLsbD_append, Nat.reduceLT, reduceIte, Nat.reduceSub, getLsbD_bit1_zero]
@[simp] theorem oI_mkCk : oI (mkCk b fb ckv cki) = cki := by
  simp [-Nat.reduceAdd, oI, mkCk, extractLsb'_append_eq_of_add_le, extractLsb'_eq_self]
@[simp] theorem oI_ckiWord : oI (0#7 ++ cki) = cki := by
  simp [-Nat.reduceAdd, oI, extractLsb'_append_eq_of_add_le, extractLsb'_eq_self]
@[simp] theorem lv_loopWord : (0#8 ++ lv ++ 0#1 ++ m : Half).extractLsb' 5 3 = lv := by
  simp [-Nat.reduceAdd, extractLsb'_append_eq_of_le, extractLsb'_append_eq_of_add_le, extractLsb'_eq_self]
@[simp] theorem oM_loopWord : oM (0#8 ++ lv ++ 0#1 ++ m) = m := by
  simp [-Nat.reduceAdd, oM, extractLsb'_append_eq_of_add_le, extractLsb'_eq_self]
@[simp] theorem qm_stripWord : (qm ++ 0#8 : Half).extractLsb' 8 8 = qm := by
  simp [-Nat.reduceAdd, extractLsb'_append_eq_of_le, extractLsb'_eq_self]

end

/-! ### System register numbers, selectors and levels (07 R131, 14 R249, 17 R303) -/

section
variable (num : BitVec 12) (l : Reg) (fl : Bool) (lvl : BitVec 3) (m : BitVec 4)

@[simp] theorem num_sysWord : (num ++ m : Half).extractLsb' 4 12 = num := by
  simp [-Nat.reduceAdd, extractLsb'_append_eq_of_le, extractLsb'_eq_self]
@[simp] theorem oM_append : oM (num ++ m) = m := by
  simp [-Nat.reduceAdd, oM, extractLsb'_append_eq_of_add_le, extractLsb'_eq_self]
@[simp] theorem oB_mkLvl : oB (mkLvl l fl lvl m) = l := by
  simp [-Nat.reduceAdd, oB, mkLvl, extractLsb'_append_eq_of_le, extractLsb'_eq_self]
@[simp] theorem oFb_mkLvl : oFb (mkLvl l fl lvl m) = fl := by
  simp only [oFb, mkLvl, getLsbD_append, Nat.reduceLT, reduceIte, Nat.reduceSub, getLsbD_bit1_zero]
@[simp] theorem oLvl_mkLvl : oLvl (mkLvl l fl lvl m) = lvl := by
  simp [-Nat.reduceAdd, oLvl, mkLvl, extractLsb'_append_eq_of_le, extractLsb'_append_eq_of_add_le, extractLsb'_eq_self]
@[simp] theorem oM_mkLvl : oM (mkLvl l fl lvl m) = m := by
  simp [-Nat.reduceAdd, oM, mkLvl, extractLsb'_append_eq_of_add_le, extractLsb'_eq_self]

end

/-! ### Vector halfwords (09 R156, R166, 10 R196, R201, R209, R210) -/

section
variable (km : BitVec 3) (a : Reg) (fa adv p q : Bool) (xf : BitVec 7) (sc : BitVec 2) (tag m : BitVec 4)

@[simp] theorem oTop3_mkX : oTop3 (mkX km a fa xf) = km := by
  simp [-Nat.reduceAdd, oTop3, mkX, extractLsb'_append_eq_of_le, extractLsb'_eq_self]
@[simp] theorem xA_mkX : xA (mkX km a fa xf) = a := by
  simp [-Nat.reduceAdd, xA, mkX, extractLsb'_append_eq_of_le, extractLsb'_append_eq_of_add_le, extractLsb'_eq_self]
@[simp] theorem xFa_mkX : xFa (mkX km a fa xf) = fa := by
  simp only [xFa, mkX, getLsbD_append, Nat.reduceLT, reduceIte, Nat.reduceSub, getLsbD_bit1_zero]
@[simp] theorem xXf_mkX : xXf (mkX km a fa xf) = xf := by
  simp [-Nat.reduceAdd, xXf, mkX, extractLsb'_append_eq_of_add_le, extractLsb'_eq_self]
@[simp] theorem init_redXf : (0#6 ++ bit1 p : BitVec 7)[0] = p := by
  simp only [← getLsbD_eq_getElem, getLsbD_append, Nat.reduceLT, reduceIte, getLsbD_bit1_zero]
@[simp] theorem init_scanXf : (0#5 ++ bit1 p ++ bit1 q : BitVec 7)[0] = q := by
  simp only [← getLsbD_eq_getElem, getLsbD_append, Nat.reduceLT, reduceIte, getLsbD_bit1_zero]
@[simp] theorem excl_scanXf : (0#5 ++ bit1 p ++ bit1 q : BitVec 7)[1] = p := by
  simp only [← getLsbD_eq_getElem, getLsbD_append, Nat.reduceLT, reduceIte, Nat.reduceSub, getLsbD_bit1_zero]
@[simp] theorem k_unpkXf : (0#3 ++ bit1 p ++ km : BitVec 7).extractLsb' 0 3 = km := by
  simp [-Nat.reduceAdd, extractLsb'_append_eq_of_add_le, extractLsb'_eq_self]
@[simp] theorem sx_unpkXf : (0#3 ++ bit1 p ++ km : BitVec 7)[3] = p := by
  simp only [← getLsbD_eq_getElem, getLsbD_append, Nat.reduceLT, reduceIte, Nat.reduceSub, getLsbD_bit1_zero]
@[simp] theorem oTop3_mkV : oTop3 (mkV km adv sc) = km := by
  simp [-Nat.reduceAdd, oTop3, mkV, extractLsb'_append_eq_of_le, extractLsb'_eq_self]
@[simp] theorem vAdv_mkV : vAdv (mkV km adv sc) = adv := by
  simp only [vAdv, mkV, getLsbD_append, Nat.reduceLT, reduceIte, Nat.reduceSub, getLsbD_bit1_zero]
@[simp] theorem vSc_mkV : vSc (mkV km adv sc) = sc := by
  simp [-Nat.reduceAdd, vSc, mkV, extractLsb'_append_eq_of_le, extractLsb'_append_eq_of_add_le, extractLsb'_eq_self]
@[simp] theorem oB_tagWord : oB (a ++ tag ++ 0#3 ++ m) = a := by
  simp [-Nat.reduceAdd, oB, extractLsb'_append_eq_of_le, extractLsb'_eq_self]
@[simp] theorem tag_tagWord : (a ++ tag ++ 0#3 ++ m : Half).extractLsb' 7 4 = tag := by
  simp [-Nat.reduceAdd, extractLsb'_append_eq_of_le, extractLsb'_append_eq_of_add_le, extractLsb'_eq_self]
@[simp] theorem oM_tagWord : oM (a ++ tag ++ 0#3 ++ m) = m := by
  simp [-Nat.reduceAdd, oM, extractLsb'_append_eq_of_add_le, extractLsb'_eq_self]

end

/-! ### The operand halfword of STRM (10 R201) -/

section
variable (q : BitVec 3) (esz : BitVec 2) (out : Bool) (c : Reg) (fc : Bool) (m : BitVec 4)

@[simp] theorem oTop3_strmWord : oTop3 (q ++ esz ++ bit1 out ++ c ++ bit1 fc ++ m) = q := by
  simp [-Nat.reduceAdd, oTop3, extractLsb'_append_eq_of_le, extractLsb'_eq_self]
@[simp] theorem esz_strmWord : (q ++ esz ++ bit1 out ++ c ++ bit1 fc ++ m : Half).extractLsb' 11 2 = esz := by
  simp [-Nat.reduceAdd, extractLsb'_append_eq_of_le, extractLsb'_append_eq_of_add_le, extractLsb'_eq_self]
@[simp] theorem out_strmWord : (q ++ esz ++ bit1 out ++ c ++ bit1 fc ++ m : Half)[10] = out := by
  simp only [← getLsbD_eq_getElem, getLsbD_append, Nat.reduceLT, reduceIte, Nat.reduceSub, getLsbD_bit1_zero]
@[simp] theorem oC_strmWord : oC (q ++ esz ++ bit1 out ++ c ++ bit1 fc ++ m) = c := by
  simp [-Nat.reduceAdd, oC, extractLsb'_append_eq_of_le, extractLsb'_append_eq_of_add_le, extractLsb'_eq_self]
@[simp] theorem oFc_strmWord : oFc (q ++ esz ++ bit1 out ++ c ++ bit1 fc ++ m) = fc := by
  simp only [oFc, getLsbD_append, Nat.reduceLT, reduceIte, Nat.reduceSub, getLsbD_bit1_zero]
@[simp] theorem oM_strmWord : oM (q ++ esz ++ bit1 out ++ c ++ bit1 fc ++ m) = m := by
  simp [-Nat.reduceAdd, oM, extractLsb'_append_eq_of_add_le, extractLsb'_eq_self]

end

/-! ### Matrix halfwords (12 R231, R234) -/

section
variable (b : Reg) (fb mem adv z : Bool) (sw c : BitVec 2) (f : BitVec 3) (m : BitVec 4)

@[simp] theorem oB_mkTile : oB (mkTile b fb sw mem adv m) = b := by
  simp [-Nat.reduceAdd, oB, mkTile, extractLsb'_append_eq_of_le, extractLsb'_eq_self]
@[simp] theorem oFb_mkTile : oFb (mkTile b fb sw mem adv m) = fb := by
  simp only [oFb, mkTile, getLsbD_append, Nat.reduceLT, reduceIte, Nat.reduceSub, getLsbD_bit1_zero]
@[simp] theorem sw_mkTile : (mkTile b fb sw mem adv m).extractLsb' 8 2 = sw := by
  simp [-Nat.reduceAdd, mkTile, extractLsb'_append_eq_of_le, extractLsb'_append_eq_of_add_le, extractLsb'_eq_self]
@[simp] theorem mem_mkTile : (mkTile b fb sw mem adv m)[7] = mem := by
  simp only [← getLsbD_eq_getElem, mkTile, getLsbD_append, Nat.reduceLT, reduceIte, Nat.reduceSub, getLsbD_bit1_zero]
@[simp] theorem adv_mkTile : (mkTile b fb sw mem adv m)[6] = adv := by
  simp only [← getLsbD_eq_getElem, mkTile, getLsbD_append, Nat.reduceLT, reduceIte, Nat.reduceSub, getLsbD_bit1_zero]
@[simp] theorem oM_mkTile : oM (mkTile b fb sw mem adv m) = m := by
  simp [-Nat.reduceAdd, oM, mkTile, extractLsb'_append_eq_of_add_le, extractLsb'_eq_self]
@[simp] theorem oB_mkWl : oB (mkWl b f z c m) = b := by
  simp [-Nat.reduceAdd, oB, mkWl, extractLsb'_append_eq_of_le, extractLsb'_eq_self]
@[simp] theorem oFmt_mkWl : oFmt (mkWl b f z c m) = f := by
  simp [-Nat.reduceAdd, oFmt, mkWl, extractLsb'_append_eq_of_le, extractLsb'_append_eq_of_add_le, extractLsb'_eq_self]
@[simp] theorem z_mkWl : (mkWl b f z c m)[7] = z := by
  simp only [← getLsbD_eq_getElem, mkWl, getLsbD_append, Nat.reduceLT, reduceIte, Nat.reduceSub, getLsbD_bit1_zero]
@[simp] theorem c_mkWl : (mkWl b f z c m).extractLsb' 4 2 = c := by
  simp [-Nat.reduceAdd, mkWl, extractLsb'_append_eq_of_le, extractLsb'_append_eq_of_add_le, extractLsb'_eq_self]
@[simp] theorem oM_mkWl : oM (mkWl b f z c m) = m := by
  simp [-Nat.reduceAdd, oM, mkWl, extractLsb'_append_eq_of_add_le, extractLsb'_eq_self]

end

/-! ### Values split over tail halfwords (02 R39, 06 R106) -/

@[simp] theorem halves_append (v : BitVec 32) : (extractLsb' 16 16 v ++ extractLsb' 0 16 v : BitVec 32) = v :=
  (extractLsb'_append_extractLsb'_eq_extractLsb' rfl).trans extractLsb'_eq_self
@[simp] theorem quarters_append (v : BitVec 64) :
    (extractLsb' 48 16 v ++ extractLsb' 32 16 v ++ extractLsb' 16 16 v ++ extractLsb' 0 16 v : BitVec 64) = v := by
  rw [extractLsb'_append_extractLsb'_eq_extractLsb' (start₂ := 48) (start₁ := 32) rfl,
    extractLsb'_append_extractLsb'_eq_extractLsb' (start₂ := 32) (start₁ := 16) rfl,
    extractLsb'_append_extractLsb'_eq_extractLsb' (start₂ := 16) (start₁ := 0) rfl]
  exact extractLsb'_eq_self

end Sys2Proof
end

section
/-! ## Immediates and displacements (02 R39), and the parser a major selects (02 R42) -/
namespace Sys2Proof

@[simp] theorem parseImm_immHalves (i : Imm) : parseImm (immHalves i) = some i := by
  cases i with
  | short v => rfl
  | long v => simp [immHalves, parseImm, halves_append]
@[simp] theorem parseDisp_dispHalves (d : Option (BitVec 16)) : parseDisp (dispHalves d) = some d := by cases d <;> rfl
theorem immLen_fits (i : Imm) (o : Half) : 1 + immLen i = (o :: immHalves i).length ∧ 1 + immLen i < 8 := by
  cases i <;> simp [immLen, immHalves]
theorem dispLen_fits (d : Option (BitVec 16)) (o x : Half) :
    2 + dispLen d = (o :: x :: dispHalves d).length ∧ 2 + dispLen d < 8 := by
  cases d <;> simp [dispLen, dispHalves]

section
variable {maj : Nat} (q : Bool) (d : Reg) (t : List Half)

theorem parse_int (h : maj ∈ [0x01, 0x02, 0x03, 0x04, 0x05]) : parse maj q d t = parseInt maj q d t := by
  simp only [List.mem_cons, List.not_mem_nil, or_false] at h
  rcases h with rfl | rfl | rfl | rfl | rfl <;> rfl
theorem parse_mem (h : maj ∈ [0x07, 0x10, 0x11, 0x12, 0x13, 0x14]) (o : Half) : parse maj q d [o] = parseMem maj d o none := by
  simp only [List.mem_cons, List.not_mem_nil, or_false] at h
  rcases h with rfl | rfl | rfl | rfl | rfl | rfl <;> rfl
theorem parse_memDisp (h : maj ∈ [0x07, 0x10, 0x11, 0x12, 0x13, 0x14]) (o : Half) (i : Imm) :
    parse maj q d (o :: immHalves i) = parseMem maj d o (some i) := by
  simp only [List.mem_cons, List.not_mem_nil, or_false] at h
  cases i with
  | short v => rcases h with rfl | rfl | rfl | rfl | rfl | rfl <;> rfl
  | long v => rcases h with rfl | rfl | rfl | rfl | rfl | rfl <;> simp [parse, immHalves, parseImm]
theorem parse_amo (h : maj ∈ [0x18, 0x19, 0x1A]) : parse maj q d t = parseAmo maj d t := by
  simp only [List.mem_cons, List.not_mem_nil, or_false] at h
  rcases h with rfl | rfl | rfl <;> rfl
theorem parse_ctl (h : maj ∈ [0x20, 0x21, 0x22, 0x23, 0x24, 0x25, 0x26, 0x27, 0x28, 0x78, 0x79, 0x7A]) : parse maj q d t = parseCtl maj q d t := by
  simp only [List.mem_cons, List.not_mem_nil, or_false] at h
  rcases h with rfl | rfl | rfl | rfl | rfl | rfl | rfl | rfl | rfl | rfl | rfl | rfl <;> rfl
theorem parse_turn (h : maj ∈ [0x30, 0x31, 0x32, 0x33, 0x34, 0x7C]) (o : Half) : parse maj q d [o] = parseTurn maj q d o := by
  simp only [List.mem_cons, List.not_mem_nil, or_false] at h
  rcases h with rfl | rfl | rfl | rfl | rfl | rfl <;> rfl
theorem parse_sched (h : maj ∈ [0x38, 0x39, 0x3A, 0x3B, 0x3C, 0x3D, 0x3E]) : parse maj q d t = parseSched maj q d t := by
  simp only [List.mem_cons, List.not_mem_nil, or_false] at h
  rcases h with rfl | rfl | rfl | rfl | rfl | rfl | rfl <;> rfl
theorem parse_cfg (h : maj ∈ [0x40, 0x50, 0x54, 0x55]) : parse maj q d t = parseCfg maj q d t := by
  simp only [List.mem_cons, List.not_mem_nil, or_false] at h
  rcases h with rfl | rfl | rfl | rfl <;> rfl
theorem parse_vec (h : maj ∈ [0x41, 0x42, 0x43, 0x44, 0x46, 0x47, 0x48, 0x49, 0x4A, 0x4B, 0x4C]) (o x : Half) :
    parse maj q d [o, x] = parseVec maj q d o x := by
  simp only [List.mem_cons, List.not_mem_nil, or_false] at h
  rcases h with rfl | rfl | rfl | rfl | rfl | rfl | rfl | rfl | rfl | rfl | rfl <;> rfl
theorem parse_vmem (h : maj ∈ [0x51, 0x52, 0x53]) (o x : Half) : parse maj q d (o :: x :: t) = parseVmem maj q d o x t := by
  simp only [List.mem_cons, List.not_mem_nil, or_false] at h
  rcases h with rfl | rfl | rfl <;> rfl
theorem parse_mat (h : maj ∈ [0x60, 0x61, 0x62, 0x63, 0x64, 0x65, 0x66, 0x67]) : parse maj q d t = parseMat maj q d t := by
  simp only [List.mem_cons, List.not_mem_nil, or_false] at h
  rcases h with rfl | rfl | rfl | rfl | rfl | rfl | rfl | rfl <;> rfl
theorem parse_fab (h : maj ∈ [0x6C, 0x6D, 0x70, 0x71, 0x72, 0x74]) : parse maj q d t = parseFab maj q d t := by
  simp only [List.mem_cons, List.not_mem_nil, or_false] at h
  rcases h with rfl | rfl | rfl | rfl | rfl | rfl <;> rfl
end

/-! ### The arms of the scheduler's parser (17 R296) -/

section
variable (q : Bool) (d : Reg) (o x : Half)

@[simp] theorem parseSched_spawn :
    parseSched 0x38 q d [o, x] = .ok (.spawn ⟨d, oB o, oFb o, oC o, oFc o, (oM o).extractLsb' 0 2, oB x, oFb x⟩) := rfl
@[simp] theorem parseSched_doneCtr : parseSched 0x39 q d [o] = .ok (.doneCtr ⟨oB o, oFb o⟩) := rfl
@[simp] theorem parseSched_waitj : parseSched 0x3A q d [o] = .ok (.waitj ⟨oB o, oFb o, o.getLsbD 9, oI o⟩) := rfl
@[simp] theorem parseSched_launch : parseSched 0x3B q d [o] = .ok (.launch ⟨q, d, oB o, oFb o, o.getLsbD 9, oI o⟩) := rfl
@[simp] theorem parseSched_nextw : parseSched 0x3C q d [o] = .ok (.nextw ⟨d, oB o, oFb o, oC o, oFc o⟩) := rfl
@[simp] theorem parseSched_getid : parseSched 0x3D q d [o] = .ok (.getid d (oM o)) := rfl
@[simp] theorem parseSched_yield : parseSched 0x3E q d [o] = .ok (.yield (o.getLsbD 9) (oI o)) := rfl
end

end Sys2Proof
end

section
/-! ## Every instruction that is no event has words, and its fields read back (02 R36) -/
namespace Sys2Proof

/-- Words of an instruction: a head with as many tail halfwords as its TL says, whose fields read as the instruction when it is well
formed. -/
def Encodes (i : Instr) : Prop :=
  ∃ h t, encode i = some (h :: t) ∧ headTl h = t.length ∧ (i.wf = true → parse (headMaj h) (headQ h) (headD h) t = .ok i)

section
variable {i : Instr} {maj tl : Nat} {q : Bool} {d : Reg} {t : List Half} {o x : Half}

theorem encodes_of_parse (he : encode i = some (mkHead maj tl q d :: t)) (hp : i.wf = true → parse maj q d t = .ok i)
    (hmaj : maj < 128) (hfit : tl = t.length ∧ tl < 8) : Encodes i := by
  obtain ⟨hlen, htl⟩ := hfit
  refine ⟨_, _, he, by rw [headTl_mkHead maj q d htl, hlen], ?_⟩
  rwa [headMaj_mkHead tl q d hmaj, headQ_mkHead, headD_mkHead]

/-! ### One rule per parser -/

theorem major_lt {majs : List Nat} (h : maj ∈ majs) (hb : ∀ m ∈ majs, m < 128 := by decide) : maj < 128 := hb maj h

theorem encodes_int (he : encode i = some (mkHead maj tl q d :: t)) (hp : parseInt maj q d t = .ok i)
    (hmaj : maj ∈ [0x01, 0x02, 0x03, 0x04, 0x05] := by decide)
    (hfit : tl = t.length ∧ tl < 8 := by exact ⟨rfl, by decide⟩) : Encodes i :=
  encodes_of_parse he (fun _ => (parse_int q d t hmaj).trans hp) (major_lt hmaj) hfit

theorem encodes_mem (he : encode i = some (mkHead maj 1 q d :: [o])) (hp : parseMem maj d o none = .ok i)
    (hmaj : maj ∈ [0x07, 0x10, 0x11, 0x12, 0x13, 0x14] := by decide) : Encodes i :=
  encodes_of_parse he (fun _ => (parse_mem q d hmaj o).trans hp) (major_lt hmaj) ⟨rfl, by decide⟩

theorem encodes_memDisp {k : Imm} (he : encode i = some (mkHead maj (1 + immLen k) q d :: o :: immHalves k))
    (hp : parseMem maj d o (some k) = .ok i) (hmaj : maj ∈ [0x07, 0x10, 0x11, 0x12, 0x13, 0x14] := by decide) : Encodes i :=
  encodes_of_parse he (fun _ => (parse_memDisp q d hmaj o k).trans hp) (major_lt hmaj) (immLen_fits k o)

theorem encodes_amo (he : encode i = some (mkHead maj tl q d :: t)) (hp : parseAmo maj d t = .ok i)
    (hmaj : maj ∈ [0x18, 0x19, 0x1A] := by decide)
    (hfit : tl = t.length ∧ tl < 8 := by exact ⟨rfl, by decide⟩) : Encodes i :=
  encodes_of_parse he (fun _ => (parse_amo q d t hmaj).trans hp) (major_lt hmaj) hfit

theorem encodes_ctl (he : encode i = some (mkHead maj tl q d :: t)) (hp : i.wf = true → parseCtl maj q d t = .ok i)
    (hmaj : maj ∈ [0x20, 0x21, 0x22, 0x23, 0x24, 0x25, 0x26, 0x27, 0x28, 0x78, 0x79, 0x7A] := by decide)
    (hfit : tl = t.length ∧ tl < 8 := by exact ⟨rfl, by decide⟩) : Encodes i :=
  encodes_of_parse he (fun hw => (parse_ctl q d t hmaj).trans (hp hw)) (major_lt hmaj) hfit

theorem encodes_turn (he : encode i = some (mkHead maj 1 q d :: [o])) (hp : parseTurn maj q d o = .ok i)
    (hmaj : maj ∈ [0x30, 0x31, 0x32, 0x33, 0x34, 0x7C] := by decide) : Encodes i :=
  encodes_of_parse he (fun _ => (parse_turn q d hmaj o).trans hp) (major_lt hmaj) ⟨rfl, by decide⟩

theorem encodes_sched (he : encode i = some (mkHead maj tl q d :: t)) (hp : parseSched maj q d t = .ok i)
    (hmaj : maj ∈ [0x38, 0x39, 0x3A, 0x3B, 0x3C, 0x3D, 0x3E] := by decide)
    (hfit : tl = t.length ∧ tl < 8 := by exact ⟨rfl, by decide⟩) : Encodes i :=
  encodes_of_parse he (fun _ => (parse_sched q d t hmaj).trans hp) (major_lt hmaj) hfit

theorem encodes_cfg (he : encode i = some (mkHead maj tl q d :: t)) (hp : parseCfg maj q d t = .ok i)
    (hmaj : maj ∈ [0x40, 0x50, 0x54, 0x55] := by decide)
    (hfit : tl = t.length ∧ tl < 8 := by exact ⟨rfl, by decide⟩) : Encodes i :=
  encodes_of_parse he (fun _ => (parse_cfg q d t hmaj).trans hp) (major_lt hmaj) hfit

theorem encodes_vec (he : encode i = some (mkHead maj 2 q d :: [o, x])) (hp : parseVec maj q d o x = .ok i)
    (hmaj : maj ∈ [0x41, 0x42, 0x43, 0x44, 0x46, 0x47, 0x48, 0x49, 0x4A, 0x4B, 0x4C] := by decide) : Encodes i :=
  encodes_of_parse he (fun _ => (parse_vec q d hmaj o x).trans hp) (major_lt hmaj) ⟨rfl, by decide⟩

theorem encodes_mask (he : encode i = some [mkHead 0x45 1 q d, o]) (hp : parseK d o = .ok i) : Encodes i :=
  encodes_of_parse he (fun _ => hp) (by decide) ⟨rfl, by decide⟩

theorem encodes_vmem {disp : Option (BitVec 16)} (he : encode i = some (mkHead maj (2 + dispLen disp) q d :: o :: x :: dispHalves disp))
    (hp : parseVmem maj q d o x (dispHalves disp) = .ok i) (hmaj : maj ∈ [0x51, 0x52, 0x53] := by decide) : Encodes i :=
  encodes_of_parse he (fun _ => (parse_vmem q d _ hmaj o x).trans hp) (major_lt hmaj) (dispLen_fits disp o x)

theorem encodes_mat (he : encode i = some (mkHead maj tl q d :: t)) (hp : parseMat maj q d t = .ok i)
    (hmaj : maj ∈ [0x60, 0x61, 0x62, 0x63, 0x64, 0x65, 0x66, 0x67] := by decide)
    (hfit : tl = t.length ∧ tl < 8 := by exact ⟨rfl, by decide⟩) : Encodes i :=
  encodes_of_parse he (fun _ => (parse_mat q d t hmaj).trans hp) (major_lt hmaj) hfit

theorem encodes_fab (he : encode i = some (mkHead maj tl q d :: t)) (hp : parseFab maj q d t = .ok i)
    (hmaj : maj ∈ [0x6C, 0x6D, 0x70, 0x71, 0x72, 0x74] := by decide)
    (hfit : tl = t.length ∧ tl < 8 := by exact ⟨rfl, by decide⟩) : Encodes i :=
  encodes_of_parse he (fun _ => (parse_fab q d t hmaj).trans hp) (major_lt hmaj) hfit
end

/-! ### The instructions, by the parser that reads them -/

theorem ne_of_noOwnWrite {num : BitVec 12} (h : sysOwnWrite num = false) (k : BitVec 12) (hk : sysOwnWrite k = true) : num ≠ k := by
  rintro rfl
  rw [h] at hk
  cases hk
/-- A number without a row of its own reads as MTS. -/
theorem parseMts_mts {num : BitVec 12} {o : SrcOps} (h : (Instr.mts num o).wf = true) : parseMts num o = .mts num o := by
  have hown : sysOwnWrite num = false := by simp only [Instr.wf, Bool.and_eq_true, Bool.not_eq_true'] at h; exact h.2
  have hmat : sysMatrix num = false := by simp_all [sysOwnWrite, sysMatrix]
  simp [parseMts, hmat, ne_of_noOwnWrite hown 0x004#12 rfl, ne_of_noOwnWrite hown 0x00B#12 rfl,
    ne_of_noOwnWrite hown 0x120#12 rfl, ne_of_noOwnWrite hown 0x122#12 rfl]
/-- A number of MCTL, MSTAT and MDRAIN reads as the write of a matrix register. -/
theorem parseMts_matrix {num : BitVec 12} {o : SrcOps} (h : sysMatrix num = true) : parseMts num o = .matrixRegWrite num o := by
  have hne : ∀ k, sysMatrix k = false → num ≠ k := by
    rintro k hk rfl
    rw [h] at hk
    cases hk
  simp [parseMts, h, hne 0x004#12 rfl, hne 0x00B#12 rfl, hne 0x120#12 rfl, hne 0x122#12 rfl]

/-- Every instruction that is no event has words that read back: case by case, the rule of its parser and the fields of its words. -/
theorem encodes_of_not_event (i : Instr) (hi : i.isEvent = false) : Encodes i := by
  cases i with
  | nop => exact encodes_of_parse (maj := 0) (tl := 0) (q := false) (d := 0) rfl (fun _ => rfl) (by decide) ⟨rfl, by decide⟩
  | add o | sub o | and o | or o | xor o | andn o | sll o | srl o | sra o | ror o | slt o | sltu o | min o | max o | minu o | maxu o =>
    exact encodes_int rfl (by simp [parseInt, pickAluR])
  | addImm o | rsbImm o | andImm o | orImm o | xorImm o | andnImm o | sllImm o | srlImm o | sraImm o | rorImm o | sltImm o | sltuImm o
  | minImm o | maxImm o | minuImm o | maxuImm o =>
    exact encodes_int rfl (by simp [parseInt, pickAluI]) (by decide) (immLen_fits _ _)
  | mul o | mulh o | mulhu o | mulhsu o | div o | divu o | rem o | remu o => exact encodes_int rfl (by simp [parseInt, pickMul])
  | clz o | ctz o | popc o | brev o | bswap o => exact encodes_int rfl (by simp [parseInt, pickBitU])
  | sel o => exact encodes_int rfl (by simp [parseInt])
  | ext o | extn o | ins o => exact encodes_int rfl (by simp [parseInt, pickExt])
  | li16 z d i => exact encodes_int rfl (by simp [parseInt])
  | li32 z d i | li64 d i => exact encodes_int rfl (by simp [parseInt])
  | lea o | ld o | st o | lds o | sts o | pref o => exact encodes_mem rfl (by simp [parseMem])
  | leaDisp o k | addpc d k | ldDisp o k | stDisp o k | ldsDisp o k | stsDisp o k | prefDisp o k =>
    exact encodes_memDisp rfl (by simp [parseMem])
  | amoSwap o | amoAdd o | amoAnd o | amoOr o | amoXor o | amoMin o | amoMax o | amoMinu o | amoMaxu o | cas o | append o =>
    exact encodes_amo rfl (by simp [parseAmo, pickAmo]) (by decide) (dispLen_fits _ _ _)
  | br off => exact encodes_ctl rfl fun _ => by simp [parseCtl]
  | brLong off => exact encodes_ctl rfl fun _ => by simp [parseCtl]
  | beq o | bne o | blt o | bge o | bltu o | bgeu o =>
    exact encodes_ctl rfl (fun _ => by simp [parseCtl, pickBcc]) (by decide) (immLen_fits _ _)
  | call d off => exact encodes_ctl rfl fun _ => by simp [parseCtl]
  | callLong d off => exact encodes_ctl rfl fun _ => by simp [parseCtl]
  | jmpr o | ret o => exact encodes_ctl rfl fun _ => by simp [parseCtl]
  | loop o => exact encodes_ctl rfl fun _ => by simp [parseCtl]
  | loopImm o => exact encodes_ctl rfl fun _ => by simp [parseCtl]
  | lidx d lv => exact encodes_ctl rfl fun _ => by simp [parseCtl]
  | lbrk lv => exact encodes_ctl rfl fun _ => by simp [parseCtl]
  | strip o => exact encodes_ctl rfl fun _ => by simp [parseCtl]
  | stripCk o cki => exact encodes_ctl rfl fun _ => by simp [parseCtl]
  | trapEq o | trapNe o | trapLt o | trapGe o | trapLtu o | trapGeu o => exact encodes_ctl rfl fun _ => by simp [parseCtl, pickTrap]
  | ecall code | brk code => exact encodes_ctl rfl fun _ => by simp [parseCtl]
  | eret | eretN | uiret | idle | halt => exact encodes_ctl rfl fun _ => rfl
  | mfs d num => exact encodes_ctl rfl fun _ => by simp [parseCtl]
  | mts num o => exact encodes_ctl rfl fun hwf => by simp [parseCtl, parseMts_mts hwf]
  | matrixRegWrite num o => exact encodes_ctl rfl fun hwf => by simp [parseCtl, parseMts_matrix hwf]
  | vpartWrite o | dbellWrite o | lseedWrite o | lqregRegister o => exact encodes_ctl rfl fun _ => by simp [-BitVec.reduceAppend, parseCtl, parseMts]
  | tlbiAll lvl => exact encodes_ctl rfl fun _ => by simp [parseCtl]
  | tlbiVa o lvl => exact encodes_ctl rfl fun _ => by simp [parseCtl]
  | turn o | turnPub o | snapOpen o | snapClose o | cacheWb o | cacheInv o | cacheWbinv o | cacheTinit o | waits o =>
    exact encodes_turn rfl (by simp [parseTurn])
  | bar lvl | barArrive lvl | barWait lvl => exact encodes_turn rfl (by simp [parseTurn])
  | fenceO | fenceIo | fenceSurv => exact encodes_turn rfl rfl
  | spawn o | doneCtr o | waitj o | launch o | nextw o => exact encodes_sched rfl (by simp)
  | done => exact encodes_sched rfl rfl
  | getid d sel => exact encodes_sched rfl (by simp)
  | yield ckv cki => exact encodes_sched rfl (by simp)
  | vsetvl o | vcfg o | qcfg o | strmVector o | strmScratchpad o | strmFabric o | copyIn o | copyOut o =>
    exact encodes_cfg rfl (by simp [parseCfg])
  | vtag d cntm1 tag => exact encodes_cfg rfl (by simp [parseCfg])
  | qrd d q wd => exact encodes_cfg rfl (by simp [parseCfg])
  | qrst q => exact encodes_cfg rfl (by simp [parseCfg])
  | strmc n => exact encodes_cfg rfl (by simp [-BitVec.reduceAppend, parseCfg])
  | strmq d n => exact encodes_cfg rfl (by simp [-BitVec.reduceAppend, parseCfg])
  | vadd o | vsub o | vmul o | vdiv o | vmin o | vmax o | vsgnj o => exact encodes_vec rfl (by simp [parseVec, parseVf, pickVf3])
  | vsqrt o | vabs o | vneg o => exact encodes_vec rfl (by simp [parseVec, parseVf])
  | vfma o | vfms o | vfnma o | vfnms o => exact encodes_vec rfl (by simp [parseVec, pickVfm])
  | vaddI o | vsubI o | vmulI o | vmulh o | vand o | vor o | vxor o | vsll o | vsrl o | vsra o | vminI o | vmaxI o | vadds o | vsubs o =>
    exact encodes_vec rfl (by simp [parseVec, parseVi, pickVi])
  | vclz o | vctz o | vpopc o | vffs o | vbrev o => exact encodes_vec rfl (by simp [parseVec, parseVi])
  | vcmpEq o | vcmpNe o | vcmpLt o | vcmpLe o | vcmpGt o | vcmpGe o | vcmpUn o => exact encodes_vec rfl (by simp [parseVec, pickVcmp])
  | kand o | kor o | kxor o | kandn o | knot o | kmov o | kpopc o | kfirst o => exact encodes_mask rfl (by simp [parseK])
  | kset d | kclr d => exact encodes_mask rfl (by simp [parseK])
  | vcvt o => exact encodes_vec rfl (by simp [parseVec, parseVx, o.mode.isLt])
  | vscale o | vqnt o | vlut o | vunpk o | vsel o | vmov o | vbcast o | vextr o | vperm o | vslideup o | vslidedn o | vrev o | vcompress o
  | vexpand o => exact encodes_vec rfl (by simp [parseVec, parseVx])
  | vredSum o | vredMin o | vredMax o | vredAnd o | vredOr o | vredXor o => exact encodes_vec rfl (by simp [parseVec, pickRed])
  | vscanSum o | vscanMin o | vscanMax o | vscanAnd o | vscanOr o | vscanXor o => exact encodes_vec rfl (by simp [parseVec, pickScan])
  | vld o | vst o | vgath o | vscat o | vlds o | vsts o | vldsx o | vstsx o => exact encodes_vmem rfl (by simp [parseVmem])
  | vldStream o | vstStream o => exact encodes_vmem (disp := none) rfl (by simp [parseVmem])
  | tshape t o => exact encodes_mat rfl (by simp [parseMat])
  | tld o | tldDisp o | tst o | tstDisp o => exact encodes_mat rfl (by simp [parseMat])
  | tldMem o | tstMem o => exact encodes_mat rfl (by simp [parseMat])
  | tzero t => exact encodes_mat rfl (by simp [parseMat])
  | tzeroAcc a => exact encodes_mat rfl (by simp [parseMat])
  | tmov t b => exact encodes_mat rfl (by simp [parseMat])
  | twld t wf => exact encodes_mat rfl (by simp [parseMat])
  | twldCb t cbm => exact encodes_mat rfl (by simp [parseMat])
  | twldSp t tm wf => exact encodes_mat rfl (by simp [parseMat])
  | tcbk o | tcbkS o => exact encodes_mat (tl := 1) (t := [_]) rfl (by simp [parseMat])
  | tcbkDisp o disp | tcbkSDisp o disp => exact encodes_mat (tl := 2) (t := [_, disp]) rfl (by simp [parseMat])
  | tmma o | tmmaSp o | tdrain o | taccSet o | taccAdd o => exact encodes_mat rfl (by simp [parseMat])
  | tdrainN d a => exact encodes_mat rfl (by simp [parseMat])
  | tstat d t => exact encodes_mat rfl (by simp [parseMat])
  | tstatIdle d => exact encodes_mat rfl (by simp [parseMat])
  | bind o | mcast o | skins o | skdel o | skclr o | sklook o | reconPull o | reconPush o | reconMerge o | reconSave o | reconDiff o
  | reconq o | survq o | survqGrp o | survqSeal o => exact encodes_fab rfl (by simp [parseFab])
  | unbind d r => exact encodes_fab rfl (by simp [parseFab])
  | _ => cases hi

/-- An event has no words. -/
theorem encode_of_event {i : Instr} (hi : i.isEvent = true) : encode i = none := by
  cases i with
  | atomicHomeEvent | lqregWithdraw | pgrpWrite | idleWake | publishSwap | catchupCopy | wcbDrain | wcbAgeTimeout
  | outboundSliceWriteback | homeWriteMerge | adBitUpdate | loadDataArrival | remoteScratchpadArrival | barPhaseComplete | nextwRequest
  | nextwReply | yieldSave | launchQueueRecord | groupPlacement | freshDispatch | contextRestore | pwaitExpiry | preemptionRequest
  | listedSave | checkpointWatchdogExpiry | forcedSave | savedStatusDelivery | doorbellArrival | ueDataReport | doorbell
  | ueDataInterrupt | userInterruptEntry | vectorRecheck | squashReplay | transferCompletion | codebookRowExpand | codebookFill
  | pushBufferPush | foldContribution | resultGroupMulticast | resultGroupFill | mcastTargetWrite | escapeChannelTimeout | flitReceive
  | nakReceive | replayTimeout | laneTrainingFailure | hostWrite | hostRead | skclrTicket | reconciliation | peerSnapshot | reconApplyOp
  | parityDeltaFold | degradedRead | degradedWrite | stripeRebuild | scrubRead | reencodeRow | neighbourRefresh | pageMigration
  | powerOnReset | strandRelease | accessTableWrite | mailboxDoorbell | spdmMessage | readErrorLog | readHaltedState | resumeHaltedStrand
  | setPowerCap | readSensors | raiseSecurityVersion | thermalThrottle | thermalShutdown | illegalOpcode | moduleNumberRedirect
  | strandWithdrawal | reencodeEnable | policyWrite | boundaryScan | throttleRelease => rfl
  | _ => cases hi

/-! ### The decoder -/

/-- What the decoder accepts: words of the right length whose fields read as the instruction, and that pass its last two checks, those of
the rules of the fields and of the bits that the encoding does not use. -/
theorem decode_eq_ok_iff {h : Half} {t : List Half} {i : Instr} : decode h t = .ok i ↔
    headTl h = t.length ∧ parse (headMaj h) (headQ h) (headD h) t = .ok i ∧ i.wf = true ∧ encode i = some (h :: t) := by
  constructor
  · intro hd
    unfold decode at hd
    split at hd
    · cases hd
    · next hlen =>
      split at hd
      · cases hd
      · next j hj =>
        split at hd
        · cases hd
        · next hwf =>
          split at hd
          · next he =>
            cases hd
            exact ⟨Decidable.not_not.mp hlen, hj, by simpa using hwf, he⟩
          · cases hd
  · rintro ⟨hlen, hp, hwf, he⟩
    simp [decode, hlen, hp, hwf, he]

/-! ### The obligations on the encoding -/

/-- Settles O1: the words of an instruction read back as it, so the decoder, whose other checks they pass, answers it. -/
theorem encodeRoundTrip : Obligations.EncodeRoundTrip := by
  unfold Obligations.EncodeRoundTrip
  intro i h t hwf he
  have hev : i.isEvent = false := by
    cases hi : i.isEvent with
    | false => rfl
    | true => rw [encode_of_event hi] at he; cases he
  obtain ⟨h', t', he', hlen, hp⟩ := encodes_of_not_event i hev
  obtain ⟨rfl, rfl⟩ : h' = h ∧ t' = t := by simpa [he'] using he
  exact decode_eq_ok_iff.mpr ⟨hlen, hp hwf, hwf, he⟩

/-- Settles O2: the words of each instruction by its parser's rule; the decoder's own last checks for the words that decode. -/
theorem encodeExact : Obligations.EncodeExact := by
  unfold Obligations.EncodeExact
  refine ⟨fun i => ⟨fun hi => ?_, encode_of_event⟩, fun h t i hd => ?_⟩
  · obtain ⟨h, t, he, hlen, -⟩ := encodes_of_not_event i hi
    exact ⟨h, t, he, hlen⟩
  · obtain ⟨-, -, hwf, he⟩ := decode_eq_ok_iff.mp hd
    exact ⟨hwf, he⟩

end Sys2Proof
end

section
/-! ## The step (02 R28, R36, R41) -/
namespace Sys2Proof.Machine

/-! ### The turn that a step takes -/

/-- A turn that sched names is taken once time has passed. -/
theorem step_sched {s : State} {t : Turn} {r : List Turn} (h : s.sched = t :: r) : step s = stepTurn { s.tick with sched := r } t := by
  have ht : s.tick.sched = t :: r := h
  simp only [step, ht]
/-- With sched empty the oldest event of the agenda has its turn. -/
theorem step_agenda {s : State} {i : Instr} {r : List Instr} (h : s.sched = []) (hev : s.evTurn = true) (ha : s.agenda = i :: r) :
    step s = stepEvent { s.tick with agenda := r, evTurn := false } i := by
  have ht : s.tick.sched = [] := h
  have hv : s.tick.evTurn = true := hev
  have hg : s.tick.agenda = i :: r := ha
  simp only [step, ht, hv, hg]
/-- With sched empty the next strand has its turn when it is not an event's, or no event is due. -/
theorem step_nextStrand {s : State} (h : s.sched = []) (hs : s.evTurn = false ∨ s.agenda = []) :
    step s = stepStrand { s.tick with cur := nextStrand s.tick, evTurn := true } := by
  have ht : s.tick.sched = [] := h
  rcases hs with hev | ha
  · have hv : s.tick.evTurn = false := hev
    simp only [step, ht, hv]
  · have hg : s.tick.agenda = [] := ha
    cases hv : s.tick.evTurn <;> simp only [step, ht, hv, hg]
/-- A turn put in front of sched. -/
theorem step_withSched (s : State) (t : Turn) (r : List Turn) : step { s with sched := t :: r } = stepTurn { s.tick with sched := r } t :=
  step_sched rfl

/-! ### The instruction that a strand's turn runs -/

/-- A strand that fetches, is not held and has nothing to do first runs the instruction at its pc. -/
theorem stepStrand_runs {s : State} (hf : (windowFirst s).me.fetching = true) (hh : issueHeld (windowFirst s) = false)
    (hd : dueFirst (windowFirst s) = none) (ha : acquiring (windowFirst s) (windowFirst s).cur = false) :
    stepStrand s = stepInstr (windowFirst s) := by
  simp [stepStrand, hf, hh, hd, ha]
theorem stepInstr_entered {s u : State} {l : CodeLine} (h : enterLine s = (.ok l, u)) : stepInstr s = exec (fetched u l).1 (fetched u l).2 := by
  simp only [stepInstr, h]
/-- Words that decode are the instruction fetched. -/
theorem fetched_of_decode {s : State} {l : CodeLine} {i : Instr}
    (h : decode (lineInstr l.data (offOf s.me.pc)).1 (lineInstr l.data (offOf s.me.pc)).2 = .ok i) :
    fetched s l = (i, s.updMe (fun st => { st with line := some l, early := if keepsEarly i then st.early else [] })) := by
  simp only [fetched, h]
/-- Words that do not decode are fetched as ILLEGAL_OPCODE with head and tail halfword 0 (02 R41). -/
theorem fetched_of_decode_error {s : State} {l : CodeLine} {h : Half} {t : List Half} {e : DecodeError}
    (hw : lineInstr l.data (offOf s.me.pc) = (h, t)) (hd : decode h t = .error e) : (fetched s l).1 = .illegalOpcode h (t.headD 0) := by
  simp only [fetched, hw, hd]

/-- Settles O5: the turn of strand p, nothing standing before its instruction, is the instruction of the line entered. -/
theorem stepRunsDecoded : Obligations.StepRunsDecoded := by
  unfold Obligations.StepRunsDecoded
  intro s p r l u i hs s1 hf hh hd ha he hi
  rw [step_sched hs]
  calc stepTurn { s.tick with sched := r } (.strand p)
      = stepStrand { s.tick with sched := r, cur := p } := rfl
    _ = stepInstr s1 := stepStrand_runs hf hh hd ha
    _ = exec (fetched u l).1 (fetched u l).2 := stepInstr_entered he
    _ = _ := by rw [fetched_of_decode hi]

/-- Settles O6: with sched empty the agenda and the strands take turns, and each turn that a schedule names is what stepTurn makes of it. -/
theorem stepDefaultOrder : Obligations.StepDefaultOrder := by
  unfold Obligations.StepDefaultOrder
  intro s hs behind
  exact ⟨fun i r hev ha => step_agenda hs hev ha, step_nextStrand hs, fun i r => step_withSched s (.event i) r,
    fun p n r => step_withSched s (.cut p n) r, fun p va n r => step_withSched s (.ahead p va n) r, fun p r => step_withSched s (.late p) r,
    fun p k n r => step_withSched s (.move p k n) r, fun f r => step_withSched s (.flaw f) r⟩

end Sys2Proof.Machine
end

section
/-! ## The operand test (02 R40, R41): its four answers, in the order of report -/
namespace Sys2Proof.Machine

/-- A source holds the instruction: it is empty, and not with F = 1 once the test has been made, or a transfer owns it. -/
def sourceWaits (s : State) (o : Opnd) : Bool :=
  (!o.f || !(s.me.tested == some s.me.pc)) && !opFull s o || o.file == 1 && fabBusy s (coreOf s.cur) o.n

section
variable {s : State} {os : List Opnd}

theorem sourceWaits_of_empty {o : Opnd} (hf : o.f = false) (hempty : opFull s o = false) : sourceWaits s o = true := by
  simp [sourceWaits, hf, hempty]
theorem sourceWaits_eq_false {o : Opnd} (hfab : o.file = 1 → fabBusy s (coreOf s.cur) o.n = false)
    (h : opFull s o = true ∨ (s.me.tested = some s.me.pc ∧ o.f = true)) : sourceWaits s o = false := by
  have hfree : (o.file == 1 && fabBusy s (coreOf s.cur) o.n) = false := by
    by_cases hv : o.file = 1
    · simp [hfab hv]
    · simp [hv]
  rcases h with hfull | ⟨ha, hf⟩
  · simp [sourceWaits, hfull, hfree]
  · simp [sourceWaits, ha, hf, hfree]

/-- The first source that is empty with F = 1 raises EMPTY_OPERAND when the test is made. -/
theorem operands_emptyOperand {o : Opnd} (hnew : s.me.tested ≠ some s.me.pc) (ho : os.find? (fun x => x.f && !opFull s x) = some o) :
    operands s os = raise s 0x05 0 (BitVec.ofNat 64 (o.file * 32 + o.n)) := by
  have hagain : (s.me.tested == some s.me.pc) = false := by simpa using hnew
  simp only [operands, hagain, Bool.false_eq_true, if_false, ho]
/-- Without such a source, or once the test has been made, the rest of the test answers. -/
theorem operands_noEmptyOperand (h : ∀ o ∈ os, o.f = false ∨ opFull s o = true ∨ s.me.tested = some s.me.pc) :
    operands s os = if handed s s.cur (os.filterMap Opnd.key) then wait (handOver s s.cur)
      else if os.any (sourceWaits s) then wait s
      else (os.findSome? (scalarMark s)).elim (.ok ()) (fun t => .error (.trap t s)) := by
  have hnone : (if (s.me.tested == some s.me.pc) = true then none else os.find? (fun o => o.f && !opFull s o)) = none := by
    split
    · rfl
    · next hagain =>
      rw [List.find?_eq_none]
      intro o ho
      rcases h o ho with hf | hfull | ha
      · simp [hf]
      · simp [hfull]
      · simp [ha] at hagain
  simp only [operands, hnone]
  cases os.findSome? (scalarMark s) <;> rfl
/-- With every source at hand the mark of the first marked scalar source decides. -/
theorem operands_full (hfab : ∀ o ∈ os, o.file = 1 → fabBusy s (coreOf s.cur) o.n = false)
    (hhand : handed s s.cur (os.filterMap Opnd.key) = false) (h : ∀ o ∈ os, opFull s o = true ∨ (s.me.tested = some s.me.pc ∧ o.f = true)) :
    operands s os = (os.findSome? (scalarMark s)).elim (.ok ()) (fun t => .error (.trap t s)) := by
  rw [operands_noEmptyOperand fun o ho => (h o ho).elim (fun hf => .inr (.inl hf)) (fun ha => .inr (.inr ha.1)), if_neg (by simp [hhand]), if_neg ?_]
  rw [Bool.not_eq_true, List.any_eq_false]
  exact fun o ho => by simp [sourceWaits_eq_false (hfab o ho) (h o ho)]
theorem scalarMark_poison {o : Opnd} {ea : Word} (ho : o.file = 0) (hm : (s.me.sreg o.n).mark = .poison ea) :
    scalarMark s o = some { code := 0x10, qual := 1, tval := ea } := by
  simp [scalarMark, ho, hm]
end

/-- Settles O8: clause by clause, the answer of the operand test by what its sources hold. -/
theorem operandTest : Obligations.OperandTest := by
  unfold Obligations.OperandTest
  intro s os hfab again may
  refine ⟨?emptyOperand, ?handoff, fun hhand => ⟨?waits, ?poison, ?issues⟩, rfl, State.me_updMe _ _⟩
  case emptyOperand =>
    rintro hnew pre post o rfl hpre hf hempty
    refine operands_emptyOperand hnew ?_
    rw [List.find?_append, List.find?_eq_none.mpr fun x hx => by rcases hpre x hx with h | h <;> simp [h]]
    simp [hf, hempty]
  case handoff =>
    intro hmay hhand
    rw [operands_noEmptyOperand hmay, if_pos hhand]
  case waits =>
    rintro hmay ⟨o, ho, hf, hempty⟩
    rw [operands_noEmptyOperand hmay, if_neg (by simp [hhand]), if_pos]
    exact List.any_eq_true.mpr ⟨o, ho, sourceWaits_of_empty hf hempty⟩
  case poison =>
    rintro pre post o ea rfl hfull hpre hfile hmark
    rw [operands_full hfab hhand hfull, List.findSome?_append, List.findSome?_eq_none_iff.mpr hpre]
    simp [scalarMark_poison hfile hmark]
  case issues =>
    intro h
    rw [operands_full hfab hhand fun o ho => (h o ho).1, List.findSome?_eq_none_iff.mpr fun o ho => (h o ho).2]
    rfl

end Sys2Proof.Machine
end

section
/-! ## Code lines and NOP (02 R25 to R27, R30, R37) -/
namespace Sys2Proof.Machine
open BitVec

/-! ### The line check -/

@[simp] theorem lineS_zero (d : BitVec 512) : lineS d 0 = 0 := rfl
theorem headTl_lineHalf (d : BitVec 512) (k : Nat) : headTl (lineHalf d k) = (d.extractLsb' (8 * k + 6) 3).toNat := by
  have : (lineHalf d k).extractLsb' 6 3 = d.extractLsb' (8 * k + 6) 3 := by
    ext i hi
    simp only [lineHalf, getElem_extractLsb', getLsbD_extractLsb', Nat.add_assoc]
    simp [show 6 + i < 16 by omega]
  rw [headTl, this]
/-- Each head adds its TL (02 R25). -/
theorem lineS_succ (d : BitVec 512) (i : Nat) : lineS d (i + 1) = lineS d i + (d.extractLsb' (8 * (2 + 2 * i) + 6) 3).toNat := by
  simp [lineS, List.range_succ, headTl_lineHalf]

theorem extractLsb'_eq_zero_iff {w : Nat} (d : BitVec w) (a n : Nat) : d.extractLsb' a n = 0 ↔ ∀ i < n, d.getLsbD (a + i) = false := by
  constructor
  · intro h i hi
    simpa [hi] using congrArg (fun x => x.getLsbD i) h
  · intro h
    ext i hi
    simp [h i hi]
/-- Bytes a to b - 1 are zero exactly when the bits they span are. -/
theorem bytes_eq_zero_iff {w : Nat} (d : BitVec w) (a b : Nat) :
    d.extractLsb' (8 * a) (8 * (b - a)) = 0 ↔ ∀ k, a ≤ k → k < b → d.extractLsb' (8 * k) 8 = 0 := by
  simp only [extractLsb'_eq_zero_iff]
  constructor
  · intro h k hak hkb i hi
    have := h (8 * (k - a) + i) (by omega)
    rwa [show 8 * a + (8 * (k - a) + i) = 8 * k + i by omega] at this
  · intro h i hi
    have := h (a + i / 8) (by omega) (by omega) (i % 8) (by omega)
    rwa [show 8 * (a + i / 8) + i % 8 = 8 * a + i by omega] at this
/-- The gap that condition 4 of the check reads, between the last head and the first tail halfword. -/
theorem gap_eq_zero_iff (d : BitVec 512) (n t : Nat) (h : n + t ≤ 31) :
    d.toNat / 2 ^ (8 * (2 * n + 2)) % 2 ^ (8 * (62 - 2 * n - 2 * t)) = 0
      ↔ ∀ k, 2 * n + 2 ≤ k → k ≤ 63 - 2 * t → d.extractLsb' (8 * k) 8 = 0 := by
  have hb := bytes_eq_zero_iff d (2 * n + 2) (64 - 2 * t)
  rw [show 64 - 2 * t - (2 * n + 2) = 62 - 2 * n - 2 * t by omega] at hb
  rw [← Nat.shiftRight_eq_div_pow, ← extractLsb'_toNat, ← toNat_zero, toNat_inj]
  refine hb.trans (forall_congr' fun k => imp_congr_right fun hk => ?_)
  exact imp_congr_left (by omega)

/-! ### Sequential flow over a line -/

theorem and_not_add_and {w : Nat} (x y : BitVec w) : (x &&& ~~~y) + (x &&& y) = x := by
  have hdisjoint : (x &&& ~~~y) &&& (x &&& y) = 0#w := by
    ext i
    simp only [getElem_and, getElem_not, getElem_zero]
    cases y[i] <;> simp
  rw [add_eq_or_of_and_eq_zero _ _ hdisjoint]
  ext i
  simp only [getElem_or, getElem_and, getElem_not]
  cases x[i] <;> simp
/-- The line of an address, as a difference. -/
theorem lineOf_eq_sub (pc : Word) : lineOf pc = pc - BitVec.ofNat 64 (offOf pc) := by
  have hoff : pc &&& 63#64 = BitVec.ofNat 64 (offOf pc) := by
    apply eq_of_toNat_eq
    rw [toNat_and, show (63#64).toNat = 2 ^ 6 - 1 from rfl, Nat.and_two_pow_sub_one_eq_mod, toNat_ofNat, offOf]
    omega
  have hsplit : lineOf pc + (pc &&& 63#64) = pc := and_not_add_and pc 63#64
  rw [← hoff]
  exact BitVec.eq_sub_iff_add_eq.mpr hsplit

/-- seqnext of the current head in the line the strand stands in (02 R30). -/
theorem seqNext_of_line {st : Strand} {l : CodeLine} (hl : st.line = some l) (ha : l.addr = lineOf st.pc) :
    st.seqNext = if offOf st.pc < 2 * lineN l.data then st.pc + 2 else st.pc - BitVec.ofNat 64 (offOf st.pc) + 66 := by
  simp [Strand.seqNext, seqNextIn, Strand.headCount, hl, ha, lineOf_eq_sub]
theorem exec_nop (s : State) : exec .nop s = finish (advance s) := rfl
theorem exec_nop_straight {s : State} (h : Straight s) : exec .nop s = .next (onward s) := by
  rw [exec_nop, advance_straight h, finish_ok]
theorem exec_illegalOpcode (h t : Half) (s : State) :
    exec (.illegalOpcode h t) s = .next (takeTrap s { code := 0x01, tval := h.setWidth 64 ||| (t.setWidth 64 <<< 16) }) := rfl
/-- Of a running strand, sequential flow changes the pc and the mark of the test made. -/
theorem onward_active {s : State} (h : s.me.run = .active) : onward s = s.updMe (fun st => { st with pc := s.me.seqNext, tested := none }) := by
  have hme : { s.me with pc := s.me.seqNext, run := .active, tested := none } = { s.me with pc := s.me.seqNext, tested := none } := by rw [← h]
  exact congrArg (s.setStrand s.cur) hme

/-! ### Major 0 (02 R37) -/

/-- Words of major 0 that decode are the head 0 alone. -/
theorem head_eq_zero_of_decode {h : Half} {t : List Half} {i : Instr} (hmaj : h.extractLsb' 9 7 = 0) (hd : decode h t = .ok i) : h = 0 := by
  obtain ⟨-, hp, -, he⟩ := decode_eq_ok_iff.mp hd
  have hzero : headMaj h = 0 := by rw [headMaj, hmaj]; rfl
  rw [hzero] at hp
  have hi : i = .nop := by
    simp only [parse] at hp
    split at hp
    · cases hp; rfl
    · cases hp
  subst hi
  exact (List.cons.inj (Option.some.inj he)).1.symm
theorem decode_major_zero {h : Half} (t : List Half) (hmaj : h.extractLsb' 9 7 = 0) (hne : h ≠ 0) : ∃ e, decode h t = .error e := by
  cases hd : decode h t with
  | error e => exact ⟨e, rfl⟩
  | ok i => exact absurd (head_eq_zero_of_decode hmaj hd) hne

/-- The conditions of 02 R27 for a line of 512 bits, as the check computes them, and the code it answers for each that fails first. -/
theorem lineFault_cases (d : BitVec 512) :
    let n := lineN d
    let t := lineS d n
    let c1 := d.extractLsb' 5 11 = 0
    let c2 := 1 ≤ n
    let c3 := n + t ≤ 31
    let c4 := ∀ k, 2 * n + 2 ≤ k → k ≤ 63 - 2 * t → d.extractLsb' (8 * k) 8 = 0
    (lineFault d = 0 ↔ c1 ∧ c2 ∧ c3 ∧ c4) ∧ (lineFault d = 1 ↔ ¬ c1) ∧ (lineFault d = 2 ↔ c1 ∧ ¬ c2)
    ∧ (lineFault d = 3 ↔ c1 ∧ c2 ∧ ¬ c3) ∧ (lineFault d = 4 ↔ c1 ∧ c2 ∧ c3 ∧ ¬ c4) := by
  intro n t c1 c2 c3 c4
  by_cases h1 : c1
  case neg =>
    have hf : lineFault d = 1 := if_pos h1
    simp [hf, h1]
  have hf1 : lineFault d = if n = 0 then 2 else if 31 < n + t then 3
      else if d.toNat / 2 ^ (8 * (2 * n + 2)) % 2 ^ (8 * (62 - 2 * n - 2 * t)) ≠ 0 then 4 else 0 := if_neg (Decidable.not_not.mpr h1)
  by_cases h2 : c2
  case neg =>
    have hf : lineFault d = 2 := by rw [hf1, if_pos (by omega)]
    simp [hf, h1, h2]
  by_cases h3 : c3
  case neg =>
    have hf : lineFault d = 3 := by rw [hf1, if_neg (by omega), if_pos (by omega)]
    simp [hf, h1, h2, h3]
  by_cases h4 : c4
  case neg =>
    have hf : lineFault d = 4 := by rw [hf1, if_neg (by omega), if_neg (by omega), if_pos (mt (gap_eq_zero_iff d n t h3).mp h4)]
    simp [hf, h1, h2, h3, h4]
  have hf : lineFault d = 0 := by
    rw [hf1, if_neg (by omega), if_neg (by omega), if_neg (Decidable.not_not.mpr ((gap_eq_zero_iff d n t h3).mpr h4))]
  simp [hf, h1, h2, h3, h4]

/-- A line of zeros has no head. -/
theorem lineFault_zero : lineFault 0 = 2 := by
  obtain ⟨-, -, hn, -⟩ := lineFault_cases 0
  exact hn.mpr ⟨by simp, by simp [lineN]⟩

/-- Settles O4: the check's conditions; NOP is the one instruction of major 0; and what it leaves. -/
theorem codeLines : Obligations.CodeLines := by
  unfold Obligations.CodeLines
  refine ⟨fun d => ⟨rfl, lineS_zero d, lineS_succ d, lineFault_cases d⟩, ?nop, lineFault_zero,
    fun h t => decode_major_zero t, ?illegal, ?flow⟩
  case nop => exact decode_eq_ok_iff.mpr ⟨rfl, rfl, rfl, rfl⟩
  case illegal =>
    intro s l h t hw hmaj hne
    obtain ⟨e, he⟩ := decode_major_zero t hmaj hne
    exact ⟨fetched_of_decode_error hw he, exec_illegalOpcode h _ s⟩
  case flow =>
    intro s l hs hrun hl ha off after
    rw [exec_nop_straight hs, onward_active hrun, seqNext_of_line hl ha]
    rfl

end Sys2Proof.Machine
end

section
/-! ## Wrapped values (06 R100) -/
namespace Sys2Proof
open BitVec

/-- The signed reading of an n-bit pattern is the balanced remainder. -/
theorem toSigned_ofIntAt {n : Nat} (hn : 0 < n) (z : Int) : toSigned n (ofIntAt n z) = z.bmod (2 ^ n) := by
  obtain ⟨k, rfl⟩ : ∃ k, n = k + 1 := ⟨n - 1, by omega⟩
  have hpos : (0 : Int) < 2 ^ (k + 1) := Int.pow_pos (by decide)
  obtain ⟨r, hr⟩ := Int.eq_ofNat_of_zero_le (Int.emod_nonneg z (Int.ne_of_gt hpos))
  have hlt : r < 2 ^ (k + 1) := by exact_mod_cast hr ▸ Int.emod_lt_of_pos z hpos
  have hmod : ofIntAt (k + 1) z % 2 ^ (k + 1) = r := by rw [ofIntAt, hr, Int.toNat_natCast, Nat.mod_eq_of_lt hlt]
  have hhalf : ((2 : Int) ^ (k + 1) + 1) / 2 = 2 ^ k := by rw [Int.pow_succ]; omega
  have hcast : ((r : Int) < 2 ^ k) = (r < 2 ^ k) := by norm_cast
  rw [toSigned, hmod, Int.bmod, Nat.add_sub_cancel]
  push_cast
  simp only [hr, hhalf, hcast]
  rfl
/-- Assignment at width n sign-extends the low n bits. -/
theorem wrapAt_eq_signExtend {n : Nat} (hn : 0 < n) (z : Int) : wrapAt n z = (BitVec.ofInt n z).signExtend 64 := by
  rw [wrapAt, toSigned_ofIntAt hn, signExtend, toInt_ofInt]

end Sys2Proof
end

section
/-! ## Counts, reversals and swaps as numbers (06 R104) -/
namespace Sys2Proof.Machine

theorem clzNat_spec {n x : Nat} (hx : x < 2 ^ n) :
    clzNat n x ≤ n ∧ x < 2 ^ (n - clzNat n x) ∧ (clzNat n x < n → 2 ^ (n - clzNat n x - 1) ≤ x) := by
  unfold clzNat
  split
  · next h0 => simp [h0]
  · next h0 =>
    have hlog : x.log2 < n := (Nat.log2_lt h0).mpr hx
    have hlen : n - (n - 1 - x.log2) = x.log2 + 1 := by omega
    rw [hlen]
    exact ⟨by omega, Nat.lt_log2_self, fun _ => Nat.log2_self_le h0⟩
theorem ctzNat_spec (n x : Nat) :
    ctzNat n x ≤ n ∧ (∀ i, i < ctzNat n x → x.testBit i = false) ∧ (ctzNat n x < n → x.testBit (ctzNat n x) = true) := by
  unfold ctzNat
  cases hf : (List.range n).find? (fun i => x.testBit i) with
  | none =>
    rw [List.find?_range_eq_none] at hf
    exact ⟨Nat.le_refl n, fun i hi => by simpa using hf i hi, fun h => absurd h (Nat.lt_irrefl n)⟩
  | some r =>
    obtain ⟨hr, hmem, hlow⟩ := List.find?_range_eq_some.mp hf
    exact ⟨Nat.le_of_lt (List.mem_range.mp hmem), fun i hi => by simpa using hlow i hi, fun _ => hr⟩

/-- The lowest k digits of x in base B, the lowest first. -/
def revDigits (B x : Nat) : Nat → Nat
  | 0 => 0
  | k + 1 => B * revDigits B x k + x / B ^ k % B

theorem revDigits_lt {B : Nat} (hB : 0 < B) (x k : Nat) : revDigits B x k < B ^ k := by
  induction k with
  | zero => simp [revDigits]
  | succ k ih =>
    have hd := Nat.mod_lt (x / B ^ k) hB
    calc revDigits B x (k + 1) < B * revDigits B x k + B := by simp only [revDigits]; omega
      _ = B * (revDigits B x k + 1) := (Nat.mul_succ _ _).symm
      _ ≤ B * B ^ k := Nat.mul_le_mul_left B ih
      _ = B ^ (k + 1) := Nat.pow_succ'.symm
/-- Digit j of x is digit k - 1 - j of its reversal. -/
theorem revDigits_digit {B : Nat} (hB : 0 < B) (x : Nat) {k j : Nat} (hj : j < k) :
    revDigits B x k / B ^ (k - 1 - j) % B = x / B ^ j % B := by
  induction k with
  | zero => omega
  | succ k ih =>
    have hd := Nat.mod_lt (x / B ^ k) hB
    rcases Nat.lt_succ_iff_lt_or_eq.mp hj with hlt | rfl
    · rw [show k + 1 - 1 - j = (k - 1 - j) + 1 by omega, Nat.pow_succ', ← Nat.div_div_eq_div_mul, revDigits, Nat.mul_add_div hB,
        Nat.div_eq_of_lt hd, Nat.add_zero, ih hlt]
    · simp [revDigits]
/-- The sum that moves each of m digits to its mirror place. -/
theorem foldl_mirror {B : Nat} (x m : Nat) {k : Nat} (hk : k ≤ m) :
    (List.range k).foldl (fun acc j => acc + x / B ^ j % B * B ^ (m - 1 - j)) 0 = B ^ (m - k) * revDigits B x k := by
  induction k with
  | zero => simp [revDigits]
  | succ k ih =>
    rw [List.range_succ, List.foldl_append, ih (by omega), show m - k = (m - (k + 1)) + 1 by omega]
    simp only [List.foldl_cons, List.foldl_nil, revDigits]
    rw [show m - 1 - k = m - (k + 1) by omega, Nat.pow_succ, Nat.mul_add, Nat.mul_assoc, Nat.mul_comm (x / B ^ k % B)]
theorem bswapNat_eq (n x : Nat) : bswapNat n x = revDigits 256 x (n / 8) := by
  simpa [bswapNat] using foldl_mirror (B := 256) x (n / 8) (Nat.le_refl _)
theorem brevNat_eq (n x : Nat) : brevNat n x = revDigits 2 x n := by
  have hstep : (fun acc i => if x.testBit i then acc + 2 ^ (n - 1 - i) else acc) = fun acc i => acc + x / 2 ^ i % 2 * 2 ^ (n - 1 - i) := by
    funext acc i
    rcases Nat.mod_two_eq_zero_or_one (x / 2 ^ i) with h | h <;> simp [Nat.testBit_eq_decide_div_mod_eq, h]
  rw [brevNat, hstep]
  simpa using foldl_mirror (B := 2) x n (Nat.le_refl _)
theorem brevNat_spec (n x : Nat) : brevNat n x < 2 ^ n ∧ ∀ i, i < n → (brevNat n x).testBit (n - 1 - i) = x.testBit i := by
  rw [brevNat_eq]
  refine ⟨revDigits_lt (by decide) x n, fun i hi => ?_⟩
  simp only [Nat.testBit_eq_decide_div_mod_eq, revDigits_digit (by decide : 0 < 2) x hi]
theorem bswapNat_spec (m x : Nat) :
    bswapNat (8 * m) x < 2 ^ (8 * m) ∧ ∀ j, j < m → bswapNat (8 * m) x / 256 ^ (m - 1 - j) % 256 = x / 256 ^ j % 256 := by
  rw [bswapNat_eq, Nat.mul_div_cancel_left m (by decide), Nat.pow_mul]
  exact ⟨revDigits_lt (by decide) x m, fun j => revDigits_digit (by decide) x⟩

end Sys2Proof.Machine
end

section
/-! ## Constants, bit operations and address arithmetic (06 R104 to R107) -/
namespace Sys2Proof.Machine
open BitVec

/-! ### What the instructions answer at a head that ends no body, their sources readable -/

section
variable {s : State}

theorem finish_writeBackS (d : Reg) (v : Word) (h : Straight s) : finish (writeBackS s d v) = .next (onward (s.setS d v)) := by
  rw [writeBackS_straight d v h, finish_ok]
/-- After the operand test, a scalar result. -/
theorem finish_operands_writeBackS {os : List Opnd} (hos : operands s os = .ok ()) (d : Reg) (v : Word) (h : Straight s) :
    finish (do operands s os; writeBackS s d v) = .next (onward (s.setS d v)) := by
  rw [hos]
  exact finish_writeBackS d v h
/-- Three readable scalar registers pass the operand test. -/
theorem operands_readable3 {b c a : Reg} (fb fc fa : Bool) (h : Readable s [b, c, a]) : operands s [.s b fb, .s c fc, .s a fa] = .ok () :=
  operands_scalars _ (by
    intro o ho
    simp only [List.mem_cons, List.not_mem_nil, or_false] at ho
    rcases ho with rfl | rfl | rfl
    · exact ⟨rfl, h b (by simp)⟩
    · exact ⟨rfl, h c (by simp)⟩
    · exact ⟨rfl, h a (by simp)⟩)

/-- A bit operation on the low n bits of its source, zero-extended. -/
theorem finish_bitUnary (hs : Straight s) {o : BitU} (hr : Readable s [o.b]) (f : Nat → Nat → Nat) :
    finish (bitUnary s o f) = .next (onward (s.setS o.d (BitVec.ofNat 64 (f (8 * 2 ^ o.wc.toNat) ((sv s o.b).toNat % 2 ^ (8 * 2 ^ o.wc.toNat)))))) :=
  finish_operands_writeBackS (operands_readable1 o.fb hr) o.d _ hs
theorem exec_sel (hs : Straight s) {o : SelOps} (hr : Readable s [o.b, o.c, o.a]) :
    exec (.sel o) s = .next (onward (s.setS o.d ((sv s o.b &&& sv s o.a) ||| (sv s o.c &&& ~~~(sv s o.a))))) :=
  finish_operands_writeBackS (operands_readable3 o.fb o.fc o.fa hr) o.d _ hs
theorem exec_ext (hs : Straight s) {o : ExtOps} (hr : Readable s [o.b]) :
    exec (.ext o) s = .next (onward (s.setS o.d ((sv s o.b >>> o.pos.toNat) &&& lenMask o.lenm1))) :=
  finish_operands_writeBackS (operands_readable1 o.fb hr) o.d _ hs
theorem exec_extn (hs : Straight s) {o : ExtOps} (hr : Readable s [o.b]) :
    exec (.extn o) s = .next (onward (s.setS o.d (wrapAt (o.lenm1.toNat + 1) ((sv s o.b >>> o.pos.toNat).toNat : Int)))) :=
  finish_operands_writeBackS (operands_readable1 o.fb hr) o.d _ hs
theorem exec_ins (hs : Straight s) {o : ExtOps} (hr : Readable s [o.b, o.d]) :
    exec (.ins o) s = .next (onward (s.setS o.d ((sv s o.d &&& ~~~(lenMask o.lenm1 <<< o.pos.toNat))
      ||| ((sv s o.b <<< o.pos.toNat) &&& (lenMask o.lenm1 <<< o.pos.toNat))))) :=
  finish_operands_writeBackS (operands_readable o.fb false hr) o.d _ hs
theorem finish_leaOp (hs : Straight s) {o : LeaOps} (hr : Readable s [o.b, o.c]) (disp : Word) :
    finish (leaOp s o disp) = .next (onward (s.setS o.d (sv s o.b + (sv s o.c <<< o.sc.toNat) + disp))) :=
  finish_operands_writeBackS (operands_readable o.fb o.fc hr) o.d _ hs
end

/-! ### The values, bit by bit -/

theorem getLsbD_select (a b c : Word) (i : Nat) : ((b &&& a) ||| (c &&& ~~~a)).getLsbD i = if a.getLsbD i then b.getLsbD i else c.getLsbD i := by
  by_cases hi : i < 64
  · simp only [getLsbD_or, getLsbD_and, getLsbD_not, hi, decide_true, Bool.true_and]
    cases a.getLsbD i <;> simp
  · simp [getLsbD_of_ge _ _ (Nat.not_lt.mp hi)]
@[simp] theorem getLsbD_lenMask (l : BitVec 6) (i : Nat) : (lenMask l).getLsbD i = decide (i ≤ l.toNat) := by
  have hl := l.isLt
  rw [lenMask, getLsbD_ofNat, Nat.testBit_two_pow_sub_one, ← Bool.decide_and]
  exact decide_eq_decide.mpr (by omega)
/-- A field of a word, zero-extended. -/
theorem getLsbD_field (x : Word) (p : Nat) (l : BitVec 6) (i : Nat) :
    ((x >>> p) &&& lenMask l).getLsbD i = (decide (i ≤ l.toNat) && x.getLsbD (p + i)) := by
  rw [getLsbD_and, getLsbD_ushiftRight, getLsbD_lenMask, Bool.and_comm]
/-- A field of a word, sign-extended from its top bit. -/
theorem getLsbD_signedField (x : Word) (p : Nat) (l : BitVec 6) {i : Nat} (hi : i < 64) :
    (wrapAt (l.toNat + 1) ((x >>> p).toNat : Int)).getLsbD i = x.getLsbD (p + Nat.min i l.toNat) := by
  have hbit : ∀ j, j < l.toNat + 1 → (BitVec.ofNat (l.toNat + 1) (x >>> p).toNat).getLsbD j = x.getLsbD (p + j) := by
    intro j hj
    rw [getLsbD_ofNat, decide_eq_true hj, Bool.true_and, testBit_toNat, getLsbD_ushiftRight]
  rw [wrapAt_eq_signExtend (Nat.succ_pos _), ofInt_natCast, getLsbD_signExtend, decide_eq_true hi, Bool.true_and]
  split
  · next hlt =>
    have hmin : Nat.min i l.toNat = i := Nat.min_eq_left (by omega)
    rw [hbit i hlt, hmin]
  · next hge =>
    have hmin : Nat.min i l.toNat = l.toNat := Nat.min_eq_right (by omega)
    rw [msb_eq_getLsbD_last, hbit _ (by omega), hmin, Nat.succ_sub_one]
/-- The low bits of b over a field of d. -/
theorem getLsbD_insert (d b : Word) (p : Nat) (l : BitVec 6) (h : p + l.toNat + 1 ≤ 64) (i : Nat) :
    ((d &&& ~~~(lenMask l <<< p)) ||| ((b <<< p) &&& (lenMask l <<< p))).getLsbD i
      = if p ≤ i ∧ i ≤ p + l.toNat then b.getLsbD (i - p) else d.getLsbD i := by
  by_cases hi : i < 64
  case neg => simp [getLsbD_of_ge _ _ (Nat.not_lt.mp hi), show ¬ i ≤ p + l.toNat by omega]
  have hmask : (lenMask l <<< p).getLsbD i = decide (p ≤ i ∧ i ≤ p + l.toNat) := by
    rw [getLsbD_shiftLeft, getLsbD_lenMask, ← decide_not, ← Bool.decide_and, ← Bool.decide_and]
    exact decide_eq_decide.mpr (by omega)
  simp only [getLsbD_or, getLsbD_and, getLsbD_not, hmask, hi, decide_true, Bool.true_and]
  split
  · next hin => simp [hin, hi, Nat.not_lt.mpr hin.left, show i - p < 64 by omega]
  · next hout => simp [hout]

/-! ### The obligation -/

theorem loadImmediate : Claim.LoadImmediate := fun _ d hs =>
  ⟨exec_nop_straight hs, fun _ => ⟨finish_writeBackS d _ hs, finish_writeBackS d _ hs⟩,
    fun _ => ⟨finish_writeBackS d _ hs, finish_writeBackS d _ hs⟩, fun _ => finish_writeBackS d _ hs, fun _ => finish_writeBackS d _ hs⟩

theorem bitCounts : Claim.BitCounts := by
  intro s o hs hr n x done
  have hx : x < 2 ^ n := Nat.mod_lt _ (Nat.two_pow_pos n)
  have hbytes : n / 8 = 2 ^ o.wc.toNat := Nat.mul_div_cancel_left _ (by decide)
  have hrun := finish_bitUnary hs hr
  refine ⟨⟨_, hrun clzNat, clzNat_spec hx⟩, ⟨_, hrun ctzNat, ctzNat_spec n x⟩, ?popc, ⟨_, hrun brevNat, brevNat_spec n x⟩, ?bswap⟩
  case popc =>
    rw [← List.countP_eq_length_filter]
    exact hrun popNat
  case bswap =>
    rw [hbytes]
    exact ⟨_, hrun bswapNat, bswapNat_spec (2 ^ o.wc.toNat) x⟩

theorem bitFieldsAndLea : Claim.BitFieldsAndLea := by
  intro s hs
  refine ⟨fun o hr => ⟨_, exec_sel hs hr, getLsbD_select _ _ _⟩,
    fun o hr _ => ⟨⟨_, exec_ext hs hr, getLsbD_field _ _ _⟩, ?extn⟩, ?ins, ?lea⟩
  case extn => exact ⟨_, exec_extn hs hr, fun i hi => getLsbD_signedField _ _ _ hi⟩
  case ins => exact fun o hr hfield => ⟨_, exec_ins hs hr, getLsbD_insert _ _ _ _ hfield⟩
  case lea =>
    intro o hr
    refine ⟨?_, fun i => finish_leaOp hs hr i.word⟩
    rw [← BitVec.add_zero (sv s o.b + (sv s o.c <<< o.sc.toNat))]
    exact finish_leaOp hs hr 0

/-- Settles O12: constants, counts and reversals, and fields and addresses, each by the value its instruction writes. -/
theorem constantsAndBits : Obligations.ConstantsAndBits := by
  unfold Obligations.ConstantsAndBits
  exact ⟨loadImmediate, bitCounts, bitFieldsAndLea⟩

end Sys2Proof.Machine
end

section
/-! ## The state at reset (03 R54, 05 R86, 08 R148, 12 R217, 23 R379, 24 R383) -/
namespace Sys2Proof.Machine

/-! ### At reset nothing is listed: every strand, core and module has the values of its reset record -/

@[simp] theorem reset_strand (p : Nat) : State.reset.strand p = Strand.reset := rfl
@[simp] theorem reset_core (c : Nat) : State.reset.core c = Core.reset := rfl
@[simp] theorem reset_modl (m : Nat) : State.reset.modl m = Module.reset := rfl
@[simp] theorem Matrix.reset_dsc (t : Nat) : Matrix.reset.dsc t = tileDescReset := rfl
@[simp] theorem Matrix.reset_slot (n : Nat) : Matrix.reset.slot n = Slot.empty := rfl

/-! ### Fields of the vector registers at reset -/

/-- Every field of FFIRST at reset is 0xFFFF (08 R148). -/
theorem reset_ffirst : Strand.reset.vec.ffirst = BitVec.allOnes 96 := rfl
/-- Every vector register has the tag f32 at reset (09 R157). -/
theorem reset_tag : ∀ j, j < 32 → Strand.reset.tag j = 13 := by decide
/-- EWMAX is 2 at reset (08 R148). -/
theorem reset_ewmax : Strand.reset.cfg 25 24 = 2 := by decide

/-- Settles O58: what the reset records of a strand, a core and a module hold. -/
theorem resetValues : Obligations.ResetValues := by
  unfold Obligations.ResetValues
  refine ⟨fun p => ?strand, fun c => ?core, fun m => ?modl⟩
  case strand =>
    rw [reset_strand]
    exact ⟨rfl, rfl, rfl, reset_ffirst, rfl, rfl, rfl, reset_tag, reset_ewmax, rfl, rfl, rfl⟩
  case core =>
    rw [reset_core]
    exact ⟨rfl, Matrix.reset_dsc, rfl, fun n => congrArg Slot.st (Matrix.reset_slot n)⟩
  case modl =>
    rw [reset_modl]
    exact ⟨rfl, rfl, rfl, rfl, rfl⟩

end Sys2Proof.Machine
end

section
/-! ## An uncorrectable error in what a load reads at its home (06 R113, 23 R374): what it leaves in the load's record -/
namespace Sys2Proof.Machine

/-! ### Messages leave the strands as they were -/

@[simp] theorem delivered_strands (s : State) (msg : Nat) : (s.delivered msg).strands = s.strands := rfl
@[simp] theorem queueFlit_strands (s : State) (m i q msg : Nat) : (queueFlit s m i q msg).strands = s.strands := by
  unfold queueFlit; dsimp only; split <;> rfl
@[simp] theorem sendMsg_strands (s : State) (m peer msg : Nat) : (sendMsg s m peer msg).strands = s.strands := by
  unfold sendMsg
  split
  · rfl
  · split
    · split <;> rfl
    · rw [queueFlit_strands]; split <;> rfl
@[simp] theorem State.strand_post (s : State) (i : Instr) (p : Nat) : (s.post i).strand p = s.strand p := rfl
@[simp] theorem fromHome_strands (s : State) (pa core : Nat) : (fromHome s pa core).2.strands = s.strands := sendMsg_strands _ _ _ _

/-! ### The arrival of a load's request at its home -/

section
variable {s : State} {p k pa u : Nat} {d : Prod}

/-- The record that the event names is the first whose message has arrived, so its load is served. -/
theorem exec_loadDataArrival_served (hd : (s.strand p).prods[k]? = some d) (ha : s.arrived d.msg = true) (hl : s.lost.contains d.msg = false)
    (hh : d.home = some pa) (bad : Bool) : exec (.loadDataArrival p k bad) s = .next (loadServed s p d pa bad) := by
  obtain ⟨hk, rfl⟩ := List.getElem?_eq_some_iff.mp hd
  have hfind : ((s.strand p).prods.drop k).find? (fun d => s.arrived d.msg) = some (s.strand p).prods[k] := by
    rw [List.drop_eq_getElem_cons hk]
    exact List.find?_cons_of_pos ha
  show execLoadDataArrival p k bad s = _
  unfold execLoadDataArrival
  simp only [hfind, hl, hh, Bool.false_eq_true, if_false]

/-- A load with a scalar destination reads one ECC granule at its home. -/
theorem Prod.units_scalar {n : Nat} (hs : d.sdest = some n) (hh : d.home = some pa) : d.units = [pa / 64] := by simp only [Prod.units, hs, hh]

/-- With one ECC granule read, that granule is the one in error: all that receives its bytes is spoiled. -/
theorem loadSpoilt_of_units (hu : d.units = [u]) : (loadSpoilt s p d).1 = d.spoiled (some u) := by
  simp [loadSpoilt, hu, Nat.mod_one]
theorem loadSpoilt_strands (s : State) (p : Nat) (d : Prod) : (loadSpoilt s p d).2.strands = s.strands := by
  unfold loadSpoilt
  split
  · rfl
  · dsimp only; split <;> rfl

/-- The record of a load whose data were read at its check, once its request has met the error: spoiled, with the answer on its way. -/
theorem loadServed_bad_prods (hn : d.late = none) (hu : d.units = [u]) : ∃ m, ((loadServed s p d pa true).strand p).prods =
    (s.strand p).prods.map (fun y => if y = d then { d.spoiled (some u) with home := none, msg := m } else y) := by
  have hlate : lateRead (s.delivered d.msg) p d = ((d.sval, d.smark), s.delivered d.msg) := by simp only [lateRead, hn]
  have hspoilt : (loadSpoilt (s.delivered d.msg) p d).1 = d.spoiled (some u) := loadSpoilt_of_units hu
  have hkept : (fromHome (loadSpoilt (s.delivered d.msg) p d).2 pa (coreOf p)).2.strand p = s.strand p := by
    simp only [State.strand, fromHome_strands, loadSpoilt_strands, delivered_strands]
  refine ⟨(fromHome (loadSpoilt (s.delivered d.msg) p d).2 pa (coreOf p)).1, ?_⟩
  have hread : (d.spoiled (some u)).late = none := hn
  simp only [loadServed, hlate, if_true, hspoilt, hread, State.strand_post, State.strand_updStrand_self, hkept]

end

/-! ### A load that waits for registers of both kinds -/

/-- A load that waits for a scalar register and for a vector register, both of which receive bytes of ECC granule 0. -/
def scalarAndVectorLoad : Prod :=
  { tok := 1, sdest := some 1, sval := 0, smark := .clean, vdest := [(0, 0, 0)], ea := 0, home := some 0, srcs := [(0, 0, 0)] }
/-- An error in ECC granule 0 poisons what the vector register of that load receives, too. -/
theorem scalarAndVectorLoad_spoiled : (scalarAndVectorLoad.spoiled (some 0)).vdest.map (·.2.2) = [1] := by decide

/-- The state at reset, but that strand 0 waits for a load. -/
def resetWithLoad (d : Prod) : State := State.reset.setStrand 0 { Strand.reset with prods := [d] }
@[simp] theorem resetWithLoad_prods (d : Prod) : ((resetWithLoad d).strand 0).prods = [d] := rfl
@[simp] theorem resetWithLoad_modl (d : Prod) (m : Nat) : (resetWithLoad d).modl m = Module.reset := rfl
theorem plainHome_resetWithLoad (d : Prod) : PlainHome (resetWithLoad d) := by
  have hpgrp : Module.reset.pgrp.getLsbD 0 = false := by decide
  refine ⟨fun m => ?_, rfl, rfl, fun m => rfl⟩
  simp only [groupsAt, resetWithLoad_modl, hpgrp, Bool.false_eq_true, if_false]

/-- Refutes O17: its clause on an uncorrectable error, of a record with a scalar destination, lets the mark, the home and the message change and nothing
else. It asks nothing of `vdest`: of a record that waits for a vector register too, the model also poisons what that register receives of the ECC granule
(23 R374). No instruction issues such a record; the clause lacks the condition `d.vdest = []`. -/
theorem not_arrivals : ¬ Obligations.Arrivals := by
  unfold Obligations.Arrivals
  intro h
  obtain ⟨loads, -⟩ := h (resetWithLoad scalarAndVectorLoad)
  obtain ⟨-, served, -⟩ := loads 0 0 scalarAndVectorLoad rfl rfl
  obtain ⟨-, spoilt⟩ := served 0 rfl rfl
  obtain ⟨t, m, hexec, -, -, hprods⟩ := spoilt 1 rfl rfl (plainHome_resetWithLoad _) (by decide)
  rw [exec_loadDataArrival_served (pa := 0) rfl rfl rfl rfl] at hexec
  injection hexec with ht
  obtain ⟨m', hserved⟩ := loadServed_bad_prods (s := resetWithLoad scalarAndVectorLoad) (p := 0) (d := scalarAndVectorLoad) rfl (Prod.units_scalar rfl rfl)
  rw [ht, hprods] at hserved
  have hpoison : scalarAndVectorLoad.vdest.map (·.2.2) = (scalarAndVectorLoad.spoiled (some 0)).vdest.map (·.2.2) := by
    simpa using congrArg (List.map (fun y : Prod => y.vdest.map (·.2.2))) hserved
  rw [scalarAndVectorLoad_spoiled] at hpoison
  exact absurd hpoison (by decide)

end Sys2Proof.Machine
end
